-- ==== Sys2Proof/Word.lean ====
section
/-! DEFINITION. Sys2Proof/Word.lean: the machine's words, bytes, bit-field helpers and finite tables. -/

namespace Sys2Proof

/-- A byte of memory. -/
abbrev Byte := BitVec 8

/-- A g-register value (R7). -/
abbrev Word := BitVec 32

/-- An a-register value or a 64-bit virtual address (R11). -/
abbrev Dword := BitVec 64

/-- A finite table: key and value pairs, the first entry of a key counts. -/
abbrev Tab (κ α : Type) := List (κ × α)

/-- The value of key `k`, or `d` where the table lists none. -/
def tget {κ α : Type} [DecidableEq κ] (d : α) : Tab κ α → κ → α
  | [], _ => d
  | (k', v) :: r, k => if k' = k then v else tget d r k

/-- The value of key `k`, if listed. -/
def tfind {κ α : Type} [DecidableEq κ] : Tab κ α → κ → Option α
  | [], _ => none
  | (k', v) :: r, k => if k' = k then some v else tfind r k

/-- The table with `k` at `v`. -/
def tput {κ α : Type} [DecidableEq κ] (k : κ) (v : α) : Tab κ α → Tab κ α
  | [] => [(k, v)]
  | (k', v') :: r => if k' = k then (k, v) :: r else (k', v') :: tput k v r

/-- The table without key `k`. -/
def tdel {κ α : Type} [DecidableEq κ] (k : κ) : Tab κ α → Tab κ α
  | [] => []
  | (k', v') :: r => if k' = k then tdel k r else (k', v') :: tdel k r

end Sys2Proof
end

