-- ==== Sys2Proof/Syntax.lean ====
section
/-! DEFINITION. Sys2Proof/Syntax.lean: the instructions and events of the part, one constructor of Instr per row of
spec/opcode_table.json. Register numbers stay 7-bit fields (R59); operation codes are constructors. -/

namespace Sys2Proof

/-- SETP conditions (R65), in code order. -/
inductive ICond where
  | eq | ne | lt | le | gt | ge | ltu | leu | gtu | geu
  deriving DecidableEq, Repr

/-- FSETP conditions (R65, R105), in code order. -/
inductive FCond where
  | eq | ne | lt | le | gt | ge | num | nan
  deriving DecidableEq, Repr

/-- Element type of major 0x17 (R106), in code order. -/
inductive FElt where
  | f32 | bf16x2 | f64
  deriving DecidableEq, Repr

/-- ATOM operations (R66), in code order. -/
inductive AtomOp where
  | add32 | add64 | mins | maxs | minu | maxu | and | or | xor | xchg | cas32 | cas64 | fadd32 | badd2 | incw
  deriving DecidableEq, Repr

/-- ATOM scopes (R67), in code order. -/
inductive AScope where
  | die | pkg | dom | sys
  deriving DecidableEq, Repr

/-- LRED, LSCAN and LSTEP operations (R147), in code order. -/
inductive TeamOp where
  | add | mins | maxs | minu | maxu | and | or | xor | fadd | fmin | fmax
  deriving DecidableEq, Repr

/-- Publish scopes of barriers (R151), in code order. -/
inductive PScope where
  | none | blk | die | pkg | dom | sys
  deriving DecidableEq, Repr

/-- Scopes of FENCE, ACQ and REL (R65, R217), in code order. -/
inductive Scope where
  | thr | blk | die | pkg | dom | sys
  deriving DecidableEq, Repr

/-- Addressing modes of format M (R236, R237), in code order. -/
inductive Am where
  | offset | postInc | modulo | indexed
  deriving DecidableEq, Repr

/-- Access sizes of format M (R238), in code order. -/
inductive Sz where
  | u8 | u16 | w32 | w64 | w128 | s8 | s16
  deriving DecidableEq, Repr

/-- Conversions, named destination Of source, in code order (R110). -/
inductive CvtCode where
  | f32OfF64 | f64OfF32 | bf16x2OfF32 | f32OfBf16x2 | f16x2OfF32 | f32OfF16x2 | e4m3x4OfF32
  | f32OfE4m3x4 | e5m2x4OfF32 | f32OfE5m2x4 | e2m1x8OfF32 | f32OfE2m1x8 | e4m3x4OfBf16x2 | e5m2x4OfBf16x2
  | bxbandOfF32 | bx4blkOfF32 | f32OfBx4blk | i32OfF32 | u32OfF32 | f32OfI32 | f32OfU32 | i32OfF64
  | u32OfF64 | f64OfI32 | f64OfU32 | i64OfF64 | u64OfF64 | f64OfI64 | f64OfU64
  deriving DecidableEq, Repr

/-- Names a thread: a control-core thread (agent 5 * die + c, c = 4 the Gecko pair) or the compute thread in slot
`slot` of core `core` (within the partition) of context bank `x` (2 * partition + bank). -/
inductive Tid where
  | ctl (n : Nat)
  | cmp (x core slot : Nat)
  deriving DecidableEq, Repr

/-- What an access is, for the checks of R200 and the ACCESS field of R211, in code order. -/
inductive Acc where
  | load | store | atomic | fetch | engRead | engWrite | fixer | herbor | cxlio | distributor
  deriving DecidableEq, Repr

/-- The four engine queues of a core and bank (R261). -/
inductive EngQ where
  | matrix | copy | chain | scout
  deriving DecidableEq, Repr

/-- Where an uncorrectable error lies (R326): context state, of which an accumulator row of a core, a thread's g-register
and a scratchpad frame are named apart, user memory, the kernel's memory, or a place that is fatal. -/
inductive ErrSite where
  | context (p : Nat)
  | accumulator (p c tile row : Nat)
  | register (p c slot n : Nat)
  | frame (p c frame : Nat)
  | userMemory (p : Nat) (pa : Nat)
  | kernelMemory (die : Nat) (pa : Nat)
  | fatal
  deriving DecidableEq, Repr

/-- What the targeted self-test finds (R329). -/
inductive TestOutcome where
  | transient
  | lastingMemory (page : Nat)
  | lastingCore (p : Nat) (core : Nat)
  | lastingCluster (p : Nat) (cluster : Nat)
  | lastingLink (a b : Nat)
  deriving DecidableEq, Repr

/-- What an access of another package does (R340, R341). -/
inductive Inbound where
  | rd
  | wr (b : List Byte)
  | at' (o : AtomOp) (ops : List (BitVec 32))
  deriving DecidableEq, Repr

/-- A signed firmware or kernel image (R349): body with its header, the signer's public key, signature, security version. -/
structure Image where
  body    : List Byte
  key     : List Byte
  sig     : List Byte
  version : Nat
  deriving DecidableEq, Repr

/-- A partition as the resident kernel configures it (R1, R178): first core of the package, core count (whole or half
dies), SRAM split code. -/
structure PartCfg where
  first : Nat
  count : Nat
  s     : Nat
  deriving DecidableEq, Repr

/-- One word of the instruction set, or one event of the part, per row of the opcode table. `pg` is the guard (R57). -/
inductive Instr where
  /-- STORAGE_PATH_REQUEST (R210): a CXL.io storage-path request is translated under its SID and served, or held on a fault. -/
  | storagePathRequest (sid : Nat) (va : BitVec 64) (n : Nat) (wr : Option (List Byte))
  /-- HERBOR_INBOUND_ACCESS (R340): a remote package's access is translated and served locally. -/
  | herborInboundAccess (src sid : Nat) (va : BitVec 64) (n : Nat) (wr : Inbound)
  /-- ROLLBACK (R327): the context is restored to its last committed cut. -/
  | rollback (p : Nat)
  /-- ILLEGAL_INSTRUCTION (R69): a word with major 0x00, 0x1E or 0x2D to 0x2F, or an unlisted function code, raises the illegal-instruction trap. -/
  | illegalInstruction (w : BitVec 32)
  /-- ADD (R72): adds two g-registers modulo 2^32, saturating under HM SAT. -/
  | add (pg : BitVec 3) (d a b : BitVec 7)
  /-- SUB (R72): subtracts two g-registers modulo 2^32, saturating under HM SAT. -/
  | sub (pg : BitVec 3) (d a b : BitVec 7)
  /-- ADDC (R72): writes the carry of an unsigned 32-bit addition. -/
  | addc (pg : BitVec 3) (d a b : BitVec 7)
  /-- SUBB (R72): writes the borrow of an unsigned 32-bit subtraction. -/
  | subb (pg : BitVec 3) (d a b : BitVec 7)
  /-- AND (R75): bitwise AND of two g-registers. -/
  | and (pg : BitVec 3) (d a b : BitVec 7)
  /-- OR (R75): bitwise OR of two g-registers. -/
  | or (pg : BitVec 3) (d a b : BitVec 7)
  /-- XOR (R75): bitwise XOR of two g-registers. -/
  | xor (pg : BitVec 3) (d a b : BitVec 7)
  /-- ANDN (R75): ga AND NOT gb. -/
  | andn (pg : BitVec 3) (d a b : BitVec 7)
  /-- SHL (R76): logical left shift by a register count. -/
  | shl (pg : BitVec 3) (d a b : BitVec 7)
  /-- SHR (R76): logical right shift by a register count. -/
  | shr (pg : BitVec 3) (d a b : BitVec 7)
  /-- SAR (R76): arithmetic right shift by a register count. -/
  | sar (pg : BitVec 3) (d a b : BitVec 7)
  /-- ROTR (R76): rotate right by a register count modulo 32. -/
  | rotr (pg : BitVec 3) (d a b : BitVec 7)
  /-- MUL (R72): low 32 bits of a signed product, saturating under HM SAT. -/
  | mul (pg : BitVec 3) (d a b : BitVec 7)
  /-- MULHU (R72): high 32 bits of an unsigned product. -/
  | mulhu (pg : BitVec 3) (d a b : BitVec 7)
  /-- MULHS (R72): high 32 bits of a signed product. -/
  | mulhs (pg : BitVec 3) (d a b : BitVec 7)
  /-- MAD (R72): multiply-add with gd as addend. -/
  | mad (pg : BitVec 3) (d a b : BitVec 7)
  /-- MIN (R72): signed minimum. -/
  | min (pg : BitVec 3) (d a b : BitVec 7)
  /-- MAX (R72): signed maximum. -/
  | max (pg : BitVec 3) (d a b : BitVec 7)
  /-- MINU (R72): unsigned minimum. -/
  | minu (pg : BitVec 3) (d a b : BitVec 7)
  /-- MAXU (R72): unsigned maximum. -/
  | maxu (pg : BitVec 3) (d a b : BitVec 7)
  /-- CLZ (R73): counts leading zero bits. -/
  | clz (pg : BitVec 3) (d a : BitVec 7)
  /-- POPC (R73): counts one bits. -/
  | popc (pg : BitVec 3) (d a : BitVec 7)
  /-- BREV (R73): reverses the bit order. -/
  | brev (pg : BitVec 3) (d a : BitVec 7)
  /-- ABS (R73): absolute value modulo 2^32. -/
  | abs (pg : BitVec 3) (d a : BitVec 7)
  /-- ADD64 (R74): 64-bit addition of register pairs. -/
  | add64 (pg : BitVec 3) (d a b : BitVec 7)
  /-- SUB64 (R74): 64-bit subtraction of register pairs. -/
  | sub64 (pg : BitVec 3) (d a b : BitVec 7)
  /-- SHL64 (R74): 64-bit left shift of a pair. -/
  | shl64 (pg : BitVec 3) (d a b : BitVec 7)
  /-- SHR64 (R74): 64-bit logical right shift of a pair. -/
  | shr64 (pg : BitVec 3) (d a b : BitVec 7)
  /-- ADDI (R77): adds a sign-extended immediate, widened by HX. -/
  | addi (pg : BitVec 3) (d a : BitVec 7) (i : BitVec 9)
  /-- ANDI (R77): aNDs an immediate. -/
  | andi (pg : BitVec 3) (d a : BitVec 7) (i : BitVec 9)
  /-- ORI (R77): oRs an immediate. -/
  | ori (pg : BitVec 3) (d a : BitVec 7) (i : BitVec 9)
  /-- XORI (R77): xORs an immediate. -/
  | xori (pg : BitVec 3) (d a : BitVec 7) (i : BitVec 9)
  /-- SHLI (R76): left shift by an immediate amount. -/
  | shli (pg : BitVec 3) (d a : BitVec 7) (n : BitVec 5)
  /-- SHRI (R76): logical right shift by an immediate amount. -/
  | shri (pg : BitVec 3) (d a : BitVec 7) (n : BitVec 5)
  /-- SARI (R76): arithmetic right shift by an immediate amount. -/
  | sari (pg : BitVec 3) (d a : BitVec 7) (n : BitVec 5)
  /-- ROTRI (R76): rotate right by an immediate amount. -/
  | rotri (pg : BitVec 3) (d a : BitVec 7) (n : BitVec 5)
  /-- MOVI (R78): writes a sign-extended 16-bit immediate, or a wider one with HX. -/
  | movi (pg : BitVec 3) (d : BitVec 7) (i : BitVec 16)
  /-- BFE (R79): extracts a signed bit field. -/
  | bfe (pg : BitVec 3) (d a b : BitVec 7)
  /-- BFEU (R79): extracts an unsigned bit field. -/
  | bfeu (pg : BitVec 3) (d a b : BitVec 7)
  /-- BFI (R79): inserts a bit field into gd. -/
  | bfi (pg : BitVec 3) (d a b : BitVec 7)
  /-- PRMT (R80): permutes bytes under a selector in gd. -/
  | prmt (pg : BitVec 3) (d a b : BitVec 7)
  /-- SETP (R81): sets a predicate from a 32-bit register comparison. -/
  | setp (pg q : BitVec 3) (c : ICond) (a b : BitVec 7)
  /-- SETP_64 (R81): sets a predicate from a 64-bit pair comparison. -/
  | setp64 (pg q : BitVec 3) (c : ICond) (a b : BitVec 7)
  /-- SETP_IMM (R81): sets a predicate from a comparison with a 7-bit immediate. -/
  | setpImm (pg q : BitVec 3) (c : ICond) (a i : BitVec 7)
  /-- PLOP (R82): computes a predicate from a truth table of two predicates. -/
  | plop (pg q a b : BitVec 3) (t : BitVec 4)
  /-- SEL (R83): selects ga or gb by one of p0 to p3. -/
  | sel (pg : BitVec 3) (d a b : BitVec 7) (s : BitVec 2)
  /-- LDA (R84): loads an address register from a g-register pair. -/
  | lda (pg x : BitVec 3) (g : BitVec 7)
  /-- STA (R84): copies an address register into a g-register pair. -/
  | sta (pg x : BitVec 3) (g : BitVec 7)
  /-- ADDA (R84): adds a sign-extended g-register to an address register. -/
  | adda (pg x : BitVec 3) (g : BitVec 7)
  /-- ADDAI (R84): adds an immediate to an address register. -/
  | addai (pg x : BitVec 3) (i : BitVec 10)
  /-- SETM (R84): sets a modulo window register from a pair. -/
  | setm (pg x : BitVec 3) (g : BitVec 7)
  /-- CLRM (R84): clears a modulo window register. -/
  | clrm (pg x : BitVec 3)
  /-- CSRR (R85): reads a CSR into a g-register. -/
  | csrr (pg : BitVec 3) (d : BitVec 7) (c : BitVec 12)
  /-- CSRW (R86): writes a CSR under the level, number and value checks. -/
  | csrw (pg : BitVec 3) (d : BitVec 7) (c : BitVec 12)
  /-- CSRS (R86): sets CSR bits from a g-register. -/
  | csrs (pg : BitVec 3) (d : BitVec 7) (c : BitVec 12)
  /-- CSRC (R86): clears CSR bits from a g-register. -/
  | csrc (pg : BitVec 3) (d : BitVec 7) (c : BitVec 12)
  /-- FADD (R99): fP32 addition. -/
  | fadd (pg : BitVec 3) (d a b : BitVec 7)
  /-- FSUB (R99): fP32 subtraction. -/
  | fsub (pg : BitVec 3) (d a b : BitVec 7)
  /-- FMUL (R99): fP32 multiplication. -/
  | fmul (pg : BitVec 3) (d a b : BitVec 7)
  /-- FMIN (R100): fP32 minimum. -/
  | fmin (pg : BitVec 3) (d a b : BitVec 7)
  /-- FFMA (R99): fP32 fused multiply-add with gd as addend. -/
  | ffma (pg : BitVec 3) (d a b : BitVec 7)
  /-- FFMS (R99): fP32 fused multiply-subtract of gd. -/
  | ffms (pg : BitVec 3) (d a b : BitVec 7)
  /-- FMAX (R100): fP32 maximum. -/
  | fmax (pg : BitVec 3) (d a b : BitVec 7)
  /-- FCPYS (R101): magnitude of ga with the sign of gb. -/
  | fcpys (pg : BitVec 3) (d a b : BitVec 7)
  /-- FSETP (R105): sets a predicate from an FP32 or FP64 comparison. -/
  | fsetp (pg q : BitVec 3) (c : FCond) (a b : BitVec 7) (t : BitVec 1)
  /-- FRCP (R107): faithful reciprocal. -/
  | frcp (pg : BitVec 3) (d a : BitVec 7) (t : FElt)
  /-- FRSQ (R107): faithful reciprocal square root. -/
  | frsq (pg : BitVec 3) (d a : BitVec 7) (t : FElt)
  /-- FSQRT (R107): correctly rounded square root. -/
  | fsqrt (pg : BitVec 3) (d a : BitVec 7) (t : FElt)
  /-- FEXP2 (R107): approximate 2^x. -/
  | fexp2 (pg : BitVec 3) (d a : BitVec 7) (t : FElt)
  /-- FLOG2 (R107): approximate log2 x. -/
  | flog2 (pg : BitVec 3) (d a : BitVec 7) (t : FElt)
  /-- FSIN (R107): approximate sine. -/
  | fsin (pg : BitVec 3) (d a : BitVec 7) (t : FElt)
  /-- FCOS (R107): approximate cosine. -/
  | fcos (pg : BitVec 3) (d a : BitVec 7) (t : FElt)
  /-- FTANH (R107): approximate hyperbolic tangent. -/
  | ftanh (pg : BitVec 3) (d a : BitVec 7) (t : FElt)
  /-- FSIGM (R107): approximate logistic sigmoid. -/
  | fsigm (pg : BitVec 3) (d a : BitVec 7) (t : FElt)
  /-- FABS (R107): exact absolute value. -/
  | fabs (pg : BitVec 3) (d a : BitVec 7) (t : FElt)
  /-- FNEG (R107): exact negation. -/
  | fneg (pg : BitVec 3) (d a : BitVec 7) (t : FElt)
  /-- FRND (R107): rounds to an integral value in the captured mode. -/
  | frnd (pg : BitVec 3) (d a : BitVec 7) (t : FElt)
  /-- FCLASS (R107): writes a one-hot class mask. -/
  | fclass (pg : BitVec 3) (d a : BitVec 7) (t : FElt)
  /-- DADD (R102): fP64 addition. -/
  | dadd (pg : BitVec 3) (d a b : BitVec 7)
  /-- DSUB (R102): fP64 subtraction. -/
  | dsub (pg : BitVec 3) (d a b : BitVec 7)
  /-- DMUL (R102): fP64 multiplication. -/
  | dmul (pg : BitVec 3) (d a b : BitVec 7)
  /-- DFMA (R102): fP64 fused multiply-add. -/
  | dfma (pg : BitVec 3) (d a b : BitVec 7)
  /-- DMIN (R102): fP64 minimum. -/
  | dmin (pg : BitVec 3) (d a b : BitVec 7)
  /-- DMAX (R102): fP64 maximum. -/
  | dmax (pg : BitVec 3) (d a b : BitVec 7)
  /-- DRCPA (R103): 12-bit reciprocal seed. -/
  | drcpa (pg : BitVec 3) (d a : BitVec 7)
  /-- DRSQA (R103): 12-bit reciprocal square root seed. -/
  | drsqa (pg : BitVec 3) (d a : BitVec 7)
  /-- BADD2 (R104): packed BF16 addition. -/
  | badd2 (pg : BitVec 3) (d a b : BitVec 7)
  /-- BMUL2 (R104): packed BF16 multiplication. -/
  | bmul2 (pg : BitVec 3) (d a b : BitVec 7)
  /-- BFMA2 (R104): packed BF16 fused multiply-add. -/
  | bfma2 (pg : BitVec 3) (d a b : BitVec 7)
  /-- BMAX2 (R104): packed BF16 maximum. -/
  | bmax2 (pg : BitVec 3) (d a b : BitVec 7)
  /-- HADD2 (R104): packed FP16 addition. -/
  | hadd2 (pg : BitVec 3) (d a b : BitVec 7)
  /-- HMUL2 (R104): packed FP16 multiplication. -/
  | hmul2 (pg : BitVec 3) (d a b : BitVec 7)
  /-- HFMA2 (R104): packed FP16 fused multiply-add. -/
  | hfma2 (pg : BitVec 3) (d a b : BitVec 7)
  /-- HMAX2 (R104): packed FP16 maximum. -/
  | hmax2 (pg : BitVec 3) (d a b : BitVec 7)
  /-- CVT (R110): converts between formats by conversion code and rounding mode. -/
  | cvt (pg : BitVec 3) (d a : BitVec 7) (y : BitVec 1) (c : CvtCode) (f : BitVec 2)
  /-- KNEXT (R87): finds the next set bit of a tile mask. -/
  | knext (pg : BitVec 3) (d : BitVec 7) (k : BitVec 3) (b : BitVec 7)
  /-- KPOP (R87): counts the set bits of a tile mask. -/
  | kpop (pg : BitVec 3) (d : BitVec 7) (k : BitVec 3)
  /-- KGET (R87): reads one word of a tile mask. -/
  | kget (pg : BitVec 3) (d : BitVec 7) (k : BitVec 3) (b : BitVec 7)
  /-- KSET (R87): writes one word of a tile mask. -/
  | kset (pg : BitVec 3) (s : BitVec 7) (k : BitVec 3) (b : BitVec 7)
  /-- TRAP (R93): raises cause 0x0D with its code. -/
  | trap (pg : BitVec 3) (c : BitVec 12)
  /-- BKPT (R93): raises the breakpoint trap. -/
  | bkpt (pg : BitVec 3)
  /-- RTE (R29): returns from the trap set of the current level. -/
  | rte (pg : BitVec 3)
  /-- WFI (R94): stops issue until a takeable interrupt is pending. -/
  | wfi (pg : BitVec 3)
  /-- RDTS (R96): reads one item of a thread of a halted partition. -/
  | rdts (pg : BitVec 3) (d s : BitVec 7)
  /-- WRTS (R96): writes one item of a thread of a halted partition. -/
  | wrts (pg : BitVec 3) (d s : BitVec 7)
  /-- RESUME (R319): releases a halted partition. -/
  | resume (pg : BitVec 3) (d : BitVec 7) (n : BitVec 3)
  /-- BRA (R88): pC-relative branch. -/
  | bra (pg : BitVec 3) (o : BitVec 23)
  /-- CALL (R88): pC-relative call with link in a7. -/
  | call (pg : BitVec 3) (o : BitVec 23)
  /-- BRX (R89): branch through an address register. -/
  | brx (pg x : BitVec 3)
  /-- CALLX (R89): call through an address register. -/
  | callx (pg x : BitVec 3)
  /-- RET (R89): branch to a7. -/
  | ret (pg : BitVec 3)
  /-- EXIT (R91): ends the thread after its older work completes. -/
  | exit (pg : BitVec 3)
  /-- JARM (R133): arms a join slot for the thread. -/
  | jarm (pg : BitVec 3) (j : BitVec 4)
  /-- JDIS (R133): disarms a join slot for the thread. -/
  | jdis (pg : BitVec 3) (j : BitVec 4)
  /-- JOIN (R133): parks an armed thread until the slot releases; dissolves the bundle. -/
  | join (pg : BitVec 3) (j : BitVec 4)
  /-- JTEST (R143): reads the thread's armed bit into a predicate. -/
  | jtest (pg q : BitVec 3) (j : BitVec 4)
  /-- SHFL_IDX (R145): team shuffle from an indexed position. -/
  | shflIdx (pg : BitVec 3) (d a b : BitVec 7)
  /-- SHFL_UP (R145): team shuffle from a lower position. -/
  | shflUp (pg : BitVec 3) (d a o : BitVec 7)
  /-- SHFL_DN (R145): team shuffle from a higher position. -/
  | shflDn (pg : BitVec 3) (d a o : BitVec 7)
  /-- SHFL_XOR (R145): team shuffle from an XOR position. -/
  | shflXor (pg : BitVec 3) (d a o : BitVec 7)
  /-- VOTE_ALL (R146): aND of a predicate over the team. -/
  | voteAll (pg q s : BitVec 3)
  /-- VOTE_ANY (R146): oR of a predicate over the team. -/
  | voteAny (pg q s : BitVec 3)
  /-- BALLOT (R146): team mask of a predicate. -/
  | ballot (pg : BitVec 3) (d : BitVec 7) (s : BitVec 3)
  /-- MATCH (R146): team mask of equal values. -/
  | matchg (pg : BitVec 3) (d a : BitVec 7)
  /-- LRED (R147): team reduction. -/
  | lred (pg : BitVec 3) (d a : BitVec 7) (o : TeamOp)
  /-- LSCAN (R147): team prefix scan. -/
  | lscan (pg : BitVec 3) (d a : BitVec 7) (e : BitVec 1) (o : TeamOp)
  /-- LSTEP (R148): team segmented inclusive scan. -/
  | lstep (pg : BitVec 3) (d a : BitVec 7) (h : BitVec 3) (o : TeamOp)
  /-- LRANK (R148): team rank count. -/
  | lrank (pg : BitVec 3) (d a : BitVec 7) (m : BitVec 1)
  /-- KEYGRP (R149): sets the thread's key and dissolves the bundle. -/
  | keygrp (pg : BitVec 3) (a : BitVec 7)
  /-- SPAWN (R150): creates a block on the same core and writes a status. -/
  | spawn (pg : BitVec 3) (d a b : BitVec 7)
  /-- YIELD (R149): threads leave the bundle for the pond at the next word. -/
  | yield (pg : BitVec 3)
  /-- SLEEP (R149): thread leaves its bundle and waits a number of clocks. -/
  | sleep (pg : BitVec 3) (a : BitVec 7)
  /-- BAR (R152): arrives at a block barrier and waits for its completion. -/
  | bar (pg : BitVec 3) (i : BitVec 4) (s : PScope)
  /-- BARG (R154): arrives at a group barrier. -/
  | barg (pg : BitVec 3) (s : PScope) (a : BitVec 7)
  /-- ARRIVE (R152): arrives at a block barrier without waiting. -/
  | arrive (pg : BitVec 3) (i : BitVec 4) (s : PScope)
  /-- AWAIT (R152): waits for a barrier phase change. -/
  | await (pg : BitVec 3) (i : BitVec 4)
  /-- SYNCT (R155): masked synchronisation within a team. -/
  | synct (pg : BitVec 3) (a : BitVec 7)
  /-- TICKET (R157): draws from a block ticket counter. -/
  | ticket (pg : BitVec 3) (d : BitVec 7) (k : BitVec 4)
  /-- EVSET (R158): sets an event counter. -/
  | evset (pg : BitVec 3) (d : BitVec 7) (n : BitVec 6) (r : BitVec 1) (k : BitVec 7)
  /-- EVSIG (R158): decrements an event counter, floor 0, firing bindings on reaching 0. -/
  | evsig (pg : BitVec 3) (d : BitVec 7) (n : BitVec 6) (r : BitVec 1) (k : BitVec 7)
  /-- EVWAIT (R158): parks until an event counter reads 0. -/
  | evwait (pg : BitVec 3) (n : BitVec 6)
  /-- EVREAD (R158): reads an event counter. -/
  | evread (pg : BitVec 3) (d : BitVec 7) (n : BitVec 6)
  /-- NREC (R160): appends a record to a node bin. -/
  | nrec (pg : BitVec 3) (d a b : BitVec 7)
  /-- LAUNCH (R160): enters a launch record in its queue. -/
  | launch (pg : BitVec 3) (d a : BitVec 7)
  /-- NFLUSH (R160): launches a node bin now. -/
  | nflush (pg : BitVec 3) (d b : BitVec 7)
  /-- SEND (R162): sends a 16-byte message to a ring. -/
  | send (pg : BitVec 3) (d a b : BitVec 7)
  /-- RPOLL (R163): reads the number of pending ring messages. -/
  | rpoll (pg : BitVec 3) (d a : BitVec 7)
  /-- RWAIT (R163): parks until a ring holds a message. -/
  | rwait (pg : BitVec 3) (d a : BitVec 7)
  /-- RADV (R163): advances a ring's HEAD. -/
  | radv (pg : BitVec 3) (d a b : BitVec 7)
  /-- LD (R239): loads from global memory. -/
  | ld (pg : BitVec 3) (d : BitVec 7) (r : BitVec 3) (m : Am) (s : Sz) (o : BitVec 8)
  /-- ST (R239): stores to global memory. -/
  | st (pg : BitVec 3) (d : BitVec 7) (r : BitVec 3) (m : Am) (s : Sz) (o : BitVec 8)
  /-- LDS (R239): loads from the block's scratchpad. -/
  | lds (pg : BitVec 3) (d : BitVec 7) (r : BitVec 3) (m : Am) (s : Sz) (o : BitVec 8)
  /-- STS (R239): stores to the block's scratchpad. -/
  | sts (pg : BitVec 3) (d : BitVec 7) (r : BitVec 3) (m : Am) (s : Sz) (o : BitVec 8)
  /-- ATOM (R243): atomic operation at the home slice. -/
  | atom (pg : BitVec 3) (d : BitVec 7) (r : BitVec 3) (o : AtomOp) (b : BitVec 7) (s : AScope)
  /-- ATOMS (R245): atomic operation on a scratchpad word. -/
  | atoms (pg : BitVec 3) (d : BitVec 7) (r : BitVec 3) (o : AtomOp) (b : BitVec 7)
  /-- FENCE (R226): orders the thread's accesses at a scope. -/
  | fence (pg : BitVec 3) (s : Scope)
  /-- ACQ (R224): acquiring load of a bound object word. -/
  | acq (pg : BitVec 3) (g : BitVec 7) (e : BitVec 6) (s : Scope)
  /-- REL (R223): releasing store of a bound object word. -/
  | rel (pg : BitVec 3) (g : BitVec 7) (e : BitVec 6) (s : Scope)
  /-- BIND (R249): writes a binding-table entry. -/
  | bind (pg : BitVec 3) (g : BitVec 7) (r : BitVec 3) (e : BitVec 6)
  /-- UNBIND (R249): clears a binding-table entry. -/
  | unbind (pg : BitVec 3) (e : BitVec 6)
  /-- PREF (R251): requests a line as a load fill would. -/
  | pref (pg r : BitVec 3) (m : Am) (o : BitVec 8)
  /-- CINV (R251): drops a line from the core's L1. -/
  | cinv (pg r : BitVec 3) (m : Am) (o : BitVec 8)
  /-- CWB (R251): sends buffered writes of a line to its home slice. -/
  | cwb (pg r : BitVec 3) (m : Am) (o : BitVec 8)
  /-- TDSET (R279): writes one word of a tensor descriptor. -/
  | tdset (pg : BitVec 3) (h : BitVec 8) (g : BitVec 7) (w : BitVec 4)
  /-- TDGET (R279): reads one word of a tensor descriptor. -/
  | tdget (pg : BitVec 3) (h : BitVec 8) (g : BitVec 7) (w : BitVec 4)
  /-- TDLD (R279): loads a whole descriptor from memory. -/
  | tdld (pg : BitVec 3) (h : BitVec 8) (g : BitVec 7)
  /-- TDINV (R279): clears a descriptor. -/
  | tdinv (pg : BitVec 3) (h : BitVec 8)
  /-- CP (R281): queues a bit copy in the open copy batch. -/
  | cp (pg : BitVec 3) (d s : BitVec 8)
  /-- CPC (R282): queues a converting copy in the open copy batch. -/
  | cpc (pg : BitVec 3) (d s : BitVec 8)
  /-- CPZ (R281): queues a zero fill in the open copy batch. -/
  | cpz (pg : BitVec 3) (d : BitVec 8)
  /-- CPSEAL (R283): seals the open copy batch to a token register. -/
  | cpseal (pg : BitVec 3) (d : BitVec 7)
  /-- CPWAIT (R283): waits for an older copy batch. -/
  | cpwait (pg : BitVec 3) (s : BitVec 7)
  /-- CPTEST (R283): tests whether a copy batch has completed. -/
  | cptest (pg : BitVec 3) (d : BitVec 7)
  /-- MMA (R285): queues a matrix product added into accumulators. -/
  | mma (pg : BitVec 3) (a b : BitVec 8) (n : BitVec 4)
  /-- MMAS (R286): queues a 2:4 sparse matrix product. -/
  | mmas (pg : BitVec 3) (a b : BitVec 8) (n : BitVec 4)
  /-- MMAB (R287): queues 16 batched small products into one tile. -/
  | mmab (pg : BitVec 3) (a b : BitVec 8) (n : BitVec 4)
  /-- MMAM (R288): queues a masked matrix product. -/
  | mmam (pg : BitVec 3) (a b : BitVec 8) (n : BitVec 4)
  /-- MMAZ (R285): queues a matrix product into cleared accumulators. -/
  | mmaz (pg : BitVec 3) (a b : BitVec 8) (n : BitVec 4)
  /-- DMMA (R289): queues an FP64 matrix product. -/
  | dmma (pg : BitVec 3) (a b : BitVec 8) (n : BitVec 4)
  /-- ACCZ (R292): queues a clear of an accumulator tile. -/
  | accz (pg : BitVec 3) (n : BitVec 4)
  /-- ACCLD (R292): queues a load of a tile from a tensor. -/
  | accld (pg : BitVec 3) (s : BitVec 8) (n : BitVec 4)
  /-- ACCST (R293): queues a store of a tile to a tensor in the copy batch. -/
  | accst (pg : BitVec 3) (d : BitVec 8) (n : BitVec 4)
  /-- ACCRD (R294): reads an accumulator cell or its poison. -/
  | accrd (pg : BitVec 3) (d c : BitVec 7) (n : BitVec 4)
  /-- ACCWR (R294): writes an accumulator cell. -/
  | accwr (pg : BitVec 3) (s c : BitVec 7) (n : BitVec 4)
  /-- OWNV (R271): takes a tile to the vector side after its matrix commands retire. -/
  | ownv (pg : BitVec 3) (n : BitVec 4)
  /-- OWNM (R271): returns a tile to the matrix side. -/
  | ownm (pg : BitVec 3) (n : BitVec 4)
  /-- ACCPSN (R294): poisons an accumulator row. -/
  | accpsn (pg : BitVec 3) (s c : BitVec 7) (n : BitVec 4)
  /-- SCOUT (R296): queues the low-precision scout pass over key tiles. -/
  | scout (pg : BitVec 3) (s q : BitVec 8)
  /-- DODGE (R297): queues a threshold of scores into a tile mask. -/
  | dodge (pg : BitVec 3) (s : BitVec 8) (t : BitVec 7) (k : BitVec 3)
  /-- CHSET (R298): queues a load of the block's chain. -/
  | chset (pg : BitVec 3) (h : BitVec 8)
  /-- CHAIN (R299): queues an element-wise chain over one source. -/
  | chain (pg : BitVec 3) (d s : BitVec 8)
  /-- CHAIN2 (R299): queues an element-wise chain over two sources. -/
  | chain2 (pg : BitVec 3) (d s : BitVec 8)
  /-- HX (R62): hint that extends the next instruction's immediate. -/
  | hx (e : BitVec 23)
  /-- HM (R60): hint with negate, saturate, rounding and cache fields. -/
  | hm (n s : BitVec 1) (r : BitVec 3) (c : BitVec 2)
  /-- HE (R60): hint with gang, mask, event and third-handle fields. -/
  | he (g : BitVec 1) (k : BitVec 3) (m v : BitVec 1) (e : BitVec 6) (t : BitVec 8)
  /-- HS (R127): hint with hold, regroup-now and pack fields. -/
  | hs (h : BitVec 7) (r k : BitVec 1)
  /-- INTERRUPT (R28): a pending interrupt is taken at kernel level between two words. -/
  | interrupt (n src : Nat)
  /-- PARTITION_STOPPED (R311): every unit has stopped and written steps retired; the partition-halted interrupt is raised. -/
  | partitionStopped (p : Nat)
  /-- FORMATION_CYCLE (R126): on every even clock the regrouper forms up to four bundles from the pond. -/
  | formationCycle (x c : Nat)
  /-- THREAD_SPLIT (R124): a thread not ready 64 cycles after its bundle waited leaves the bundle. -/
  | threadSplit (t : Tid)
  /-- TEAM_INSTANCE_EXECUTE (R136): a complete team instance executes as one clean bundle of the team. -/
  | teamInstanceExecute (x c blk team : Nat)
  /-- SLEEP_EXPIRY (R149): a sleeping thread's count expires and it enters the pond. -/
  | sleepExpiry (t : Tid)
  /-- LOAD_RETURN (R239): a load's data returns and writes its destinations. -/
  | loadReturn (x id : Nat)
  /-- STORE_ACKNOWLEDGE (R229): a store is acknowledged at its scope point, the block counter drops and logical time advances. -/
  | storeAcknowledge (x id : Nat)
  /-- LOGICAL_TIME_TICK (R229): every 64 clocks a core's logical time advances by one. -/
  | logicalTimeTick (core : Nat)
  /-- LOGICAL_TIME_RAISE (R232): every 1,024 clocks cores lying far behind are raised. -/
  | logicalTimeRaise (die : Nat)
  /-- L1_SWEEP (R232): the L1 sweeper invalidates lines whose lease lies far behind. -/
  | l1Sweep (core : Nat)
  /-- L2_SWEEP (R232): the L2 sweeper raises old timestamps and MTS to the die floor. -/
  | l2Sweep (die slice : Nat)
  /-- MEMORY_FILL (R229): a line enters L2 from memory with timestamps equal to the slice's MTS. -/
  | memoryFill (line : Nat) (victim : Option Nat) (req : Nat) (ac : Bool)
  /-- READS (R336): home handles a replica read request from another die. -/
  | reads (line r : Nat)
  /-- READOWN (R336): home handles a request for ownership from another die. -/
  | readown (line r : Nat)
  /-- UPGRADE (R336): home upgrades a sharer or owner to M. -/
  | upgrade (line r : Nat)
  /-- EVICTC (R336): home removes a die evicting a clean replica. -/
  | evictc (line r : Nat)
  /-- WRITEBACK (R336): home takes or discards a dirty replica's write-back and acknowledges it. -/
  | writeback (line r : Nat)
  /-- FWDS (R336): owner replica forwards data to a reader and downgrades. -/
  | fwds (line r : Nat)
  /-- FWDOWN (R336): owner replica forwards data and ownership and invalidates. -/
  | fwdown (line r : Nat)
  /-- INV (R336): a sharer replica invalidates and returns its greatest granted rts. -/
  | inv (line r : Nat)
  /-- GRANTM (R336): a replica receives ownership and applies its held store. -/
  | grantm (line r : Nat)
  /-- FLIT_REPLAY (R333): a flit failing its check is replayed from the sender's buffer. -/
  | flitReplay (a b : Nat)
  /-- LINK_DOWN (R333): after 64 consecutive replays a die-to-die link is taken down and traffic detours. -/
  | linkDown (a b via : Nat)
  /-- HOST_SNOOP (R345): a host snoop of a host-range line is answered once conditions hold. -/
  | hostSnoop (line : Nat)
  /-- HOST_MEMORY_ACCESS (R346): a host CXL.mem access to device memory is served at system scope. -/
  | hostMemoryAccess (addr n : Nat) (wr : Option (List Byte))
  /-- RING_APPEND (R162): the network interface appends an arriving message to a ring. -/
  | ringAppend (id : Nat)
  /-- PAGE_WALK (R197): a TLB miss walks the page tables and completes. -/
  | pageWalk (die sid : Nat) (va : BitVec 64) (acc : Acc)
  /-- FAULT_RECORD_WRITE (R211): a fault record is written to the fault queue and raises its interrupt. -/
  | faultRecordWrite (p : Nat)
  /-- OPERAND_LOG_REPLAY (R207): a logged access re-translates and completes or faults again. -/
  | operandLogReplay (x id : Nat)
  /-- SCRATCHPAD_PAGE_FAULT (R183): the Fixer begins serving a non-resident scratchpad page. -/
  | scratchpadPageFault (x c bs vpn : Nat)
  /-- PAGE_FILL_COMPLETE (R183): a frame is filled and the waiting accesses are performed. -/
  | pageFillComplete (x c bs vpn : Nat)
  /-- WRITE_OUT_ACK (R184): a victim page's write-out is acknowledged and its frame freed. -/
  | writeOutAck (x c bs vpn : Nat)
  /-- BLOCK_MIGRATE (R189): the Fixer moves a block to another core or refuses. -/
  | blockMigrate (x c bs dst : Nat)
  /-- ENGINE_STEP (R264): an engine begins a step of its running command. -/
  | engineStep (x c : Nat) (q : EngQ)
  /-- STEP_RETIRE (R264): a step's writes are performed and it retires. -/
  | stepRetire (x c : Nat) (q : EngQ)
  /-- COPY_BATCH_COMPLETE (R267): a copy batch completes and its token is written. -/
  | copyBatchComplete (t : Tid)
  /-- GANG_ARRIVAL (R272): a joint command reaches the head of its queue at the rendezvous latch. -/
  | gangArrival (x c : Nat)
  /-- LAUNCH_RECORD_READ (R167): the distributor reads and checks the record at the head of a queue. -/
  | launchRecordRead (x q : Nat)
  /-- BLOCK_PLACE (R170): the distributor places at most one block per clock. -/
  | blockPlace (p : Nat)
  /-- PRIORITY_WAIT_EXPIRY (R171): a block waiting 14,400 clocks blocks lower-priority placement. -/
  | priorityWaitExpiry (p q : Nat)
  /-- BLOCK_RETIRE (R172): a block's resources are freed once its work completes. -/
  | blockRetire (x c bs : Nat)
  /-- LAUNCH_COMPLETE (R172): a launch completes and decrements its completion counter. -/
  | launchComplete (x l : Nat)
  /-- BIN_TIMER_EXPIRY (R175): a node bin's timer expires and it launches its records. -/
  | binTimerExpiry (x bin : Nat)
  /-- DOORBELL (R165): a host write of a record address enters a queue or is dropped. -/
  | doorbell (x q : Nat) (addr : BitVec 64)
  /-- CTXROOT_WRITE (R196): a translation root write, refused when an RSV field is set. -/
  | ctxrootWrite (die off : Nat) (v : BitVec 64)
  /-- SHOOT (R353): a shootdown command is accepted or ignored with ERR. -/
  | shoot (die : Nat) (v : BitVec 64)
  /-- SHOOTDOWN_COMPLETE (R204): all TLBs have dropped entries and walks finished; BUSY clears. -/
  | shootdownComplete (die : Nat)
  /-- FRESP_RETRY (R212): the kernel answers a fault record with RETRY. -/
  | frespRetry (p tag : Nat)
  /-- FRESP_ERROR (R212): the kernel answers a fault record with ERROR. -/
  | frespError (p tag : Nat)
  /-- BOOTSTAT_WRITE (R348): the kernel writes RUN, ending reduced service. -/
  | bootstatWrite (die : Nat) (v : BitVec 64)
  /-- CONFIG_WINDOW_WRITE (R352): a write to a configuration-window register without behaviour of its own. -/
  | configWindowWrite (die off : Nat) (v : BitVec 64)
  /-- SWAP (R322): a shadow-bank swap switches the active context in 96 cycles. -/
  | swap (p : Nat) (abandon : Bool)
  /-- SAVE_COMPLETE (R322): the outgoing bank is saved; it becomes FREE and the interrupt is raised. -/
  | saveComplete (p : Nat)
  /-- FILL_COMPLETE (R321): a context load from its save area completes and the bank becomes READY. -/
  | fillComplete (p : Nat)
  /-- CHECKPOINT_INTERVAL_EXPIRY (R324): the checkpoint interval expires and a snapshot begins. -/
  | checkpointIntervalExpiry (p : Nat)
  /-- SNAPSHOT_SWAP (R324): the active bank is copied into the shadow bank at the cut. -/
  | snapshotSwap (p : Nat)
  /-- CHECKPOINT_COMMIT (R324): the checkpoint write and old-epoch writes complete and it commits. -/
  | checkpointCommit (p : Nat)
  /-- UNCORRECTABLE_ERROR (R326): an uncorrectable error is handled by where it lies. -/
  | uncorrectableError (e : ErrSite)
  /-- KERNEL_LINE_RESTORE (R328): the Gecko pair rewrites a kernel line from its mirror. -/
  | kernelLineRestore (die line : Nat)
  /-- SELF_TEST (R329): firmware tests the unit that held an error and reports. -/
  | selfTest (die : Nat) (f : TestOutcome)
  /-- FATAL_STOP (R330): firmware stops the module, dumps state and holds reset. -/
  | fatalStop
  /-- POWER_ON (R348): module power-on starts a cold boot. -/
  | powerOn
  /-- POWER_OFF (R2): power loss discards all volatile state. -/
  | powerOff
  /-- WARM_BOOT (R348): a PCIe conventional reset starts a warm boot. -/
  | warmBoot
  /-- ROM_BOOT (R348): stage 0 trains die 0's HBM and loads and verifies an image slot. -/
  | romBoot
  /-- FIRMWARE_BRINGUP (R348): stage 1 trains links and memory and reserves the dump region. -/
  | firmwareBringup
  /-- START_CORES (R348): stage 2 copies the image and starts Gecko pairs and control cores. -/
  | startCores
  /-- KERNEL_LOAD (R348): stage 3 verifies, measures and enters the resident kernel. -/
  | kernelLoad (img : Image) (loc : Nat)
  /-- MAILBOX_STATUS (R350): mailbox command returning boot status. -/
  | mailboxStatus
  /-- MAILBOX_LOAD (R350): mailbox command that verifies and writes a new image. -/
  | mailboxLoad (img : Image)
  /-- MAILBOX_DUMP (R350): mailbox command that reads the dump region. -/
  | mailboxDump (off n : Nat)
  /-- MAILBOX_CLEAR (R348): mailbox command releasing the dump region. -/
  | mailboxClear
  /-- MAILBOX_ATTEST (R351): mailbox command returning a signed measurement log for a nonce. -/
  | mailboxAttest (nonce : List Byte)
  /-- POWER_EPOCH (R354): every 8 µs the arbiter grants each die its power share. -/
  | powerEpoch (outside : Nat) (demand temp : List Nat)
  /-- CURRENT_SURGE (R355): a detected surge is clamped by the die within 1 µs. -/
  | currentSurge (die : Nat)
  /-- THERMAL_LIMIT (R357): a junction at 100 °C halves the budget until below 95 °C. -/
  | thermalLimit (temp : Nat)
  /-- THERMAL_SHUTDOWN (R357): a junction at 110 °C causes a fatal stop. -/
  | thermalShutdown (temp : Nat)
  /-- CONTEXT_FILL (R321): a FREE bank starts loading a context from its save area and moves to FILL. -/
  | contextFill (p area : Nat)
  /-- SEND_ACKNOWLEDGEMENT (R162): the append acknowledgement of a SEND returns and writes the status into gd. -/
  | sendAcknowledgement (id : Nat)
  /-- DATA_MESSAGE (R338): a requesting replica receives a data message, adopts its wts and rts, and enters S, E or M. -/
  | dataMessage (line r : Nat)
  /-- BACK_INVALIDATION_RESPONSE (R346): the host answers a back-invalidation snoop, letting the waiting device store or atomic, or a filter recall, proceed. -/
  | backInvalidationResponse (line : Nat)
  /-- HDMBASE_WRITE (R346): the host sets HDMBASE through the device's CXL registers, fixing where device memory appears to it. -/
  | hdmbaseWrite (v : Nat)
  /-- VERSION_COUNTER_RAISE (R349): a firmware command from the resident kernel raises the fused security version counter. -/
  | versionCounterRaise (v : Nat)
  /-- THERMAL_RECOVERY (R357): every junction falls below 95 °C and the arbiter stops halving B. -/
  | thermalRecovery (temps : List Nat)
  /-- PARTITION_CONFIGURATION (R178): the resident kernel configures a partition, setting its size code S, which invalidates L1 lines and resets the clock hand. -/
  | partitionConfiguration (p : Nat) (cfg : PartCfg)
  /-- QUEUE_CONFIGURATION (R164): the resident kernel configures a hardware queue with its priority and depth, setting DBSTAT.CFG and resetting DROPS. -/
  | queueConfiguration (x q prio : Nat)
  /-- CHECKPOINT_ENABLE (R323): the resident kernel enables checkpoints for a context, with an interval and two areas, starting the interval timer. -/
  | checkpointEnable (p us areaA areaB : Nat)
  /-- ACCESS_COUNTER_REARM (R215): the resident kernel re-arms a region's access counters, clearing all four counts and resuming counting. -/
  | accessCounterRearm (region : Nat)
  deriving DecidableEq, Repr

/-- What the world outside the package does beside the events of the opcode table (log 70): another package writes its own
memory or sends a message to a ring of this one (R340, R342); the host writes its own memory, or reads or writes a
configuration window by CXL.io (R344, R347); an MSI-X vector is raised to it (R344); and the resident kernel sets the
threshold of the access counters, for which no register is given (R215). -/
inductive Outside where
  | farWrite (pa : Nat) (b : List Byte)
  | farMessage (x launch : Nat) (dst : BitVec 64) (words : List (BitVec 32)) (src : Nat)
  | hostWrite (pa : Nat) (b : List Byte)
  | windowRead (die off n : Nat)
  | windowWrite (die off : Nat) (v : BitVec 64)
  | msix (vector : Nat)
  | threshold (n : Nat)
  deriving DecidableEq, Repr

/-- One entry of the agenda: a thread issues its next word, an event takes place, clocks pass, the outside world acts, or the
arbiter makes its next write of the telemetry page (R356; logs 1, 70). -/
inductive Act where
  | word (t : Tid)
  | event (i : Instr)
  | pass (clocks : Nat)
  | outside (o : Outside)
  | telem
  deriving DecidableEq, Repr

end Sys2Proof
end

