-- ==== Sys2Proof/WellFormed.lean ====
section
/-! DEFINITION. Sys2Proof/WellFormed.lean: the operand rules of a word that do not depend on the machine's state
(R8, R59, R65, R66, R69). A word that breaks one is the illegal instruction. -/

namespace Sys2Proof

/-- The field names an even register, as a 64-bit pair requires (R8). -/
def even (r : BitVec 7) : Bool := r.toNat % 2 == 0

/-- The field is a multiple of `n` (R66, R110, R150, R160, R162, R238). -/
def mult (r : BitVec 7) (n : Nat) : Bool := r.toNat % n == 0

/-- The data register's alignment for an access size (R238). -/
def szAligned (s : Sz) (d : BitVec 7) : Bool :=
  match s with
  | .w64 => even d
  | .w128 => mult d 4
  | _ => true

/-- The registers an atomic takes (R66, R242). -/
def atomAligned (o : AtomOp) (d b : BitVec 7) : Bool :=
  match o with
  | .add64 => even d && even b
  | .cas32 => even b
  | .cas64 => even d && mult b 4
  | _ => true

/-- The conversion rounds, so it takes a mode (R109, R110). -/
def cvtRounds (c : CvtCode) : Bool :=
  match c with
  | .f64OfF32 | .f32OfBf16x2 | .f32OfF16x2 | .f32OfE4m3x4 | .f32OfE5m2x4 | .f32OfE2m1x8 | .bxbandOfF32
  | .f64OfI32 | .f64OfU32 => false
  | _ => true

/-- The register alignment of a conversion (R110). -/
def cvtAligned (c : CvtCode) (d a : BitVec 7) : Bool :=
  match c with
  | .f32OfF64 | .i32OfF64 | .u32OfF64 => even a
  | .f64OfF32 | .f64OfI32 | .f64OfU32 => even d
  | .bf16x2OfF32 | .f16x2OfF32 | .e4m3x4OfBf16x2 | .e5m2x4OfBf16x2 => even a
  | .f32OfBf16x2 | .f32OfF16x2 => even d
  | .e4m3x4OfF32 | .e5m2x4OfF32 => mult a 4
  | .f32OfE4m3x4 | .f32OfE5m2x4 => mult d 4
  | .e2m1x8OfF32 => mult a 8
  | .f32OfE2m1x8 => mult d 8
  | .bx4blkOfF32 => mult a 8 && even d
  | .f32OfBx4blk => even a && mult d 8
  | .i64OfF64 | .u64OfF64 | .f64OfI64 | .f64OfU64 => even d && even a
  | .bxbandOfF32 | .i32OfF32 | .u32OfF32 | .f32OfI32 | .f32OfU32 => true

/-- The state-independent operand rules of a word. Events have no encoding and are always well formed. -/
def Instr.wf : Instr → Bool
  | .add _ _ _ _ => true
  | .sub _ _ _ _ => true
  | .addc _ _ _ _ => true
  | .subb _ _ _ _ => true
  | .and _ _ _ _ => true
  | .or _ _ _ _ => true
  | .xor _ _ _ _ => true
  | .andn _ _ _ _ => true
  | .shl _ _ _ _ => true
  | .shr _ _ _ _ => true
  | .sar _ _ _ _ => true
  | .rotr _ _ _ _ => true
  | .mul _ _ _ _ => true
  | .mulhu _ _ _ _ => true
  | .mulhs _ _ _ _ => true
  | .mad _ _ _ _ => true
  | .min _ _ _ _ => true
  | .max _ _ _ _ => true
  | .minu _ _ _ _ => true
  | .maxu _ _ _ _ => true
  | .clz _ _ _ => true
  | .popc _ _ _ => true
  | .brev _ _ _ => true
  | .abs _ _ _ => true
  | .add64 _ d a b => even d && even a && even b
  | .sub64 _ d a b => even d && even a && even b
  | .shl64 _ d a _ => even d && even a
  | .shr64 _ d a _ => even d && even a
  | .addi _ _ _ _ => true
  | .andi _ _ _ _ => true
  | .ori _ _ _ _ => true
  | .xori _ _ _ _ => true
  | .shli _ _ _ _ => true
  | .shri _ _ _ _ => true
  | .sari _ _ _ _ => true
  | .rotri _ _ _ _ => true
  | .movi _ _ _ => true
  | .bfe _ _ _ _ => true
  | .bfeu _ _ _ _ => true
  | .bfi _ _ _ _ => true
  | .prmt _ _ _ _ => true
  | .setp _ _ _ _ _ => true
  | .setp64 _ _ _ a b => even a && even b
  | .setpImm _ _ _ _ _ => true
  | .plop _ _ _ _ _ => true
  | .sel _ _ _ _ _ => true
  | .lda _ _ g => even g
  | .sta _ _ g => even g
  | .adda _ _ _ => true
  | .addai _ _ _ => true
  | .setm _ _ g => even g
  | .clrm _ _ => true
  | .csrr _ _ _ => true
  | .csrw _ _ _ => true
  | .csrs _ _ _ => true
  | .csrc _ _ _ => true
  | .fadd _ _ _ _ => true
  | .fsub _ _ _ _ => true
  | .fmul _ _ _ _ => true
  | .fmin _ _ _ _ => true
  | .ffma _ _ _ _ => true
  | .ffms _ _ _ _ => true
  | .fmax _ _ _ _ => true
  | .fcpys _ _ _ _ => true
  | .fsetp _ _ _ a b t => t != 1 || (even a && even b)
  | .frcp _ _ _ t => t != .f64
  | .frsq _ _ _ t => t != .f64
  | .fsqrt _ d a t => t != .f64 || (even d && even a)
  | .fexp2 _ _ _ t => t != .f64
  | .flog2 _ _ _ t => t != .f64
  | .fsin _ _ _ t => t != .f64
  | .fcos _ _ _ t => t != .f64
  | .ftanh _ _ _ t => t != .f64
  | .fsigm _ _ _ t => t != .f64
  | .fabs _ d a t => t != .f64 || (even d && even a)
  | .fneg _ d a t => t != .f64 || (even d && even a)
  | .frnd _ d a t => t != .f64 || (even d && even a)
  | .fclass _ _ a t => t != .f64 || even a
  | .dadd _ d a b => even d && even a && even b
  | .dsub _ d a b => even d && even a && even b
  | .dmul _ d a b => even d && even a && even b
  | .dfma _ d a b => even d && even a && even b
  | .dmin _ d a b => even d && even a && even b
  | .dmax _ d a b => even d && even a && even b
  | .drcpa _ d a => even d && even a
  | .drsqa _ d a => even d && even a
  | .badd2 _ _ _ _ => true
  | .bmul2 _ _ _ _ => true
  | .bfma2 _ _ _ _ => true
  | .bmax2 _ _ _ _ => true
  | .hadd2 _ _ _ _ => true
  | .hmul2 _ _ _ _ => true
  | .hfma2 _ _ _ _ => true
  | .hmax2 _ _ _ _ => true
  | .cvt _ d a y c f => cvtAligned c d a && (y == 0 || f == 0) && (cvtRounds c || (y == 0 && f == 0))
  | .knext _ _ _ _ => true
  | .kpop _ _ _ => true
  | .kget _ _ _ _ => true
  | .kset _ _ _ _ => true
  | .trap _ _ => true
  | .bkpt _ => true
  | .rte _ => true
  | .wfi _ => true
  | .rdts _ d s => even d && even s
  | .wrts _ d s => even d && even s
  | .resume _ _ _ => true
  | .bra _ _ => true
  | .call _ _ => true
  | .brx _ _ => true
  | .callx _ _ => true
  | .ret _ => true
  | .exit _ => true
  | .jarm _ _ => true
  | .jdis _ _ => true
  | .join _ _ => true
  | .jtest _ _ _ => true
  | .shflIdx _ _ _ _ => true
  | .shflUp _ _ _ _ => true
  | .shflDn _ _ _ _ => true
  | .shflXor _ _ _ _ => true
  | .voteAll _ _ _ => true
  | .voteAny _ _ _ => true
  | .ballot _ _ _ => true
  | .matchg _ _ _ => true
  | .lred _ _ _ _ => true
  | .lscan _ _ _ _ _ => true
  | .lstep _ _ _ _ _ => true
  | .lrank _ _ _ _ => true
  | .keygrp _ _ => true
  | .spawn _ _ a b => mult a 8 && even b
  | .yield _ => true
  | .sleep _ _ => true
  | .bar _ _ _ => true
  | .barg _ s _ => s != .blk
  | .arrive _ _ _ => true
  | .await _ _ => true
  | .synct _ _ => true
  | .ticket _ _ _ => true
  | .evset _ d _ r k => if r == 0 then d == 0 else k == 0
  | .evsig _ d _ r k => if r == 0 then d == 0 else k == 0
  | .evwait _ _ => true
  | .evread _ _ _ => true
  | .nrec _ _ a _ => mult a 8
  | .launch _ _ a => even a
  | .nflush _ _ _ => true
  | .send _ _ a b => mult a 4 && even b
  | .rpoll _ _ _ => true
  | .rwait _ _ _ => true
  | .radv _ _ _ _ => true
  | .ld _ d _ _ s _ => szAligned s d
  | .st _ d _ _ s _ => szAligned s d && s != .s8 && s != .s16
  | .lds _ d _ _ s _ => szAligned s d
  | .sts _ d _ _ s _ => szAligned s d && s != .s8 && s != .s16
  | .atom _ d _ o b _ => atomAligned o d b
  | .atoms _ d _ o b => atomAligned o d b
  | .fence _ _ => true
  | .acq _ g _ _ => even g
  | .rel _ g _ _ => even g
  | .bind _ g _ _ => even g
  | .unbind _ _ => true
  | .pref _ _ _ _ => true
  | .cinv _ _ _ _ => true
  | .cwb _ _ _ _ => true
  | .tdset _ _ _ _ => true
  | .tdget _ _ _ _ => true
  | .tdld _ _ g => even g
  | .tdinv _ _ => true
  | .cp _ _ _ => true
  | .cpc _ _ _ => true
  | .cpz _ _ => true
  | .cpseal _ _ => true
  | .cpwait _ _ => true
  | .cptest _ _ => true
  | .mma _ _ _ n => n.toNat < 8
  | .mmas _ _ _ n => n.toNat < 8
  | .mmab _ _ _ n => n.toNat < 8
  | .mmam _ _ _ n => n.toNat < 8
  | .mmaz _ _ _ n => n.toNat < 8
  | .dmma _ _ _ n => n.toNat < 8
  | .accz _ n => n.toNat < 8
  | .accld _ _ n => n.toNat < 8
  | .accst _ _ n => n.toNat < 8
  | .accrd _ _ _ n => n.toNat < 8
  | .accwr _ _ _ n => n.toNat < 8
  | .ownv _ n => n.toNat < 8
  | .ownm _ n => n.toNat < 8
  | .accpsn _ _ _ n => n.toNat < 8
  | .scout _ _ _ => true
  | .dodge _ _ _ _ => true
  | .chset _ _ => true
  | .chain _ _ _ => true
  | .chain2 _ _ _ => true
  | .hx _ => true
  | .hm _ _ r _ => r.toNat < 6
  | .he _ _ _ v e _ => v == 1 || e == 0
  | .hs _ _ _ => true
  | .interrupt _ _ => true
  | .partitionStopped _ => true
  | .formationCycle _ _ => true
  | .threadSplit _ => true
  | .teamInstanceExecute _ _ _ _ => true
  | .sleepExpiry _ => true
  | .loadReturn _ _ => true
  | .storeAcknowledge _ _ => true
  | .logicalTimeTick _ => true
  | .logicalTimeRaise _ => true
  | .l1Sweep _ => true
  | .l2Sweep _ _ => true
  | .memoryFill _ _ _ _ => true
  | .reads _ _ => true
  | .readown _ _ => true
  | .upgrade _ _ => true
  | .evictc _ _ => true
  | .writeback _ _ => true
  | .fwds _ _ => true
  | .fwdown _ _ => true
  | .inv _ _ => true
  | .grantm _ _ => true
  | .flitReplay _ _ => true
  | .linkDown _ _ _ => true
  | .hostSnoop _ => true
  | .hostMemoryAccess _ _ _ => true
  | .herborInboundAccess _ _ _ _ _ => true
  | .ringAppend _ => true
  | .pageWalk _ _ _ _ => true
  | .faultRecordWrite _ => true
  | .operandLogReplay _ _ => true
  | .scratchpadPageFault _ _ _ _ => true
  | .pageFillComplete _ _ _ _ => true
  | .writeOutAck _ _ _ _ => true
  | .blockMigrate _ _ _ _ => true
  | .engineStep _ _ _ => true
  | .stepRetire _ _ _ => true
  | .copyBatchComplete _ => true
  | .gangArrival _ _ => true
  | .launchRecordRead _ _ => true
  | .blockPlace _ => true
  | .priorityWaitExpiry _ _ => true
  | .blockRetire _ _ _ => true
  | .launchComplete _ _ => true
  | .binTimerExpiry _ _ => true
  | .doorbell _ _ _ => true
  | .ctxrootWrite _ _ _ => true
  | .shoot _ _ => true
  | .shootdownComplete _ => true
  | .frespRetry _ _ => true
  | .frespError _ _ => true
  | .bootstatWrite _ _ => true
  | .configWindowWrite _ _ _ => true
  | .swap _ _ => true
  | .saveComplete _ => true
  | .fillComplete _ => true
  | .checkpointIntervalExpiry _ => true
  | .snapshotSwap _ => true
  | .checkpointCommit _ => true
  | .uncorrectableError _ => true
  | .rollback _ => true
  | .kernelLineRestore _ _ => true
  | .selfTest _ _ => true
  | .fatalStop => true
  | .powerOn => true
  | .powerOff => true
  | .warmBoot => true
  | .romBoot => true
  | .firmwareBringup => true
  | .startCores => true
  | .kernelLoad _ _ => true
  | .mailboxStatus => true
  | .mailboxLoad _ => true
  | .mailboxDump _ _ => true
  | .mailboxClear => true
  | .mailboxAttest _ => true
  | .powerEpoch _ _ _ => true
  | .currentSurge _ => true
  | .thermalLimit _ => true
  | .thermalShutdown _ => true
  | .illegalInstruction _ => true
  | .contextFill _ _ => true
  | .sendAcknowledgement _ => true
  | .dataMessage _ _ => true
  | .backInvalidationResponse _ => true
  | .hdmbaseWrite _ => true
  | .storagePathRequest _ _ _ _ => true
  | .versionCounterRaise _ => true
  | .thermalRecovery _ => true
  | .partitionConfiguration _ _ => true
  | .queueConfiguration _ _ _ => true
  | .checkpointEnable _ _ _ _ => true
  | .accessCounterRearm _ => true

end Sys2Proof
end

