-- ==== Sys2Proof/Decode.lean ====
section
/-! DEFINITION. Sys2Proof/Decode.lean: from words to instructions (R57 to R66) and back. Decoding is total: a word that
is no instruction is refused with a reason. -/

namespace Sys2Proof

/-- Bits [lo+len-1 : lo] of a number. -/
def fldN (v lo len : Nat) : BitVec len := BitVec.ofNat len (v / 2 ^ lo)

/-- Bits [lo+len-1 : lo] of a word. -/
def fld (w : BitVec 32) (lo len : Nat) : BitVec len := fldN w.toNat lo len

/-- `hi` with the field `x` appended below it. -/
def cat (hi : Nat) {n : Nat} (x : BitVec n) : Nat := hi * 2 ^ n + x.toNat

/-- The code of a ICond. -/
def ICond.bits : ICond → BitVec 4
  | .eq => 0
  | .ne => 1
  | .lt => 2
  | .le => 3
  | .gt => 4
  | .ge => 5
  | .ltu => 6
  | .leu => 7
  | .gtu => 8
  | .geu => 9

/-- The ICond of a code, if the code is legal. -/
def ICond.ofBits (b : BitVec 4) : Option ICond :=
  match b.toNat with
  | 0 => some .eq
  | 1 => some .ne
  | 2 => some .lt
  | 3 => some .le
  | 4 => some .gt
  | 5 => some .ge
  | 6 => some .ltu
  | 7 => some .leu
  | 8 => some .gtu
  | 9 => some .geu
  | _ => none

/-- The code of a FCond. -/
def FCond.bits : FCond → BitVec 4
  | .eq => 0
  | .ne => 1
  | .lt => 2
  | .le => 3
  | .gt => 4
  | .ge => 5
  | .num => 6
  | .nan => 7

/-- The FCond of a code, if the code is legal. -/
def FCond.ofBits (b : BitVec 4) : Option FCond :=
  match b.toNat with
  | 0 => some .eq
  | 1 => some .ne
  | 2 => some .lt
  | 3 => some .le
  | 4 => some .gt
  | 5 => some .ge
  | 6 => some .num
  | 7 => some .nan
  | _ => none

/-- The code of a FElt. -/
def FElt.bits : FElt → BitVec 2
  | .f32 => 0
  | .bf16x2 => 1
  | .f64 => 2

/-- The FElt of a code, if the code is legal. -/
def FElt.ofBits (b : BitVec 2) : Option FElt :=
  match b.toNat with
  | 0 => some .f32
  | 1 => some .bf16x2
  | 2 => some .f64
  | _ => none

/-- The code of a AtomOp. -/
def AtomOp.bits : AtomOp → BitVec 4
  | .add32 => 0
  | .add64 => 1
  | .mins => 2
  | .maxs => 3
  | .minu => 4
  | .maxu => 5
  | .and => 6
  | .or => 7
  | .xor => 8
  | .xchg => 9
  | .cas32 => 10
  | .cas64 => 11
  | .fadd32 => 12
  | .badd2 => 13
  | .incw => 14

/-- The AtomOp of a code, if the code is legal. -/
def AtomOp.ofBits (b : BitVec 4) : Option AtomOp :=
  match b.toNat with
  | 0 => some .add32
  | 1 => some .add64
  | 2 => some .mins
  | 3 => some .maxs
  | 4 => some .minu
  | 5 => some .maxu
  | 6 => some .and
  | 7 => some .or
  | 8 => some .xor
  | 9 => some .xchg
  | 10 => some .cas32
  | 11 => some .cas64
  | 12 => some .fadd32
  | 13 => some .badd2
  | 14 => some .incw
  | _ => none

/-- The code of a AScope. -/
def AScope.bits : AScope → BitVec 2
  | .die => 0
  | .pkg => 1
  | .dom => 2
  | .sys => 3

/-- The AScope of a code, if the code is legal. -/
def AScope.ofBits (b : BitVec 2) : Option AScope :=
  match b.toNat with
  | 0 => some .die
  | 1 => some .pkg
  | 2 => some .dom
  | _ => some .sys

/-- The code of a TeamOp. -/
def TeamOp.bits : TeamOp → BitVec 4
  | .add => 0
  | .mins => 1
  | .maxs => 2
  | .minu => 3
  | .maxu => 4
  | .and => 5
  | .or => 6
  | .xor => 7
  | .fadd => 8
  | .fmin => 9
  | .fmax => 10

/-- The TeamOp of a code, if the code is legal. -/
def TeamOp.ofBits (b : BitVec 4) : Option TeamOp :=
  match b.toNat with
  | 0 => some .add
  | 1 => some .mins
  | 2 => some .maxs
  | 3 => some .minu
  | 4 => some .maxu
  | 5 => some .and
  | 6 => some .or
  | 7 => some .xor
  | 8 => some .fadd
  | 9 => some .fmin
  | 10 => some .fmax
  | _ => none

/-- The code of a PScope. -/
def PScope.bits : PScope → BitVec 3
  | .none => 0
  | .blk => 1
  | .die => 2
  | .pkg => 3
  | .dom => 4
  | .sys => 5

/-- The PScope of a code, if the code is legal. -/
def PScope.ofBits (b : BitVec 3) : Option PScope :=
  match b.toNat with
  | 0 => some .none
  | 1 => some .blk
  | 2 => some .die
  | 3 => some .pkg
  | 4 => some .dom
  | 5 => some .sys
  | _ => Option.none

/-- The code of a Scope. -/
def Scope.bits : Scope → BitVec 3
  | .thr => 0
  | .blk => 1
  | .die => 2
  | .pkg => 3
  | .dom => 4
  | .sys => 5

/-- The Scope of a code, if the code is legal. -/
def Scope.ofBits (b : BitVec 3) : Option Scope :=
  match b.toNat with
  | 0 => some .thr
  | 1 => some .blk
  | 2 => some .die
  | 3 => some .pkg
  | 4 => some .dom
  | 5 => some .sys
  | _ => none

/-- The code of a Am. -/
def Am.bits : Am → BitVec 2
  | .offset => 0
  | .postInc => 1
  | .modulo => 2
  | .indexed => 3

/-- The Am of a code, if the code is legal. -/
def Am.ofBits (b : BitVec 2) : Option Am :=
  match b.toNat with
  | 0 => some .offset
  | 1 => some .postInc
  | 2 => some .modulo
  | _ => some .indexed

/-- The code of a Sz. -/
def Sz.bits : Sz → BitVec 3
  | .u8 => 0
  | .u16 => 1
  | .w32 => 2
  | .w64 => 3
  | .w128 => 4
  | .s8 => 5
  | .s16 => 6

/-- The Sz of a code, if the code is legal. -/
def Sz.ofBits (b : BitVec 3) : Option Sz :=
  match b.toNat with
  | 0 => some .u8
  | 1 => some .u16
  | 2 => some .w32
  | 3 => some .w64
  | 4 => some .w128
  | 5 => some .s8
  | 6 => some .s16
  | _ => none

/-- The code of a CvtCode. -/
def CvtCode.bits : CvtCode → BitVec 6
  | .f32OfF64 => 0
  | .f64OfF32 => 1
  | .bf16x2OfF32 => 2
  | .f32OfBf16x2 => 3
  | .f16x2OfF32 => 4
  | .f32OfF16x2 => 5
  | .e4m3x4OfF32 => 6
  | .f32OfE4m3x4 => 7
  | .e5m2x4OfF32 => 8
  | .f32OfE5m2x4 => 9
  | .e2m1x8OfF32 => 10
  | .f32OfE2m1x8 => 11
  | .e4m3x4OfBf16x2 => 12
  | .e5m2x4OfBf16x2 => 13
  | .bxbandOfF32 => 16
  | .bx4blkOfF32 => 17
  | .f32OfBx4blk => 18
  | .i32OfF32 => 32
  | .u32OfF32 => 33
  | .f32OfI32 => 34
  | .f32OfU32 => 35
  | .i32OfF64 => 36
  | .u32OfF64 => 37
  | .f64OfI32 => 38
  | .f64OfU32 => 39
  | .i64OfF64 => 40
  | .u64OfF64 => 41
  | .f64OfI64 => 42
  | .f64OfU64 => 43

/-- The CvtCode of a code, if the code is legal. -/
def CvtCode.ofBits (b : BitVec 6) : Option CvtCode :=
  match b.toNat with
  | 0 => some .f32OfF64
  | 1 => some .f64OfF32
  | 2 => some .bf16x2OfF32
  | 3 => some .f32OfBf16x2
  | 4 => some .f16x2OfF32
  | 5 => some .f32OfF16x2
  | 6 => some .e4m3x4OfF32
  | 7 => some .f32OfE4m3x4
  | 8 => some .e5m2x4OfF32
  | 9 => some .f32OfE5m2x4
  | 10 => some .e2m1x8OfF32
  | 11 => some .f32OfE2m1x8
  | 12 => some .e4m3x4OfBf16x2
  | 13 => some .e5m2x4OfBf16x2
  | 16 => some .bxbandOfF32
  | 17 => some .bx4blkOfF32
  | 18 => some .f32OfBx4blk
  | 32 => some .i32OfF32
  | 33 => some .u32OfF32
  | 34 => some .f32OfI32
  | 35 => some .f32OfU32
  | 36 => some .i32OfF64
  | 37 => some .u32OfF64
  | 38 => some .f64OfI32
  | 39 => some .f64OfU32
  | 40 => some .i64OfF64
  | 41 => some .u64OfF64
  | 42 => some .f64OfI64
  | 43 => some .f64OfU64
  | _ => none

/-- The words of major 0x01 (R64). -/
def decode01 (w : BitVec 32) : Option Instr :=
  if fld w 0 2 == 0#2 then some (.add (fld w 23 3) (fld w 16 7) (fld w 9 7) (fld w 2 7))
  else if fld w 0 2 == 1#2 then some (.sub (fld w 23 3) (fld w 16 7) (fld w 9 7) (fld w 2 7))
  else if fld w 0 2 == 2#2 then some (.addc (fld w 23 3) (fld w 16 7) (fld w 9 7) (fld w 2 7))
  else if fld w 0 2 == 3#2 then some (.subb (fld w 23 3) (fld w 16 7) (fld w 9 7) (fld w 2 7))
  else none

/-- The words of major 0x02 (R64). -/
def decode02 (w : BitVec 32) : Option Instr :=
  if fld w 0 2 == 0#2 then some (.and (fld w 23 3) (fld w 16 7) (fld w 9 7) (fld w 2 7))
  else if fld w 0 2 == 1#2 then some (.or (fld w 23 3) (fld w 16 7) (fld w 9 7) (fld w 2 7))
  else if fld w 0 2 == 2#2 then some (.xor (fld w 23 3) (fld w 16 7) (fld w 9 7) (fld w 2 7))
  else if fld w 0 2 == 3#2 then some (.andn (fld w 23 3) (fld w 16 7) (fld w 9 7) (fld w 2 7))
  else none

/-- The words of major 0x03 (R64). -/
def decode03 (w : BitVec 32) : Option Instr :=
  if fld w 0 2 == 0#2 then some (.shl (fld w 23 3) (fld w 16 7) (fld w 9 7) (fld w 2 7))
  else if fld w 0 2 == 1#2 then some (.shr (fld w 23 3) (fld w 16 7) (fld w 9 7) (fld w 2 7))
  else if fld w 0 2 == 2#2 then some (.sar (fld w 23 3) (fld w 16 7) (fld w 9 7) (fld w 2 7))
  else if fld w 0 2 == 3#2 then some (.rotr (fld w 23 3) (fld w 16 7) (fld w 9 7) (fld w 2 7))
  else none

/-- The words of major 0x04 (R64). -/
def decode04 (w : BitVec 32) : Option Instr :=
  if fld w 0 2 == 0#2 then some (.mul (fld w 23 3) (fld w 16 7) (fld w 9 7) (fld w 2 7))
  else if fld w 0 2 == 1#2 then some (.mulhu (fld w 23 3) (fld w 16 7) (fld w 9 7) (fld w 2 7))
  else if fld w 0 2 == 2#2 then some (.mulhs (fld w 23 3) (fld w 16 7) (fld w 9 7) (fld w 2 7))
  else if fld w 0 2 == 3#2 then some (.mad (fld w 23 3) (fld w 16 7) (fld w 9 7) (fld w 2 7))
  else none

/-- The words of major 0x05 (R64). -/
def decode05 (w : BitVec 32) : Option Instr :=
  if fld w 0 2 == 0#2 then some (.min (fld w 23 3) (fld w 16 7) (fld w 9 7) (fld w 2 7))
  else if fld w 0 2 == 1#2 then some (.max (fld w 23 3) (fld w 16 7) (fld w 9 7) (fld w 2 7))
  else if fld w 0 2 == 2#2 then some (.minu (fld w 23 3) (fld w 16 7) (fld w 9 7) (fld w 2 7))
  else if fld w 0 2 == 3#2 then some (.maxu (fld w 23 3) (fld w 16 7) (fld w 9 7) (fld w 2 7))
  else none

/-- The words of major 0x06 (R64). -/
def decode06 (w : BitVec 32) : Option Instr :=
  if fld w 0 9 == 0#9 then some (.clz (fld w 23 3) (fld w 16 7) (fld w 9 7))
  else if fld w 0 9 == 1#9 then some (.popc (fld w 23 3) (fld w 16 7) (fld w 9 7))
  else if fld w 0 9 == 2#9 then some (.brev (fld w 23 3) (fld w 16 7) (fld w 9 7))
  else if fld w 0 9 == 3#9 then some (.abs (fld w 23 3) (fld w 16 7) (fld w 9 7))
  else none

/-- The words of major 0x07 (R64). -/
def decode07 (w : BitVec 32) : Option Instr :=
  if fld w 0 2 == 0#2 then some (.add64 (fld w 23 3) (fld w 16 7) (fld w 9 7) (fld w 2 7))
  else if fld w 0 2 == 1#2 then some (.sub64 (fld w 23 3) (fld w 16 7) (fld w 9 7) (fld w 2 7))
  else if fld w 0 2 == 2#2 then some (.shl64 (fld w 23 3) (fld w 16 7) (fld w 9 7) (fld w 2 7))
  else if fld w 0 2 == 3#2 then some (.shr64 (fld w 23 3) (fld w 16 7) (fld w 9 7) (fld w 2 7))
  else none

/-- The words of major 0x08 (R64). -/
def decode08 (w : BitVec 32) : Option Instr :=
  some (.addi (fld w 23 3) (fld w 16 7) (fld w 9 7) (fld w 0 9))

/-- The words of major 0x09 (R64). -/
def decode09 (w : BitVec 32) : Option Instr :=
  some (.andi (fld w 23 3) (fld w 16 7) (fld w 9 7) (fld w 0 9))

/-- The words of major 0x0A (R64). -/
def decode0A (w : BitVec 32) : Option Instr :=
  some (.ori (fld w 23 3) (fld w 16 7) (fld w 9 7) (fld w 0 9))

/-- The words of major 0x0B (R64). -/
def decode0B (w : BitVec 32) : Option Instr :=
  some (.xori (fld w 23 3) (fld w 16 7) (fld w 9 7) (fld w 0 9))

/-- The words of major 0x0C (R64). -/
def decode0C (w : BitVec 32) : Option Instr :=
  if fld w 5 4 == 0#4 then some (.shli (fld w 23 3) (fld w 16 7) (fld w 9 7) (fld w 0 5))
  else if fld w 5 4 == 4#4 then some (.shri (fld w 23 3) (fld w 16 7) (fld w 9 7) (fld w 0 5))
  else if fld w 5 4 == 8#4 then some (.sari (fld w 23 3) (fld w 16 7) (fld w 9 7) (fld w 0 5))
  else if fld w 5 4 == 12#4 then some (.rotri (fld w 23 3) (fld w 16 7) (fld w 9 7) (fld w 0 5))
  else none

/-- The words of major 0x0D (R64). -/
def decode0D (w : BitVec 32) : Option Instr :=
  some (.movi (fld w 23 3) (fld w 16 7) (fld w 0 16))

/-- The words of major 0x0E (R64). -/
def decode0E (w : BitVec 32) : Option Instr :=
  if fld w 0 2 == 0#2 then some (.bfe (fld w 23 3) (fld w 16 7) (fld w 9 7) (fld w 2 7))
  else if fld w 0 2 == 1#2 then some (.bfeu (fld w 23 3) (fld w 16 7) (fld w 9 7) (fld w 2 7))
  else if fld w 0 2 == 2#2 then some (.bfi (fld w 23 3) (fld w 16 7) (fld w 9 7) (fld w 2 7))
  else if fld w 0 2 == 3#2 then some (.prmt (fld w 23 3) (fld w 16 7) (fld w 9 7) (fld w 2 7))
  else none

/-- The words of major 0x0F (R64). -/
def decode0F (w : BitVec 32) : Option Instr :=
  if fld w 0 2 == 0#2 then (ICond.ofBits (fld w 16 4)).bind fun c => some (.setp (fld w 23 3) (fld w 20 3) c (fld w 9 7) (fld w 2 7))
  else if fld w 0 2 == 1#2 then (ICond.ofBits (fld w 16 4)).bind fun c => some (.setp64 (fld w 23 3) (fld w 20 3) c (fld w 9 7) (fld w 2 7))
  else if fld w 0 2 == 2#2 then (ICond.ofBits (fld w 16 4)).bind fun c => some (.setpImm (fld w 23 3) (fld w 20 3) c (fld w 9 7) (fld w 2 7))
  else none

/-- The words of major 0x10 (R64). -/
def decode10 (w : BitVec 32) : Option Instr :=
  if fld w 0 10 == 0#10 then some (.plop (fld w 23 3) (fld w 20 3) (fld w 17 3) (fld w 14 3) (fld w 10 4))
  else none

/-- The words of major 0x11 (R64). -/
def decode11 (w : BitVec 32) : Option Instr :=
  some (.sel (fld w 23 3) (fld w 16 7) (fld w 9 7) (fld w 2 7) (fld w 0 2))

/-- The words of major 0x12 (R64). -/
def decode12 (w : BitVec 32) : Option Instr :=
  if fld w 0 10 == 0#10 && fld w 20 3 == 0#3 then some (.lda (fld w 23 3) (fld w 17 3) (fld w 10 7))
  else if fld w 0 10 == 0#10 && fld w 20 3 == 1#3 then some (.sta (fld w 23 3) (fld w 17 3) (fld w 10 7))
  else if fld w 0 10 == 0#10 && fld w 20 3 == 2#3 then some (.adda (fld w 23 3) (fld w 17 3) (fld w 10 7))
  else if fld w 10 7 == 0#7 && fld w 20 3 == 3#3 then some (.addai (fld w 23 3) (fld w 17 3) (fld w 0 10))
  else if fld w 0 10 == 0#10 && fld w 20 3 == 4#3 then some (.setm (fld w 23 3) (fld w 17 3) (fld w 10 7))
  else if fld w 0 17 == 0#17 && fld w 20 3 == 5#3 then some (.clrm (fld w 23 3) (fld w 17 3))
  else none

/-- The words of major 0x13 (R64). -/
def decode13 (w : BitVec 32) : Option Instr :=
  if fld w 12 4 == 0#4 then some (.csrr (fld w 23 3) (fld w 16 7) (fld w 0 12))
  else if fld w 12 4 == 1#4 then some (.csrw (fld w 23 3) (fld w 16 7) (fld w 0 12))
  else if fld w 12 4 == 2#4 then some (.csrs (fld w 23 3) (fld w 16 7) (fld w 0 12))
  else if fld w 12 4 == 3#4 then some (.csrc (fld w 23 3) (fld w 16 7) (fld w 0 12))
  else none

/-- The words of major 0x14 (R64). -/
def decode14 (w : BitVec 32) : Option Instr :=
  if fld w 0 2 == 0#2 then some (.fadd (fld w 23 3) (fld w 16 7) (fld w 9 7) (fld w 2 7))
  else if fld w 0 2 == 1#2 then some (.fsub (fld w 23 3) (fld w 16 7) (fld w 9 7) (fld w 2 7))
  else if fld w 0 2 == 2#2 then some (.fmul (fld w 23 3) (fld w 16 7) (fld w 9 7) (fld w 2 7))
  else if fld w 0 2 == 3#2 then some (.fmin (fld w 23 3) (fld w 16 7) (fld w 9 7) (fld w 2 7))
  else none

/-- The words of major 0x15 (R64). -/
def decode15 (w : BitVec 32) : Option Instr :=
  if fld w 0 2 == 0#2 then some (.ffma (fld w 23 3) (fld w 16 7) (fld w 9 7) (fld w 2 7))
  else if fld w 0 2 == 1#2 then some (.ffms (fld w 23 3) (fld w 16 7) (fld w 9 7) (fld w 2 7))
  else if fld w 0 2 == 2#2 then some (.fmax (fld w 23 3) (fld w 16 7) (fld w 9 7) (fld w 2 7))
  else if fld w 0 2 == 3#2 then some (.fcpys (fld w 23 3) (fld w 16 7) (fld w 9 7) (fld w 2 7))
  else none

/-- The words of major 0x16 (R64). -/
def decode16 (w : BitVec 32) : Option Instr :=
  if fld w 1 1 == 0#1 then (FCond.ofBits (fld w 16 4)).bind fun c => some (.fsetp (fld w 23 3) (fld w 20 3) c (fld w 9 7) (fld w 2 7) (fld w 0 1))
  else none

/-- The words of major 0x17 (R64). -/
def decode17 (w : BitVec 32) : Option Instr :=
  if fld w 2 7 == 0#7 then (FElt.ofBits (fld w 0 2)).bind fun t => some (.frcp (fld w 23 3) (fld w 16 7) (fld w 9 7) t)
  else if fld w 2 7 == 1#7 then (FElt.ofBits (fld w 0 2)).bind fun t => some (.frsq (fld w 23 3) (fld w 16 7) (fld w 9 7) t)
  else if fld w 2 7 == 2#7 then (FElt.ofBits (fld w 0 2)).bind fun t => some (.fsqrt (fld w 23 3) (fld w 16 7) (fld w 9 7) t)
  else if fld w 2 7 == 3#7 then (FElt.ofBits (fld w 0 2)).bind fun t => some (.fexp2 (fld w 23 3) (fld w 16 7) (fld w 9 7) t)
  else if fld w 2 7 == 4#7 then (FElt.ofBits (fld w 0 2)).bind fun t => some (.flog2 (fld w 23 3) (fld w 16 7) (fld w 9 7) t)
  else if fld w 2 7 == 5#7 then (FElt.ofBits (fld w 0 2)).bind fun t => some (.fsin (fld w 23 3) (fld w 16 7) (fld w 9 7) t)
  else if fld w 2 7 == 6#7 then (FElt.ofBits (fld w 0 2)).bind fun t => some (.fcos (fld w 23 3) (fld w 16 7) (fld w 9 7) t)
  else if fld w 2 7 == 7#7 then (FElt.ofBits (fld w 0 2)).bind fun t => some (.ftanh (fld w 23 3) (fld w 16 7) (fld w 9 7) t)
  else if fld w 2 7 == 8#7 then (FElt.ofBits (fld w 0 2)).bind fun t => some (.fsigm (fld w 23 3) (fld w 16 7) (fld w 9 7) t)
  else if fld w 2 7 == 9#7 then (FElt.ofBits (fld w 0 2)).bind fun t => some (.fabs (fld w 23 3) (fld w 16 7) (fld w 9 7) t)
  else if fld w 2 7 == 10#7 then (FElt.ofBits (fld w 0 2)).bind fun t => some (.fneg (fld w 23 3) (fld w 16 7) (fld w 9 7) t)
  else if fld w 2 7 == 11#7 then (FElt.ofBits (fld w 0 2)).bind fun t => some (.frnd (fld w 23 3) (fld w 16 7) (fld w 9 7) t)
  else if fld w 2 7 == 12#7 then (FElt.ofBits (fld w 0 2)).bind fun t => some (.fclass (fld w 23 3) (fld w 16 7) (fld w 9 7) t)
  else none

/-- The words of major 0x18 (R64). -/
def decode18 (w : BitVec 32) : Option Instr :=
  if fld w 0 2 == 0#2 then some (.dadd (fld w 23 3) (fld w 16 7) (fld w 9 7) (fld w 2 7))
  else if fld w 0 2 == 1#2 then some (.dsub (fld w 23 3) (fld w 16 7) (fld w 9 7) (fld w 2 7))
  else if fld w 0 2 == 2#2 then some (.dmul (fld w 23 3) (fld w 16 7) (fld w 9 7) (fld w 2 7))
  else if fld w 0 2 == 3#2 then some (.dfma (fld w 23 3) (fld w 16 7) (fld w 9 7) (fld w 2 7))
  else none

/-- The words of major 0x19 (R64). -/
def decode19 (w : BitVec 32) : Option Instr :=
  if fld w 0 2 == 0#2 then some (.dmin (fld w 23 3) (fld w 16 7) (fld w 9 7) (fld w 2 7))
  else if fld w 0 2 == 1#2 then some (.dmax (fld w 23 3) (fld w 16 7) (fld w 9 7) (fld w 2 7))
  else if fld w 0 9 == 2#9 then some (.drcpa (fld w 23 3) (fld w 16 7) (fld w 9 7))
  else if fld w 0 9 == 3#9 then some (.drsqa (fld w 23 3) (fld w 16 7) (fld w 9 7))
  else none

/-- The words of major 0x1A (R64). -/
def decode1A (w : BitVec 32) : Option Instr :=
  if fld w 0 2 == 0#2 then some (.badd2 (fld w 23 3) (fld w 16 7) (fld w 9 7) (fld w 2 7))
  else if fld w 0 2 == 1#2 then some (.bmul2 (fld w 23 3) (fld w 16 7) (fld w 9 7) (fld w 2 7))
  else if fld w 0 2 == 2#2 then some (.bfma2 (fld w 23 3) (fld w 16 7) (fld w 9 7) (fld w 2 7))
  else if fld w 0 2 == 3#2 then some (.bmax2 (fld w 23 3) (fld w 16 7) (fld w 9 7) (fld w 2 7))
  else none

/-- The words of major 0x1B (R64). -/
def decode1B (w : BitVec 32) : Option Instr :=
  if fld w 0 2 == 0#2 then some (.hadd2 (fld w 23 3) (fld w 16 7) (fld w 9 7) (fld w 2 7))
  else if fld w 0 2 == 1#2 then some (.hmul2 (fld w 23 3) (fld w 16 7) (fld w 9 7) (fld w 2 7))
  else if fld w 0 2 == 2#2 then some (.hfma2 (fld w 23 3) (fld w 16 7) (fld w 9 7) (fld w 2 7))
  else if fld w 0 2 == 3#2 then some (.hmax2 (fld w 23 3) (fld w 16 7) (fld w 9 7) (fld w 2 7))
  else none

/-- The words of major 0x1C (R64). -/
def decode1C (w : BitVec 32) : Option Instr :=
  (CvtCode.ofBits (fld w 2 6)).bind fun c => some (.cvt (fld w 23 3) (fld w 16 7) (fld w 9 7) (fld w 8 1) c (fld w 0 2))

/-- The words of major 0x1D (R64). -/
def decode1D (w : BitVec 32) : Option Instr :=
  if fld w 0 2 == 0#2 && fld w 12 4 == 0#4 then some (.knext (fld w 23 3) (fld w 16 7) (fld w 9 3) (fld w 2 7))
  else if fld w 0 9 == 1#9 && fld w 12 4 == 0#4 then some (.kpop (fld w 23 3) (fld w 16 7) (fld w 9 3))
  else if fld w 0 2 == 2#2 && fld w 12 4 == 0#4 then some (.kget (fld w 23 3) (fld w 16 7) (fld w 9 3) (fld w 2 7))
  else if fld w 0 2 == 3#2 && fld w 12 4 == 0#4 then some (.kset (fld w 23 3) (fld w 16 7) (fld w 9 3) (fld w 2 7))
  else none

/-- The words of major 0x1F (R64). -/
def decode1F (w : BitVec 32) : Option Instr :=
  if fld w 12 11 == 0#11 then some (.trap (fld w 23 3) (fld w 0 12))
  else if fld w 0 23 == 4096#23 then some (.bkpt (fld w 23 3))
  else if fld w 0 23 == 8192#23 then some (.rte (fld w 23 3))
  else if fld w 0 23 == 12288#23 then some (.wfi (fld w 23 3))
  else if fld w 0 5 == 0#5 && fld w 12 4 == 4#4 then some (.rdts (fld w 23 3) (fld w 16 7) (fld w 5 7))
  else if fld w 0 5 == 0#5 && fld w 12 4 == 5#4 then some (.wrts (fld w 23 3) (fld w 16 7) (fld w 5 7))
  else if fld w 0 9 == 0#9 && fld w 12 4 == 6#4 then some (.resume (fld w 23 3) (fld w 16 7) (fld w 9 3))
  else none

/-- The words of major 0x20 (R64). -/
def decode20 (w : BitVec 32) : Option Instr :=
  some (.bra (fld w 23 3) (fld w 0 23))

/-- The words of major 0x21 (R64). -/
def decode21 (w : BitVec 32) : Option Instr :=
  some (.call (fld w 23 3) (fld w 0 23))

/-- The words of major 0x22 (R64). -/
def decode22 (w : BitVec 32) : Option Instr :=
  if fld w 0 9 == 0#9 && fld w 12 11 == 0#11 then some (.brx (fld w 23 3) (fld w 9 3))
  else if fld w 0 9 == 1#9 && fld w 12 11 == 0#11 then some (.callx (fld w 23 3) (fld w 9 3))
  else if fld w 0 23 == 2#23 then some (.ret (fld w 23 3))
  else if fld w 0 23 == 3#23 then some (.exit (fld w 23 3))
  else none

/-- The words of major 0x23 (R64). -/
def decode23 (w : BitVec 32) : Option Instr :=
  if fld w 0 9 == 0#9 && fld w 13 10 == 0#10 then some (.jarm (fld w 23 3) (fld w 9 4))
  else if fld w 0 9 == 1#9 && fld w 13 10 == 0#10 then some (.jdis (fld w 23 3) (fld w 9 4))
  else if fld w 0 9 == 2#9 && fld w 13 10 == 0#10 then some (.join (fld w 23 3) (fld w 9 4))
  else if fld w 0 9 == 3#9 && fld w 13 7 == 0#7 then some (.jtest (fld w 23 3) (fld w 20 3) (fld w 9 4))
  else none

/-- The words of major 0x24 (R64). -/
def decode24 (w : BitVec 32) : Option Instr :=
  if fld w 0 2 == 0#2 then some (.shflIdx (fld w 23 3) (fld w 16 7) (fld w 9 7) (fld w 2 7))
  else if fld w 0 2 == 1#2 then some (.shflUp (fld w 23 3) (fld w 16 7) (fld w 9 7) (fld w 2 7))
  else if fld w 0 2 == 2#2 then some (.shflDn (fld w 23 3) (fld w 16 7) (fld w 9 7) (fld w 2 7))
  else if fld w 0 2 == 3#2 then some (.shflXor (fld w 23 3) (fld w 16 7) (fld w 9 7) (fld w 2 7))
  else none

/-- The words of major 0x25 (R64). -/
def decode25 (w : BitVec 32) : Option Instr :=
  if fld w 0 9 == 0#9 && fld w 12 8 == 0#8 then some (.voteAll (fld w 23 3) (fld w 20 3) (fld w 9 3))
  else if fld w 0 9 == 1#9 && fld w 12 8 == 0#8 then some (.voteAny (fld w 23 3) (fld w 20 3) (fld w 9 3))
  else if fld w 0 9 == 2#9 && fld w 12 4 == 0#4 then some (.ballot (fld w 23 3) (fld w 16 7) (fld w 9 3))
  else if fld w 0 9 == 3#9 then some (.matchg (fld w 23 3) (fld w 16 7) (fld w 9 7))
  else none

/-- The words of major 0x26 (R64). -/
def decode26 (w : BitVec 32) : Option Instr :=
  if fld w 0 2 == 0#2 && fld w 6 3 == 0#3 then (TeamOp.ofBits (fld w 2 4)).bind fun o => some (.lred (fld w 23 3) (fld w 16 7) (fld w 9 7) o)
  else if fld w 0 2 == 1#2 && fld w 7 2 == 0#2 then (TeamOp.ofBits (fld w 2 4)).bind fun o => some (.lscan (fld w 23 3) (fld w 16 7) (fld w 9 7) (fld w 6 1) o)
  else if fld w 0 2 == 2#2 then (TeamOp.ofBits (fld w 2 4)).bind fun o => some (.lstep (fld w 23 3) (fld w 16 7) (fld w 9 7) (fld w 6 3) o)
  else if fld w 0 2 == 3#2 && fld w 3 6 == 0#6 then some (.lrank (fld w 23 3) (fld w 16 7) (fld w 9 7) (fld w 2 1))
  else none

/-- The words of major 0x27 (R64). -/
def decode27 (w : BitVec 32) : Option Instr :=
  if fld w 0 9 == 0#9 && fld w 16 7 == 0#7 then some (.keygrp (fld w 23 3) (fld w 9 7))
  else if fld w 0 2 == 1#2 then some (.spawn (fld w 23 3) (fld w 16 7) (fld w 9 7) (fld w 2 7))
  else if fld w 0 23 == 2#23 then some (.yield (fld w 23 3))
  else if fld w 0 9 == 3#9 && fld w 16 7 == 0#7 then some (.sleep (fld w 23 3) (fld w 9 7))
  else none

/-- The words of major 0x28 (R64). -/
def decode28 (w : BitVec 32) : Option Instr :=
  if fld w 0 16 == 0#16 then (PScope.ofBits (fld w 16 3)).bind fun s => some (.bar (fld w 23 3) (fld w 19 4) s)
  else if fld w 0 9 == 1#9 && fld w 19 4 == 0#4 then (PScope.ofBits (fld w 16 3)).bind fun s => some (.barg (fld w 23 3) s (fld w 9 7))
  else if fld w 0 16 == 2#16 then (PScope.ofBits (fld w 16 3)).bind fun s => some (.arrive (fld w 23 3) (fld w 19 4) s)
  else if fld w 0 19 == 3#19 then some (.await (fld w 23 3) (fld w 19 4))
  else none

/-- The words of major 0x29 (R64). -/
def decode29 (w : BitVec 32) : Option Instr :=
  if fld w 0 9 == 0#9 && fld w 16 7 == 0#7 then some (.synct (fld w 23 3) (fld w 9 7))
  else if fld w 0 9 == 1#9 && fld w 13 3 == 0#3 then some (.ticket (fld w 23 3) (fld w 16 7) (fld w 9 4))
  else none

/-- The words of major 0x2A (R64). -/
def decode2A (w : BitVec 32) : Option Instr :=
  if fld w 0 2 == 0#2 then some (.evset (fld w 23 3) (fld w 16 7) (fld w 10 6) (fld w 9 1) (fld w 2 7))
  else if fld w 0 2 == 1#2 then some (.evsig (fld w 23 3) (fld w 16 7) (fld w 10 6) (fld w 9 1) (fld w 2 7))
  else if fld w 0 10 == 2#10 && fld w 16 7 == 0#7 then some (.evwait (fld w 23 3) (fld w 10 6))
  else if fld w 0 10 == 3#10 then some (.evread (fld w 23 3) (fld w 16 7) (fld w 10 6))
  else none

/-- The words of major 0x2B (R64). -/
def decode2B (w : BitVec 32) : Option Instr :=
  if fld w 0 2 == 0#2 then some (.nrec (fld w 23 3) (fld w 16 7) (fld w 9 7) (fld w 2 7))
  else if fld w 0 9 == 1#9 then some (.launch (fld w 23 3) (fld w 16 7) (fld w 9 7))
  else if fld w 0 2 == 2#2 && fld w 9 7 == 0#7 then some (.nflush (fld w 23 3) (fld w 16 7) (fld w 2 7))
  else none

/-- The words of major 0x2C (R64). -/
def decode2C (w : BitVec 32) : Option Instr :=
  if fld w 0 2 == 0#2 then some (.send (fld w 23 3) (fld w 16 7) (fld w 9 7) (fld w 2 7))
  else if fld w 0 9 == 1#9 then some (.rpoll (fld w 23 3) (fld w 16 7) (fld w 9 7))
  else if fld w 0 9 == 2#9 then some (.rwait (fld w 23 3) (fld w 16 7) (fld w 9 7))
  else if fld w 0 2 == 3#2 then some (.radv (fld w 23 3) (fld w 16 7) (fld w 9 7) (fld w 2 7))
  else none

/-- The words of major 0x30 (R64). -/
def decode30 (w : BitVec 32) : Option Instr :=
  (Am.ofBits (fld w 11 2)).bind fun m => (Sz.ofBits (fld w 8 3)).bind fun s => some (.ld (fld w 23 3) (fld w 16 7) (fld w 13 3) m s (fld w 0 8))

/-- The words of major 0x31 (R64). -/
def decode31 (w : BitVec 32) : Option Instr :=
  (Am.ofBits (fld w 11 2)).bind fun m => (Sz.ofBits (fld w 8 3)).bind fun s => some (.st (fld w 23 3) (fld w 16 7) (fld w 13 3) m s (fld w 0 8))

/-- The words of major 0x32 (R64). -/
def decode32 (w : BitVec 32) : Option Instr :=
  (Am.ofBits (fld w 11 2)).bind fun m => (Sz.ofBits (fld w 8 3)).bind fun s => some (.lds (fld w 23 3) (fld w 16 7) (fld w 13 3) m s (fld w 0 8))

/-- The words of major 0x33 (R64). -/
def decode33 (w : BitVec 32) : Option Instr :=
  (Am.ofBits (fld w 11 2)).bind fun m => (Sz.ofBits (fld w 8 3)).bind fun s => some (.sts (fld w 23 3) (fld w 16 7) (fld w 13 3) m s (fld w 0 8))

/-- The words of major 0x34 (R64). -/
def decode34 (w : BitVec 32) : Option Instr :=
  (AtomOp.ofBits (fld w 9 4)).bind fun o => (AScope.ofBits (fld w 0 2)).bind fun s => some (.atom (fld w 23 3) (fld w 16 7) (fld w 13 3) o (fld w 2 7) s)

/-- The words of major 0x35 (R64). -/
def decode35 (w : BitVec 32) : Option Instr :=
  if fld w 0 2 == 0#2 then (AtomOp.ofBits (fld w 9 4)).bind fun o => some (.atoms (fld w 23 3) (fld w 16 7) (fld w 13 3) o (fld w 2 7))
  else none

/-- The words of major 0x36 (R64). -/
def decode36 (w : BitVec 32) : Option Instr :=
  if fld w 0 1 == 0#1 && fld w 4 19 == 0#19 then (Scope.ofBits (fld w 1 3)).bind fun s => some (.fence (fld w 23 3) s)
  else if fld w 0 1 == 0#1 && fld w 10 6 == 1#6 then (Scope.ofBits (fld w 1 3)).bind fun s => some (.acq (fld w 23 3) (fld w 16 7) (fld w 4 6) s)
  else if fld w 0 1 == 0#1 && fld w 10 6 == 2#6 then (Scope.ofBits (fld w 1 3)).bind fun s => some (.rel (fld w 23 3) (fld w 16 7) (fld w 4 6) s)
  else if fld w 0 4 == 0#4 && fld w 10 3 == 3#3 then some (.bind (fld w 23 3) (fld w 16 7) (fld w 13 3) (fld w 4 6))
  else if fld w 0 4 == 0#4 && fld w 10 13 == 4#13 then some (.unbind (fld w 23 3) (fld w 4 6))
  else none

/-- The words of major 0x37 (R64). -/
def decode37 (w : BitVec 32) : Option Instr :=
  if fld w 8 3 == 0#3 && fld w 16 7 == 0#7 then (Am.ofBits (fld w 11 2)).bind fun m => some (.pref (fld w 23 3) (fld w 13 3) m (fld w 0 8))
  else if fld w 8 3 == 0#3 && fld w 16 7 == 32#7 then (Am.ofBits (fld w 11 2)).bind fun m => some (.cinv (fld w 23 3) (fld w 13 3) m (fld w 0 8))
  else if fld w 8 3 == 0#3 && fld w 16 7 == 64#7 then (Am.ofBits (fld w 11 2)).bind fun m => some (.cwb (fld w 23 3) (fld w 13 3) m (fld w 0 8))
  else none

/-- The words of major 0x38 (R64). -/
def decode38 (w : BitVec 32) : Option Instr :=
  if fld w 0 4 == 0#4 then some (.tdset (fld w 23 3) (fld w 15 8) (fld w 8 7) (fld w 4 4))
  else if fld w 0 4 == 1#4 then some (.tdget (fld w 23 3) (fld w 15 8) (fld w 8 7) (fld w 4 4))
  else if fld w 0 8 == 2#8 then some (.tdld (fld w 23 3) (fld w 15 8) (fld w 8 7))
  else if fld w 0 15 == 3#15 then some (.tdinv (fld w 23 3) (fld w 15 8))
  else none

/-- The words of major 0x39 (R64). -/
def decode39 (w : BitVec 32) : Option Instr :=
  if fld w 0 7 == 0#7 then some (.cp (fld w 23 3) (fld w 15 8) (fld w 7 8))
  else if fld w 0 7 == 1#7 then some (.cpc (fld w 23 3) (fld w 15 8) (fld w 7 8))
  else if fld w 0 15 == 2#15 then some (.cpz (fld w 23 3) (fld w 15 8))
  else none

/-- The words of major 0x3A (R64). -/
def decode3A (w : BitVec 32) : Option Instr :=
  if fld w 0 16 == 0#16 then some (.cpseal (fld w 23 3) (fld w 16 7))
  else if fld w 0 16 == 1#16 then some (.cpwait (fld w 23 3) (fld w 16 7))
  else if fld w 0 16 == 2#16 then some (.cptest (fld w 23 3) (fld w 16 7))
  else none

/-- The words of major 0x3B (R64). -/
def decode3B (w : BitVec 32) : Option Instr :=
  if fld w 0 3 == 0#3 then some (.mma (fld w 23 3) (fld w 15 8) (fld w 7 8) (fld w 3 4))
  else if fld w 0 3 == 1#3 then some (.mmas (fld w 23 3) (fld w 15 8) (fld w 7 8) (fld w 3 4))
  else if fld w 0 3 == 2#3 then some (.mmab (fld w 23 3) (fld w 15 8) (fld w 7 8) (fld w 3 4))
  else if fld w 0 3 == 3#3 then some (.mmam (fld w 23 3) (fld w 15 8) (fld w 7 8) (fld w 3 4))
  else if fld w 0 3 == 4#3 then some (.mmaz (fld w 23 3) (fld w 15 8) (fld w 7 8) (fld w 3 4))
  else if fld w 0 3 == 5#3 then some (.dmma (fld w 23 3) (fld w 15 8) (fld w 7 8) (fld w 3 4))
  else none

/-- The words of major 0x3C (R64). -/
def decode3C (w : BitVec 32) : Option Instr :=
  if fld w 0 3 == 0#3 && fld w 7 16 == 0#16 then some (.accz (fld w 23 3) (fld w 3 4))
  else if fld w 0 3 == 1#3 && fld w 7 8 == 0#8 then some (.accld (fld w 23 3) (fld w 15 8) (fld w 3 4))
  else if fld w 0 3 == 2#3 && fld w 7 8 == 0#8 then some (.accst (fld w 23 3) (fld w 15 8) (fld w 3 4))
  else if fld w 0 3 == 3#3 && fld w 7 1 == 0#1 && fld w 15 1 == 0#1 then some (.accrd (fld w 23 3) (fld w 16 7) (fld w 8 7) (fld w 3 4))
  else if fld w 0 3 == 4#3 && fld w 7 1 == 0#1 && fld w 15 1 == 0#1 then some (.accwr (fld w 23 3) (fld w 16 7) (fld w 8 7) (fld w 3 4))
  else if fld w 0 3 == 5#3 && fld w 7 16 == 0#16 then some (.ownv (fld w 23 3) (fld w 3 4))
  else if fld w 0 3 == 6#3 && fld w 7 16 == 0#16 then some (.ownm (fld w 23 3) (fld w 3 4))
  else if fld w 0 3 == 7#3 && fld w 7 1 == 0#1 && fld w 15 1 == 0#1 then some (.accpsn (fld w 23 3) (fld w 16 7) (fld w 8 7) (fld w 3 4))
  else none

/-- The words of major 0x3D (R64). -/
def decode3D (w : BitVec 32) : Option Instr :=
  if fld w 0 7 == 0#7 then some (.scout (fld w 23 3) (fld w 15 8) (fld w 7 8))
  else if fld w 0 3 == 1#3 && fld w 6 2 == 0#2 then some (.dodge (fld w 23 3) (fld w 15 8) (fld w 8 7) (fld w 3 3))
  else none

/-- The words of major 0x3E (R64). -/
def decode3E (w : BitVec 32) : Option Instr :=
  if fld w 0 15 == 0#15 then some (.chset (fld w 23 3) (fld w 15 8))
  else if fld w 0 7 == 1#7 then some (.chain (fld w 23 3) (fld w 15 8) (fld w 7 8))
  else if fld w 0 7 == 2#7 then some (.chain2 (fld w 23 3) (fld w 15 8) (fld w 7 8))
  else none

/-- The words of major 0x3F (R64). -/
def decode3F (w : BitVec 32) : Option Instr :=
  if fld w 23 3 == 0#3 then some (.hx (fld w 0 23))
  else if fld w 0 16 == 0#16 && fld w 23 3 == 1#3 then some (.hm (fld w 22 1) (fld w 21 1) (fld w 18 3) (fld w 16 2))
  else if fld w 0 3 == 0#3 && fld w 23 3 == 2#3 then some (.he (fld w 22 1) (fld w 19 3) (fld w 18 1) (fld w 17 1) (fld w 11 6) (fld w 3 8))
  else if fld w 0 14 == 0#14 && fld w 23 3 == 3#3 then some (.hs (fld w 16 7) (fld w 15 1) (fld w 14 1))
  else none

/-- Why a word is no instruction. -/
inductive Reject where
  /-- No row of R64 to R66 has this major opcode, function value, code or must-be-zero pattern (R69). -/
  | opcode
  /-- The row exists and an operand breaks its rule (R8, R59, R69). -/
  | operand
  deriving DecidableEq, Repr

/-- The row of the opcode map that a word matches, fields read, operand rules not yet checked (R64). -/
def decodeRow (w : BitVec 32) : Option Instr :=
  match (fld w 26 6).toNat with
  | 0x01 => decode01 w
  | 0x02 => decode02 w
  | 0x03 => decode03 w
  | 0x04 => decode04 w
  | 0x05 => decode05 w
  | 0x06 => decode06 w
  | 0x07 => decode07 w
  | 0x08 => decode08 w
  | 0x09 => decode09 w
  | 0x0A => decode0A w
  | 0x0B => decode0B w
  | 0x0C => decode0C w
  | 0x0D => decode0D w
  | 0x0E => decode0E w
  | 0x0F => decode0F w
  | 0x10 => decode10 w
  | 0x11 => decode11 w
  | 0x12 => decode12 w
  | 0x13 => decode13 w
  | 0x14 => decode14 w
  | 0x15 => decode15 w
  | 0x16 => decode16 w
  | 0x17 => decode17 w
  | 0x18 => decode18 w
  | 0x19 => decode19 w
  | 0x1A => decode1A w
  | 0x1B => decode1B w
  | 0x1C => decode1C w
  | 0x1D => decode1D w
  | 0x1F => decode1F w
  | 0x20 => decode20 w
  | 0x21 => decode21 w
  | 0x22 => decode22 w
  | 0x23 => decode23 w
  | 0x24 => decode24 w
  | 0x25 => decode25 w
  | 0x26 => decode26 w
  | 0x27 => decode27 w
  | 0x28 => decode28 w
  | 0x29 => decode29 w
  | 0x2A => decode2A w
  | 0x2B => decode2B w
  | 0x2C => decode2C w
  | 0x30 => decode30 w
  | 0x31 => decode31 w
  | 0x32 => decode32 w
  | 0x33 => decode33 w
  | 0x34 => decode34 w
  | 0x35 => decode35 w
  | 0x36 => decode36 w
  | 0x37 => decode37 w
  | 0x38 => decode38 w
  | 0x39 => decode39 w
  | 0x3A => decode3A w
  | 0x3B => decode3B w
  | 0x3C => decode3C w
  | 0x3D => decode3D w
  | 0x3E => decode3E w
  | 0x3F => decode3F w
  | _ => none

/-- Decodes a word, or says why it is the illegal instruction. -/
def decodeE (w : BitVec 32) : Except Reject Instr :=
  match decodeRow w with
  | none => .error .opcode
  | some i => if i.wf then .ok i else .error .operand

/-- Decodes a word. -/
def decode (w : BitVec 32) : Option Instr := (decodeE w).toOption

/-- Decodes the four bytes of a word, lowest address first (R57); fewer or more bytes are no word. -/
def decodeBytes (bs : List Byte) : Option Instr :=
  match bs with
  | [b0, b1, b2, b3] => decode (b3 ++ b2 ++ b1 ++ b0)
  | _ => none

/-- The word of an instruction, from the formats of R58, R64 and R65; an event has none. -/
def encode : Instr → Option (BitVec 32)
  | .add pg d a b => some (.ofNat 32 (cat (cat (cat (cat (cat 0x01 pg) d) a) b) 0#2))
  | .sub pg d a b => some (.ofNat 32 (cat (cat (cat (cat (cat 0x01 pg) d) a) b) 1#2))
  | .addc pg d a b => some (.ofNat 32 (cat (cat (cat (cat (cat 0x01 pg) d) a) b) 2#2))
  | .subb pg d a b => some (.ofNat 32 (cat (cat (cat (cat (cat 0x01 pg) d) a) b) 3#2))
  | .and pg d a b => some (.ofNat 32 (cat (cat (cat (cat (cat 0x02 pg) d) a) b) 0#2))
  | .or pg d a b => some (.ofNat 32 (cat (cat (cat (cat (cat 0x02 pg) d) a) b) 1#2))
  | .xor pg d a b => some (.ofNat 32 (cat (cat (cat (cat (cat 0x02 pg) d) a) b) 2#2))
  | .andn pg d a b => some (.ofNat 32 (cat (cat (cat (cat (cat 0x02 pg) d) a) b) 3#2))
  | .shl pg d a b => some (.ofNat 32 (cat (cat (cat (cat (cat 0x03 pg) d) a) b) 0#2))
  | .shr pg d a b => some (.ofNat 32 (cat (cat (cat (cat (cat 0x03 pg) d) a) b) 1#2))
  | .sar pg d a b => some (.ofNat 32 (cat (cat (cat (cat (cat 0x03 pg) d) a) b) 2#2))
  | .rotr pg d a b => some (.ofNat 32 (cat (cat (cat (cat (cat 0x03 pg) d) a) b) 3#2))
  | .mul pg d a b => some (.ofNat 32 (cat (cat (cat (cat (cat 0x04 pg) d) a) b) 0#2))
  | .mulhu pg d a b => some (.ofNat 32 (cat (cat (cat (cat (cat 0x04 pg) d) a) b) 1#2))
  | .mulhs pg d a b => some (.ofNat 32 (cat (cat (cat (cat (cat 0x04 pg) d) a) b) 2#2))
  | .mad pg d a b => some (.ofNat 32 (cat (cat (cat (cat (cat 0x04 pg) d) a) b) 3#2))
  | .min pg d a b => some (.ofNat 32 (cat (cat (cat (cat (cat 0x05 pg) d) a) b) 0#2))
  | .max pg d a b => some (.ofNat 32 (cat (cat (cat (cat (cat 0x05 pg) d) a) b) 1#2))
  | .minu pg d a b => some (.ofNat 32 (cat (cat (cat (cat (cat 0x05 pg) d) a) b) 2#2))
  | .maxu pg d a b => some (.ofNat 32 (cat (cat (cat (cat (cat 0x05 pg) d) a) b) 3#2))
  | .clz pg d a => some (.ofNat 32 (cat (cat (cat (cat 0x06 pg) d) a) 0#9))
  | .popc pg d a => some (.ofNat 32 (cat (cat (cat (cat 0x06 pg) d) a) 1#9))
  | .brev pg d a => some (.ofNat 32 (cat (cat (cat (cat 0x06 pg) d) a) 2#9))
  | .abs pg d a => some (.ofNat 32 (cat (cat (cat (cat 0x06 pg) d) a) 3#9))
  | .add64 pg d a b => some (.ofNat 32 (cat (cat (cat (cat (cat 0x07 pg) d) a) b) 0#2))
  | .sub64 pg d a b => some (.ofNat 32 (cat (cat (cat (cat (cat 0x07 pg) d) a) b) 1#2))
  | .shl64 pg d a b => some (.ofNat 32 (cat (cat (cat (cat (cat 0x07 pg) d) a) b) 2#2))
  | .shr64 pg d a b => some (.ofNat 32 (cat (cat (cat (cat (cat 0x07 pg) d) a) b) 3#2))
  | .addi pg d a i => some (.ofNat 32 (cat (cat (cat (cat 0x08 pg) d) a) i))
  | .andi pg d a i => some (.ofNat 32 (cat (cat (cat (cat 0x09 pg) d) a) i))
  | .ori pg d a i => some (.ofNat 32 (cat (cat (cat (cat 0x0A pg) d) a) i))
  | .xori pg d a i => some (.ofNat 32 (cat (cat (cat (cat 0x0B pg) d) a) i))
  | .shli pg d a n => some (.ofNat 32 (cat (cat (cat (cat (cat 0x0C pg) d) a) 0#4) n))
  | .shri pg d a n => some (.ofNat 32 (cat (cat (cat (cat (cat 0x0C pg) d) a) 4#4) n))
  | .sari pg d a n => some (.ofNat 32 (cat (cat (cat (cat (cat 0x0C pg) d) a) 8#4) n))
  | .rotri pg d a n => some (.ofNat 32 (cat (cat (cat (cat (cat 0x0C pg) d) a) 12#4) n))
  | .movi pg d i => some (.ofNat 32 (cat (cat (cat 0x0D pg) d) i))
  | .bfe pg d a b => some (.ofNat 32 (cat (cat (cat (cat (cat 0x0E pg) d) a) b) 0#2))
  | .bfeu pg d a b => some (.ofNat 32 (cat (cat (cat (cat (cat 0x0E pg) d) a) b) 1#2))
  | .bfi pg d a b => some (.ofNat 32 (cat (cat (cat (cat (cat 0x0E pg) d) a) b) 2#2))
  | .prmt pg d a b => some (.ofNat 32 (cat (cat (cat (cat (cat 0x0E pg) d) a) b) 3#2))
  | .setp pg q c a b => some (.ofNat 32 (cat (cat (cat (cat (cat (cat 0x0F pg) q) c.bits) a) b) 0#2))
  | .setp64 pg q c a b => some (.ofNat 32 (cat (cat (cat (cat (cat (cat 0x0F pg) q) c.bits) a) b) 1#2))
  | .setpImm pg q c a i => some (.ofNat 32 (cat (cat (cat (cat (cat (cat 0x0F pg) q) c.bits) a) i) 2#2))
  | .plop pg q a b t => some (.ofNat 32 (cat (cat (cat (cat (cat (cat 0x10 pg) q) a) b) t) 0#10))
  | .sel pg d a b s => some (.ofNat 32 (cat (cat (cat (cat (cat 0x11 pg) d) a) b) s))
  | .lda pg x g => some (.ofNat 32 (cat (cat (cat (cat (cat 0x12 pg) 0#3) x) g) 0#10))
  | .sta pg x g => some (.ofNat 32 (cat (cat (cat (cat (cat 0x12 pg) 1#3) x) g) 0#10))
  | .adda pg x g => some (.ofNat 32 (cat (cat (cat (cat (cat 0x12 pg) 2#3) x) g) 0#10))
  | .addai pg x i => some (.ofNat 32 (cat (cat (cat (cat (cat 0x12 pg) 3#3) x) 0#7) i))
  | .setm pg x g => some (.ofNat 32 (cat (cat (cat (cat (cat 0x12 pg) 4#3) x) g) 0#10))
  | .clrm pg x => some (.ofNat 32 (cat (cat (cat (cat 0x12 pg) 5#3) x) 0#17))
  | .csrr pg d c => some (.ofNat 32 (cat (cat (cat (cat 0x13 pg) d) 0#4) c))
  | .csrw pg d c => some (.ofNat 32 (cat (cat (cat (cat 0x13 pg) d) 1#4) c))
  | .csrs pg d c => some (.ofNat 32 (cat (cat (cat (cat 0x13 pg) d) 2#4) c))
  | .csrc pg d c => some (.ofNat 32 (cat (cat (cat (cat 0x13 pg) d) 3#4) c))
  | .fadd pg d a b => some (.ofNat 32 (cat (cat (cat (cat (cat 0x14 pg) d) a) b) 0#2))
  | .fsub pg d a b => some (.ofNat 32 (cat (cat (cat (cat (cat 0x14 pg) d) a) b) 1#2))
  | .fmul pg d a b => some (.ofNat 32 (cat (cat (cat (cat (cat 0x14 pg) d) a) b) 2#2))
  | .fmin pg d a b => some (.ofNat 32 (cat (cat (cat (cat (cat 0x14 pg) d) a) b) 3#2))
  | .ffma pg d a b => some (.ofNat 32 (cat (cat (cat (cat (cat 0x15 pg) d) a) b) 0#2))
  | .ffms pg d a b => some (.ofNat 32 (cat (cat (cat (cat (cat 0x15 pg) d) a) b) 1#2))
  | .fmax pg d a b => some (.ofNat 32 (cat (cat (cat (cat (cat 0x15 pg) d) a) b) 2#2))
  | .fcpys pg d a b => some (.ofNat 32 (cat (cat (cat (cat (cat 0x15 pg) d) a) b) 3#2))
  | .fsetp pg q c a b t => some (.ofNat 32 (cat (cat (cat (cat (cat (cat (cat 0x16 pg) q) c.bits) a) b) 0#1) t))
  | .frcp pg d a t => some (.ofNat 32 (cat (cat (cat (cat (cat 0x17 pg) d) a) 0#7) t.bits))
  | .frsq pg d a t => some (.ofNat 32 (cat (cat (cat (cat (cat 0x17 pg) d) a) 1#7) t.bits))
  | .fsqrt pg d a t => some (.ofNat 32 (cat (cat (cat (cat (cat 0x17 pg) d) a) 2#7) t.bits))
  | .fexp2 pg d a t => some (.ofNat 32 (cat (cat (cat (cat (cat 0x17 pg) d) a) 3#7) t.bits))
  | .flog2 pg d a t => some (.ofNat 32 (cat (cat (cat (cat (cat 0x17 pg) d) a) 4#7) t.bits))
  | .fsin pg d a t => some (.ofNat 32 (cat (cat (cat (cat (cat 0x17 pg) d) a) 5#7) t.bits))
  | .fcos pg d a t => some (.ofNat 32 (cat (cat (cat (cat (cat 0x17 pg) d) a) 6#7) t.bits))
  | .ftanh pg d a t => some (.ofNat 32 (cat (cat (cat (cat (cat 0x17 pg) d) a) 7#7) t.bits))
  | .fsigm pg d a t => some (.ofNat 32 (cat (cat (cat (cat (cat 0x17 pg) d) a) 8#7) t.bits))
  | .fabs pg d a t => some (.ofNat 32 (cat (cat (cat (cat (cat 0x17 pg) d) a) 9#7) t.bits))
  | .fneg pg d a t => some (.ofNat 32 (cat (cat (cat (cat (cat 0x17 pg) d) a) 10#7) t.bits))
  | .frnd pg d a t => some (.ofNat 32 (cat (cat (cat (cat (cat 0x17 pg) d) a) 11#7) t.bits))
  | .fclass pg d a t => some (.ofNat 32 (cat (cat (cat (cat (cat 0x17 pg) d) a) 12#7) t.bits))
  | .dadd pg d a b => some (.ofNat 32 (cat (cat (cat (cat (cat 0x18 pg) d) a) b) 0#2))
  | .dsub pg d a b => some (.ofNat 32 (cat (cat (cat (cat (cat 0x18 pg) d) a) b) 1#2))
  | .dmul pg d a b => some (.ofNat 32 (cat (cat (cat (cat (cat 0x18 pg) d) a) b) 2#2))
  | .dfma pg d a b => some (.ofNat 32 (cat (cat (cat (cat (cat 0x18 pg) d) a) b) 3#2))
  | .dmin pg d a b => some (.ofNat 32 (cat (cat (cat (cat (cat 0x19 pg) d) a) b) 0#2))
  | .dmax pg d a b => some (.ofNat 32 (cat (cat (cat (cat (cat 0x19 pg) d) a) b) 1#2))
  | .drcpa pg d a => some (.ofNat 32 (cat (cat (cat (cat 0x19 pg) d) a) 2#9))
  | .drsqa pg d a => some (.ofNat 32 (cat (cat (cat (cat 0x19 pg) d) a) 3#9))
  | .badd2 pg d a b => some (.ofNat 32 (cat (cat (cat (cat (cat 0x1A pg) d) a) b) 0#2))
  | .bmul2 pg d a b => some (.ofNat 32 (cat (cat (cat (cat (cat 0x1A pg) d) a) b) 1#2))
  | .bfma2 pg d a b => some (.ofNat 32 (cat (cat (cat (cat (cat 0x1A pg) d) a) b) 2#2))
  | .bmax2 pg d a b => some (.ofNat 32 (cat (cat (cat (cat (cat 0x1A pg) d) a) b) 3#2))
  | .hadd2 pg d a b => some (.ofNat 32 (cat (cat (cat (cat (cat 0x1B pg) d) a) b) 0#2))
  | .hmul2 pg d a b => some (.ofNat 32 (cat (cat (cat (cat (cat 0x1B pg) d) a) b) 1#2))
  | .hfma2 pg d a b => some (.ofNat 32 (cat (cat (cat (cat (cat 0x1B pg) d) a) b) 2#2))
  | .hmax2 pg d a b => some (.ofNat 32 (cat (cat (cat (cat (cat 0x1B pg) d) a) b) 3#2))
  | .cvt pg d a y c f => some (.ofNat 32 (cat (cat (cat (cat (cat (cat 0x1C pg) d) a) y) c.bits) f))
  | .knext pg d k b => some (.ofNat 32 (cat (cat (cat (cat (cat (cat 0x1D pg) d) 0#4) k) b) 0#2))
  | .kpop pg d k => some (.ofNat 32 (cat (cat (cat (cat (cat 0x1D pg) d) 0#4) k) 1#9))
  | .kget pg d k b => some (.ofNat 32 (cat (cat (cat (cat (cat (cat 0x1D pg) d) 0#4) k) b) 2#2))
  | .kset pg s k b => some (.ofNat 32 (cat (cat (cat (cat (cat (cat 0x1D pg) s) 0#4) k) b) 3#2))
  | .trap pg c => some (.ofNat 32 (cat (cat (cat 0x1F pg) 0#11) c))
  | .bkpt pg => some (.ofNat 32 (cat (cat 0x1F pg) 4096#23))
  | .rte pg => some (.ofNat 32 (cat (cat 0x1F pg) 8192#23))
  | .wfi pg => some (.ofNat 32 (cat (cat 0x1F pg) 12288#23))
  | .rdts pg d s => some (.ofNat 32 (cat (cat (cat (cat (cat 0x1F pg) d) 4#4) s) 0#5))
  | .wrts pg d s => some (.ofNat 32 (cat (cat (cat (cat (cat 0x1F pg) d) 5#4) s) 0#5))
  | .resume pg d n => some (.ofNat 32 (cat (cat (cat (cat (cat 0x1F pg) d) 6#4) n) 0#9))
  | .bra pg o => some (.ofNat 32 (cat (cat 0x20 pg) o))
  | .call pg o => some (.ofNat 32 (cat (cat 0x21 pg) o))
  | .brx pg x => some (.ofNat 32 (cat (cat (cat (cat 0x22 pg) 0#11) x) 0#9))
  | .callx pg x => some (.ofNat 32 (cat (cat (cat (cat 0x22 pg) 0#11) x) 1#9))
  | .ret pg => some (.ofNat 32 (cat (cat 0x22 pg) 2#23))
  | .exit pg => some (.ofNat 32 (cat (cat 0x22 pg) 3#23))
  | .jarm pg j => some (.ofNat 32 (cat (cat (cat (cat 0x23 pg) 0#10) j) 0#9))
  | .jdis pg j => some (.ofNat 32 (cat (cat (cat (cat 0x23 pg) 0#10) j) 1#9))
  | .join pg j => some (.ofNat 32 (cat (cat (cat (cat 0x23 pg) 0#10) j) 2#9))
  | .jtest pg q j => some (.ofNat 32 (cat (cat (cat (cat (cat 0x23 pg) q) 0#7) j) 3#9))
  | .shflIdx pg d a b => some (.ofNat 32 (cat (cat (cat (cat (cat 0x24 pg) d) a) b) 0#2))
  | .shflUp pg d a o => some (.ofNat 32 (cat (cat (cat (cat (cat 0x24 pg) d) a) o) 1#2))
  | .shflDn pg d a o => some (.ofNat 32 (cat (cat (cat (cat (cat 0x24 pg) d) a) o) 2#2))
  | .shflXor pg d a o => some (.ofNat 32 (cat (cat (cat (cat (cat 0x24 pg) d) a) o) 3#2))
  | .voteAll pg q s => some (.ofNat 32 (cat (cat (cat (cat (cat 0x25 pg) q) 0#8) s) 0#9))
  | .voteAny pg q s => some (.ofNat 32 (cat (cat (cat (cat (cat 0x25 pg) q) 0#8) s) 1#9))
  | .ballot pg d s => some (.ofNat 32 (cat (cat (cat (cat (cat 0x25 pg) d) 0#4) s) 2#9))
  | .matchg pg d a => some (.ofNat 32 (cat (cat (cat (cat 0x25 pg) d) a) 3#9))
  | .lred pg d a o => some (.ofNat 32 (cat (cat (cat (cat (cat (cat 0x26 pg) d) a) 0#3) o.bits) 0#2))
  | .lscan pg d a e o => some (.ofNat 32 (cat (cat (cat (cat (cat (cat (cat 0x26 pg) d) a) 0#2) e) o.bits) 1#2))
  | .lstep pg d a h o => some (.ofNat 32 (cat (cat (cat (cat (cat (cat 0x26 pg) d) a) h) o.bits) 2#2))
  | .lrank pg d a m => some (.ofNat 32 (cat (cat (cat (cat (cat (cat 0x26 pg) d) a) 0#6) m) 3#2))
  | .keygrp pg a => some (.ofNat 32 (cat (cat (cat (cat 0x27 pg) 0#7) a) 0#9))
  | .spawn pg d a b => some (.ofNat 32 (cat (cat (cat (cat (cat 0x27 pg) d) a) b) 1#2))
  | .yield pg => some (.ofNat 32 (cat (cat 0x27 pg) 2#23))
  | .sleep pg a => some (.ofNat 32 (cat (cat (cat (cat 0x27 pg) 0#7) a) 3#9))
  | .bar pg i s => some (.ofNat 32 (cat (cat (cat (cat 0x28 pg) i) s.bits) 0#16))
  | .barg pg s a => some (.ofNat 32 (cat (cat (cat (cat (cat 0x28 pg) 0#4) s.bits) a) 1#9))
  | .arrive pg i s => some (.ofNat 32 (cat (cat (cat (cat 0x28 pg) i) s.bits) 2#16))
  | .await pg i => some (.ofNat 32 (cat (cat (cat 0x28 pg) i) 3#19))
  | .synct pg a => some (.ofNat 32 (cat (cat (cat (cat 0x29 pg) 0#7) a) 0#9))
  | .ticket pg d k => some (.ofNat 32 (cat (cat (cat (cat (cat 0x29 pg) d) 0#3) k) 1#9))
  | .evset pg d n r k => some (.ofNat 32 (cat (cat (cat (cat (cat (cat 0x2A pg) d) n) r) k) 0#2))
  | .evsig pg d n r k => some (.ofNat 32 (cat (cat (cat (cat (cat (cat 0x2A pg) d) n) r) k) 1#2))
  | .evwait pg n => some (.ofNat 32 (cat (cat (cat (cat 0x2A pg) 0#7) n) 2#10))
  | .evread pg d n => some (.ofNat 32 (cat (cat (cat (cat 0x2A pg) d) n) 3#10))
  | .nrec pg d a b => some (.ofNat 32 (cat (cat (cat (cat (cat 0x2B pg) d) a) b) 0#2))
  | .launch pg d a => some (.ofNat 32 (cat (cat (cat (cat 0x2B pg) d) a) 1#9))
  | .nflush pg d b => some (.ofNat 32 (cat (cat (cat (cat (cat 0x2B pg) d) 0#7) b) 2#2))
  | .send pg d a b => some (.ofNat 32 (cat (cat (cat (cat (cat 0x2C pg) d) a) b) 0#2))
  | .rpoll pg d a => some (.ofNat 32 (cat (cat (cat (cat 0x2C pg) d) a) 1#9))
  | .rwait pg d a => some (.ofNat 32 (cat (cat (cat (cat 0x2C pg) d) a) 2#9))
  | .radv pg d a b => some (.ofNat 32 (cat (cat (cat (cat (cat 0x2C pg) d) a) b) 3#2))
  | .ld pg d r m s o => some (.ofNat 32 (cat (cat (cat (cat (cat (cat 0x30 pg) d) r) m.bits) s.bits) o))
  | .st pg d r m s o => some (.ofNat 32 (cat (cat (cat (cat (cat (cat 0x31 pg) d) r) m.bits) s.bits) o))
  | .lds pg d r m s o => some (.ofNat 32 (cat (cat (cat (cat (cat (cat 0x32 pg) d) r) m.bits) s.bits) o))
  | .sts pg d r m s o => some (.ofNat 32 (cat (cat (cat (cat (cat (cat 0x33 pg) d) r) m.bits) s.bits) o))
  | .atom pg d r o b s => some (.ofNat 32 (cat (cat (cat (cat (cat (cat 0x34 pg) d) r) o.bits) b) s.bits))
  | .atoms pg d r o b => some (.ofNat 32 (cat (cat (cat (cat (cat (cat 0x35 pg) d) r) o.bits) b) 0#2))
  | .fence pg s => some (.ofNat 32 (cat (cat (cat (cat 0x36 pg) 0#19) s.bits) 0#1))
  | .acq pg g e s => some (.ofNat 32 (cat (cat (cat (cat (cat (cat 0x36 pg) g) 1#6) e) s.bits) 0#1))
  | .rel pg g e s => some (.ofNat 32 (cat (cat (cat (cat (cat (cat 0x36 pg) g) 2#6) e) s.bits) 0#1))
  | .bind pg g r e => some (.ofNat 32 (cat (cat (cat (cat (cat (cat 0x36 pg) g) r) 3#3) e) 0#4))
  | .unbind pg e => some (.ofNat 32 (cat (cat (cat (cat 0x36 pg) 4#13) e) 0#4))
  | .pref pg r m o => some (.ofNat 32 (cat (cat (cat (cat (cat (cat 0x37 pg) 0#7) r) m.bits) 0#3) o))
  | .cinv pg r m o => some (.ofNat 32 (cat (cat (cat (cat (cat (cat 0x37 pg) 32#7) r) m.bits) 0#3) o))
  | .cwb pg r m o => some (.ofNat 32 (cat (cat (cat (cat (cat (cat 0x37 pg) 64#7) r) m.bits) 0#3) o))
  | .tdset pg h g w => some (.ofNat 32 (cat (cat (cat (cat (cat 0x38 pg) h) g) w) 0#4))
  | .tdget pg h g w => some (.ofNat 32 (cat (cat (cat (cat (cat 0x38 pg) h) g) w) 1#4))
  | .tdld pg h g => some (.ofNat 32 (cat (cat (cat (cat 0x38 pg) h) g) 2#8))
  | .tdinv pg h => some (.ofNat 32 (cat (cat (cat 0x38 pg) h) 3#15))
  | .cp pg d s => some (.ofNat 32 (cat (cat (cat (cat 0x39 pg) d) s) 0#7))
  | .cpc pg d s => some (.ofNat 32 (cat (cat (cat (cat 0x39 pg) d) s) 1#7))
  | .cpz pg d => some (.ofNat 32 (cat (cat (cat 0x39 pg) d) 2#15))
  | .cpseal pg d => some (.ofNat 32 (cat (cat (cat 0x3A pg) d) 0#16))
  | .cpwait pg s => some (.ofNat 32 (cat (cat (cat 0x3A pg) s) 1#16))
  | .cptest pg d => some (.ofNat 32 (cat (cat (cat 0x3A pg) d) 2#16))
  | .mma pg a b n => some (.ofNat 32 (cat (cat (cat (cat (cat 0x3B pg) a) b) n) 0#3))
  | .mmas pg a b n => some (.ofNat 32 (cat (cat (cat (cat (cat 0x3B pg) a) b) n) 1#3))
  | .mmab pg a b n => some (.ofNat 32 (cat (cat (cat (cat (cat 0x3B pg) a) b) n) 2#3))
  | .mmam pg a b n => some (.ofNat 32 (cat (cat (cat (cat (cat 0x3B pg) a) b) n) 3#3))
  | .mmaz pg a b n => some (.ofNat 32 (cat (cat (cat (cat (cat 0x3B pg) a) b) n) 4#3))
  | .dmma pg a b n => some (.ofNat 32 (cat (cat (cat (cat (cat 0x3B pg) a) b) n) 5#3))
  | .accz pg n => some (.ofNat 32 (cat (cat (cat (cat 0x3C pg) 0#16) n) 0#3))
  | .accld pg s n => some (.ofNat 32 (cat (cat (cat (cat (cat 0x3C pg) s) 0#8) n) 1#3))
  | .accst pg d n => some (.ofNat 32 (cat (cat (cat (cat (cat 0x3C pg) d) 0#8) n) 2#3))
  | .accrd pg d c n => some (.ofNat 32 (cat (cat (cat (cat (cat (cat (cat 0x3C pg) d) 0#1) c) 0#1) n) 3#3))
  | .accwr pg s c n => some (.ofNat 32 (cat (cat (cat (cat (cat (cat (cat 0x3C pg) s) 0#1) c) 0#1) n) 4#3))
  | .ownv pg n => some (.ofNat 32 (cat (cat (cat (cat 0x3C pg) 0#16) n) 5#3))
  | .ownm pg n => some (.ofNat 32 (cat (cat (cat (cat 0x3C pg) 0#16) n) 6#3))
  | .accpsn pg s c n => some (.ofNat 32 (cat (cat (cat (cat (cat (cat (cat 0x3C pg) s) 0#1) c) 0#1) n) 7#3))
  | .scout pg s q => some (.ofNat 32 (cat (cat (cat (cat 0x3D pg) s) q) 0#7))
  | .dodge pg s t k => some (.ofNat 32 (cat (cat (cat (cat (cat (cat 0x3D pg) s) t) 0#2) k) 1#3))
  | .chset pg h => some (.ofNat 32 (cat (cat (cat 0x3E pg) h) 0#15))
  | .chain pg d s => some (.ofNat 32 (cat (cat (cat (cat 0x3E pg) d) s) 1#7))
  | .chain2 pg d s => some (.ofNat 32 (cat (cat (cat (cat 0x3E pg) d) s) 2#7))
  | .hx e => some (.ofNat 32 (cat (cat 0x3F 0#3) e))
  | .hm n s r c => some (.ofNat 32 (cat (cat (cat (cat (cat (cat 0x3F 1#3) n) s) r) c) 0#16))
  | .he g k m v e t => some (.ofNat 32 (cat (cat (cat (cat (cat (cat (cat (cat 0x3F 2#3) g) k) m) v) e) t) 0#3))
  | .hs h r k => some (.ofNat 32 (cat (cat (cat (cat (cat 0x3F 3#3) h) r) k) 0#14))
  | .interrupt _ _ => none
  | .partitionStopped _ => none
  | .formationCycle _ _ => none
  | .threadSplit _ => none
  | .teamInstanceExecute _ _ _ _ => none
  | .sleepExpiry _ => none
  | .loadReturn _ _ => none
  | .storeAcknowledge _ _ => none
  | .logicalTimeTick _ => none
  | .logicalTimeRaise _ => none
  | .l1Sweep _ => none
  | .l2Sweep _ _ => none
  | .memoryFill _ _ _ _ => none
  | .reads _ _ => none
  | .readown _ _ => none
  | .upgrade _ _ => none
  | .evictc _ _ => none
  | .writeback _ _ => none
  | .fwds _ _ => none
  | .fwdown _ _ => none
  | .inv _ _ => none
  | .grantm _ _ => none
  | .flitReplay _ _ => none
  | .linkDown _ _ _ => none
  | .hostSnoop _ => none
  | .hostMemoryAccess _ _ _ => none
  | .herborInboundAccess _ _ _ _ _ => none
  | .ringAppend _ => none
  | .pageWalk _ _ _ _ => none
  | .faultRecordWrite _ => none
  | .operandLogReplay _ _ => none
  | .scratchpadPageFault _ _ _ _ => none
  | .pageFillComplete _ _ _ _ => none
  | .writeOutAck _ _ _ _ => none
  | .blockMigrate _ _ _ _ => none
  | .engineStep _ _ _ => none
  | .stepRetire _ _ _ => none
  | .copyBatchComplete _ => none
  | .gangArrival _ _ => none
  | .launchRecordRead _ _ => none
  | .blockPlace _ => none
  | .priorityWaitExpiry _ _ => none
  | .blockRetire _ _ _ => none
  | .launchComplete _ _ => none
  | .binTimerExpiry _ _ => none
  | .doorbell _ _ _ => none
  | .ctxrootWrite _ _ _ => none
  | .shoot _ _ => none
  | .shootdownComplete _ => none
  | .frespRetry _ _ => none
  | .frespError _ _ => none
  | .bootstatWrite _ _ => none
  | .configWindowWrite _ _ _ => none
  | .swap _ _ => none
  | .saveComplete _ => none
  | .fillComplete _ => none
  | .checkpointIntervalExpiry _ => none
  | .snapshotSwap _ => none
  | .checkpointCommit _ => none
  | .uncorrectableError _ => none
  | .rollback _ => none
  | .kernelLineRestore _ _ => none
  | .selfTest _ _ => none
  | .fatalStop => none
  | .powerOn => none
  | .powerOff => none
  | .warmBoot => none
  | .romBoot => none
  | .firmwareBringup => none
  | .startCores => none
  | .kernelLoad _ _ => none
  | .mailboxStatus => none
  | .mailboxLoad _ => none
  | .mailboxDump _ _ => none
  | .mailboxClear => none
  | .mailboxAttest _ => none
  | .powerEpoch _ _ _ => none
  | .currentSurge _ => none
  | .thermalLimit _ => none
  | .thermalShutdown _ => none
  | .illegalInstruction w => some w
  | .contextFill _ _ => none
  | .sendAcknowledgement _ => none
  | .dataMessage _ _ => none
  | .backInvalidationResponse _ => none
  | .hdmbaseWrite _ => none
  | .storagePathRequest _ _ _ _ => none
  | .versionCounterRaise _ => none
  | .thermalRecovery _ => none
  | .partitionConfiguration _ _ => none
  | .queueConfiguration _ _ _ => none
  | .checkpointEnable _ _ _ _ => none
  | .accessCounterRearm _ => none

/-- The instruction is a word of the opcode map (not an event, and not the illegal word). -/
def Instr.isWord (i : Instr) : Bool :=
  match i with
  | .illegalInstruction _ => false
  | _ => (encode i).isSome

/-- The decoder on a word numbered as spec/opcode_table.json numbers it: every instruction is one 32-bit word. -/
def decodeTableWord (nbits w : Nat) : Option Instr :=
  if nbits ≤ 32 then decode (BitVec.ofNat 32 (w % 2 ^ nbits)) else none

end Sys2Proof
end

