-- ==== Sys2Proof/Config.lean ====
section
/-! DEFINITION. Sys2Proof/Config.lean: what the manual leaves open. Every constant below is opaque: nothing can be
proved of its value, so a claim holds whatever it is (logs 4, 10, 11). -/

namespace Sys2Proof.Config

/-- A fresh value the manual does not state, numbered by State.fresh (log 4). -/
opaque free64 : Nat → BitVec 64

/-- The bits an approximate special function gives for a function code and FP32 source bits, before it is held
to the bound of R107 (R108, log 10). -/
opaque sfu : Nat → BitVec 32 → BitVec 32

/-- SHA3-256 of a byte string (R349, R351); a named standard whose values the manual does not compute (log 11). -/
opaque sha3 : List Byte → BitVec 256

/-- ML-DSA-44 verification: public key, message digest, signature (R349; log 11). -/
opaque mldsaVerify : List Byte → BitVec 256 → List Byte → Bool

/-- ML-DSA-44 signature with a device key over a digest (R351; log 11). -/
opaque mldsaSign : BitVec 256 → BitVec 256 → List Byte

/-- The key that a firmware image's header names for the kernel's image (R349); no rule gives its place. -/
opaque kernelKey : List Byte → List Byte

/-- The identity key derived from the fused device secret and the firmware's security version (R351; log 11). -/
opaque identityKey : BitVec 256 → Nat → BitVec 256

/-- The package's number in the load-store domain, CSR PKG (R68, R340); no rule gives it. -/
opaque pkg : BitVec 8

/-- CSR CORE on the Gecko pair of a die: R15 gives the control cores' values only. -/
opaque geckoCore : Nat → BitVec 32

/-- Package p lies in the domain and holds a context under a SID (R340). -/
opaque remote : Nat → Nat → Bool

/-- A byte of another package's memory: the number of the draw and the address (R340). -/
opaque remoteByte : Nat → Nat → BitVec 8

/-- A byte of the dump region after a fatal stop: the number of the stop and the offset (R330 gives what the dump holds,
not its layout). -/
opaque dumpByte : Nat → Nat → BitVec 8

/-- The threshold the resident kernel sets for the access counters; no register of it is given (R215). -/
opaque accessThreshold : Nat

/-- How many bytes of the dump region a fatal stop writes (R330). -/
opaque dumpBytes : Nat → Nat

/-- A byte of the Fixer's stop record: the STT entries of the pages whose transfers have begun, the entry and the address of a
failed one, and the byte's place (R314 gives what the record holds, not its layout). -/
opaque fixerByte : List (BitVec 128) → Option (BitVec 128 × BitVec 64) → Nat → BitVec 8

/-- The bytes a negative-log record takes in its stack's log (R325 gives its contents, not its size). -/
opaque negRecBytes : Nat

/-- What a read of an entry of a page table in the host range answers while CXL.cache is not offered: the number of the draw and the
address (R350). -/
opaque offEntry : Nat → Nat → BitVec 64

end Sys2Proof.Config
end

