-- ==== Sys2Proof/Machine/State.lean ====
section
/-! DEFINITION. Sys2Proof/Machine/State.lean: the state of the part, as plain data, and the state after reset.
Tables (`Tab`) list what differs from the reset value; an unlisted key reads as the reset value. -/

namespace Sys2Proof.Machine

/-- Why a step stops with a fault. -/
inductive Fault where
  /-- A physical address that is no memory of the package (R193), where a register of a configuration window (FQBASE,
  SRAREA, TELEM) sends a write of the hardware: raised by that write. Safe: the machine stops where the manual gives no
  access. -/
  | noSuchAddress (pa : Nat)
  deriving DecidableEq, Repr

/-- Why the model gives an instruction no meaning. -/
inductive Refusal where
  /-- The arm of the instruction is not written: raised by exec alone. Safe. -/
  | notModelled (mnemonic : String)
  deriving DecidableEq, Repr

/-! ## One thread (R7) -/

/-- The privilege levels; 0b10 is never held (R14). -/
inductive Level where
  | user | kernel | monitor
  deriving DecidableEq, Repr

/-- The pending-hint register: one slot per kind, present when valid (R7, R19). -/
structure Hints where
  hx : Option (BitVec 23) := none
  hm : Option (BitVec 23) := none
  he : Option (BitVec 23) := none
  hs : Option (BitVec 23) := none
  /-- The payloads that WRTS wrote into slots that hold no hint, by slot (R95). -/
  idle : Tab Nat (BitVec 23) := []
  deriving DecidableEq, Repr

/-- A register the scoreboard tracks (R16). -/
inductive PReg where
  | g (n : Nat) | p (n : Nat) | a (n : Nat) | m (n : Nat) | k (n : Nat)
  deriving DecidableEq, Repr

/-- What a parked thread waits for (R95 WAIT, R133, R135, R149, R152, R154, R155, R158). -/
inductive Park where
  | join (j : Nat) | team | bar (b : Nat) | await (b : Nat) | barg (e : Nat) | synct
  | evwait (n : Nat) | cpwait | own | rwait | sleep (wake : Nat)
  /-- Left its bundle at the split threshold; enters the pond when its dependence resolves (R124). -/
  | split
  deriving DecidableEq, Repr

/-- Where a compute thread stands (R122, R125). -/
inductive Place where
  | pond (arr rel : Nat) (packed : Bool)
  | bundle (b : Nat)
  | parked (w : Park)
  | exited
  deriving DecidableEq, Repr

/-- An arrival at a team instance (R135, R147): the word's operation, its guard's value and the captured FPMODE. -/
structure TeamArr where
  op     : Instr
  guard  : Bool
  fpmode : Word
  deriving DecidableEq, Repr

/-- A copy batch of a thread: its number, commands still to complete, and its token register once sealed with one
(R267). -/
structure Batch where
  num    : Nat
  left   : Nat
  sealed : Bool
  token  : Option Nat
  event  : Option Nat
  /-- The latest wts of its global writes (R234). -/
  time   : Option (BitVec 24) := none
  deriving DecidableEq, Repr

/-- What a compute thread holds beside the sequential machine (R115, R125, R133 to R137, R152 to R155, R267). -/
structure Par where
  blk     : Nat := 0
  tidx    : Nat := 0
  place   : Place := .pond 0 0 false
  key     : Option Word := none
  armed   : BitVec 16 := 0
  arrived : BitVec 16 := 0
  barArr  : BitVec 16 := 0
  barPh   : BitVec 16 := 0
  barEver : BitVec 16 := 0
  teamN   : Nat := 0
  team    : Option TeamArr := none
  barg    : Option Nat := none
  /-- Its word waits where it stands, and for what; `split` for a register or a resource (R16, R124). -/
  held    : Option Park := none
  batches : List Batch := []
  deriving DecidableEq, Repr

/-- One thread: a complete sequential machine (R7). -/
structure Thread where
  pc      : BitVec 57 := 0
  g       : Tab Nat Word := []
  p       : Tab Nat Bool := []
  a       : Tab Nat Dword := []
  m       : Tab Nat Dword := []
  k       : Tab Nat (BitVec 256) := []
  hints   : Hints := {}
  fpmode  : Word := 0
  fpflags : Word := 0
  srseed  : Word := 0x9E3779B9
  regmode : Word := 0
  hold    : Word := 16
  gang    : Word := 0
  lease   : Word := 10
  /-- The number of the open copy batch (R267). -/
  cpopen  : Word := 0
  alloc   : Nat := 128
  pend    : List PReg := []
  par     : Par := {}
  /-- The word that has issued and waits, as it was fetched (R16, R124). -/
  iss     : Option Instr := none
  /-- The binding-table entry an ACQ or REL that waits read at its issue (R221, R249). -/
  entry   : Option (BitVec 192) := none
  /-- The wait of a word that left its bundle is over; it completes when next formed (R124, R247). -/
  met     : Bool := false
  /-- The word that an ACQ which left its bundle has read, till it completes (R247). -/
  acq     : Option Dword := none
  deriving DecidableEq, Repr

/-! ## Control cores (R14, R22 to R29, R142, R196) -/

/-- A saved hint slot of a trap set (R24). -/
structure SavedHint where
  v       : Bool := false
  payload : BitVec 23 := 0
  deriving DecidableEq, Repr

/-- A trap set (R22 to R24): the kernel's PSTAT to THS, or the monitor's MSTAT to MHS. -/
structure TrapSet where
  intrap : Bool := false
  ie     : Bool := false
  pie    : Bool := false
  ppl    : Level := .user
  irq    : Bool := false
  code   : BitVec 8 := 0
  tvec   : BitVec 57 := 0
  epc    : BitVec 57 := 0
  val    : BitVec 64 := 0
  hx     : SavedHint := {}
  hm     : SavedHint := {}
  he     : SavedHint := {}
  hs     : SavedHint := {}
  deriving DecidableEq, Repr

/-- A page-table root register: CTXROOT, UROOT or KROOT (R196). -/
structure Root where
  sid  : BitVec 16 := 0
  en   : Bool := false
  root : BitVec 40 := 0
  deriving DecidableEq, Repr

/-- A store of a control core that waits: its address and bytes, whether it waits for its die's ownership of the line, and the wts it
got when the grant applied it (R336, R338). -/
structure CtlStore where
  pa   : Nat
  data : List Byte
  own  : Bool := false
  wts  : Option (BitVec 24) := none
  deriving DecidableEq, Repr

/-- A control core (or the Gecko pair, which runs as a fifth control thread of its die). -/
structure Ctl where
  t       : Thread := {}
  pl      : Level := .monitor
  kset    : TrapSet := {}
  mset    : TrapSet := {}
  kctxV   : Bool := false
  kctxP   : BitVec 3 := 0
  kctxB   : BitVec 1 := 0
  uroot   : Root := {}
  kroot   : Root := {}
  /-- Started by stage 2 of the boot (R348). -/
  running : Bool := false
  /-- Stopped by a trap at monitor level with MSTAT.INTRAP set (R27). -/
  stopped : Bool := false
  /-- Waits in WFI (R94). -/
  wfi     : Bool := false
  /-- Sleeps until this clock (R149). -/
  sleep   : Option Nat := none
  /-- Pending interrupt sources (R331). -/
  irqs    : List Nat := []
  /-- On a Gecko pair: the control cores that have stopped and signalled it (R27). -/
  signals : List Nat := []
  /-- Its stores whose snoops are still to be answered: line and the time the acknowledgement brings (R226, R338). -/
  wb      : List (Nat × BitVec 24) := []
  /-- The interval in which it issued the outbound write that is held at its port (R325). -/
  port    : Option Nat := none
  /-- The store that its word waits to have applied (R325, R336, R345). -/
  store   : Option CtlStore := none
  /-- The first word of the 16-byte access that its word makes has been performed: the bytes it read (R219, R238). -/
  part    : Option (List Byte) := none
  deriving DecidableEq, Repr

/-! ## Launches and blocks (R115 to R119, R151 to R175) -/

/-- A checked launch record (R167); `argw` are the argument words the distributor read. -/
structure LRec where
  entry   : BitVec 57 := 0
  gx      : Nat := 1
  gy      : Nat := 1
  gz      : Nat := 1
  nthr    : Nat := 1
  regn    : Nat := 2
  queue   : Nat := 0
  cohort  : Bool := false
  overlap : Bool := false
  spq     : Nat := 0
  seed    : Word := 0
  back    : Nat := 0
  gtab    : Nat := 0
  gn      : Nat := 0
  evd     : Option Nat := none
  evb     : Option Nat := none
  args    : Nat := 0
  narg    : Nat := 0
  rings   : List (Option (Nat × Nat)) := []
  argw    : List Word := []
  deriving DecidableEq, Repr

/-- A launch in progress: the next block index to dispatch, blocks and spawned blocks not yet retired, whether its
binding is satisfied (R169), since when its next block waits (R171), the records of a bin launch (R175), and whether
its LIST 1 lists have been read (R118). -/
structure Launch where
  r       : LRec := {}
  queue   : Nat := 0
  next    : Nat := 0
  live    : Nat := 0
  bound   : Bool := true
  since   : Option Nat := none
  recs    : List (List Word) := []
  listed  : Bool := false
  /-- The 8 µs of R171 have passed. -/
  starved : Bool := false
  /-- The group-table entries it loaded, and the members its LIST 1 entries list (R117, R118). -/
  grp     : Tab Nat (BitVec 128) := []
  lists   : Tab Nat (List Nat) := []
  /-- The latest time of the publishing arrivals at a group barrier (R154). -/
  bargT   : Tab Nat (BitVec 24) := []
  /-- Arrivals at the latch of a gang entry, by entry and instance (R272). -/
  latch   : Tab (Nat × Nat) Nat := []
  /-- The time of its LAUNCH, or of the appends of its records (R160). -/
  time    : Option (BitVec 24) := none
  /-- BIDX of its spawned blocks that have retired (R162). -/
  gone    : List Word := []
  deriving DecidableEq, Repr

/-- A record waiting in a hardware queue: a record address, with the records of a bin launch when it is one. The head
record keeps its place, with its launch, until the last block is dispatched. -/
structure QRec where
  addr   : Dword
  bin    : Option (List (List Word)) := none
  launch : Option Nat := none
  /-- The fault record its reading waits for (R167). -/
  tag    : Option Nat := none
  /-- Pages whose record the kernel has answered with ERROR (R118, R167). -/
  denied : List Nat := []
  /-- The logical time of the thread whose earlier writes the record's blocks see (R160). -/
  time   : Option (BitVec 24) := none
  /-- The counters that read 0 when the record reached the head of its queue, or have fired since (R169). -/
  fired  : BitVec 64 := 0
  deriving DecidableEq, Repr

/-- A hardware queue (R164, R165). -/
structure HwQueue where
  cfg   : Bool := false
  prio  : Nat := 0
  recs  : List QRec := []
  drops : Nat := 0
  deriving DecidableEq, Repr

/-- A node bin: its configuration entry (R174), its records in append order, the clock its timer started. -/
structure Bin where
  entry : BitVec 128 := 0
  recs  : List (List Word) := []
  timer : Option Nat := none
  /-- A launch that found its queue full waits for a retry (R175). -/
  retry : Bool := false
  /-- The fault record that the reading of its template waits for (R167, R175). -/
  tag   : Option Nat := none
  /-- As QRec.time, over its appends. -/
  time  : Option (BitVec 24) := none
  deriving DecidableEq, Repr

/-- A SYNCT instance of a team (R155, R156). -/
structure Synct where
  mask   : Word
  broken : Bool := false
  deriving DecidableEq, Repr

/-- A message ring of a block (R161): header address, log of the slot count, the interface's own TAIL. -/
structure Ring where
  h    : Nat
  l    : Nat
  tail : Word := 0
  /-- The latest time of the senders of its messages (R163). -/
  time : Option (BitVec 24) := none
  deriving DecidableEq, Repr

/-- A block resident on a core (R115, R138, R151, R157, R161, R170, R222, R276). -/
structure Block where
  launch   : Nat := 0
  bidx     : Word := 0
  nthr     : Nat := 0
  gx       : Word := 1
  gy       : Word := 1
  gz       : Word := 1
  regs     : Nat := 16
  spq      : Nat := 0
  backK    : Nat := 0
  spawned  : Bool := false
  groups   : List Nat := []
  phase    : BitVec 16 := 0
  tickets  : Tab Nat Word := []
  synct    : Tab Nat Synct := []
  rings    : Tab Nat Ring := []
  /-- The chain its latest CHSET loaded (R276): operation codes and FP32 constants. -/
  chain    : Option (List (Nat × Word)) := none
  /-- Unacknowledged writes (R222). -/
  unack    : Nat := 0
  /-- It has issued a word of majors 0x3B to 0x3D (R189). -/
  tiles    : Bool := false
  /-- Joint commands that have arrived at its gang's latch (R272). -/
  joint    : Nat := 0
  /-- Of a spawned block: its parent's thread slot, and the number below which that thread's accesses are older than it
  (R150). -/
  parent   : Option (Nat × Nat) := none
  deriving DecidableEq, Repr

/-- What a word's execution was to a bundle (R122, R123). -/
inductive Issued where
  | plain
  | branch (taken indirect : Bool) (target : BitVec 57) (backward : Bool) (hold : Nat) (packed : Bool)
  /-- JOIN, KEYGRP or a team instruction: the bundle dissolves. -/
  | dissolve
  deriving DecidableEq, Repr

/-- A bundle (R120): its threads with their lanes, the word it has fetched and not yet finished, the threads that have
executed it, and those it waits on. -/
structure Bundle where
  lanes : List (Nat × Nat) := []
  op    : Option Instr := none
  did   : List (Nat × Issued) := []
  /-- Its threads that are not ready for its word, with the clock at which it first waited on each (R124). -/
  waits : Tab Nat Nat := []
  deriving DecidableEq, Repr

/-! ## Scratchpad, accumulators, engines (R180, R49, R257 to R276) -/

/-- An allocated entry of the scratchpad translation table, keyed by block slot and page (R180); `held` is the source
core while a migrated page has not moved (R189). -/
structure SttE where
  res   : Bool := false
  dirty : Bool := false
  infl  : Bool := false
  fix   : Bool := false
  zero  : Bool := true
  ref   : Bool := false
  pin   : Nat := 0
  frame : Nat := 0
  baddr : BitVec 46 := 0
  held  : Option (Nat × Nat) := none
  deriving DecidableEq, Repr

/-- A page transfer of the Fixer (R183, R184): fills page `vpn` of block slot `bs` into `frame`, or writes it out;
`want` is the bank, block slot and page whose fault chose the frame; `tag` a fault record it waits for (R186). -/
structure Xfer where
  bs    : Nat
  vpn   : Nat
  out   : Bool
  frame : Nat
  want  : Option (Nat × Nat × Nat) := none
  tag   : Option Nat := none
  /-- Of a page written out that has migrated and not moved: the core whose table holds its entry (R189). -/
  home  : Option Nat := none
  /-- The interval in which its outbound write was first held at its port (R325). -/
  port  : Option Nat := none
  /-- Of a page of a saved bank whose write is held at its port: its bytes, which have left their frame (R187, R325). -/
  data  : Option (List Byte) := none
  deriving DecidableEq, Repr

/-- An accumulator tile (R39, R49, R271): cells by 128 * row + column, row poison, causes, the owning block when
vector-owned. -/
structure Tile where
  cells  : Tab Nat (BitVec 56) := []
  poison : BitVec 128 := 0
  cause  : BitVec 8 := 0
  owner  : Option Nat := none
  /-- Thread slots whose OWNV waits, in the order of their issue (R271). -/
  queue  : List Nat := []
  deriving DecidableEq, Repr

/-- The writes a step makes when it retires (R264): global bytes by physical address and scratchpad bytes by block
address, each with the mask of the bits written and their value; tiles, a k-register, the chain, and the generator and
band scale as they stand then. -/
structure StepW where
  glob   : List (Nat × Byte × Byte) := []
  spad   : List (Nat × Byte × Byte) := []
  /-- Tiles as they stand after the step (R285, R292). -/
  tiles  : List (Nat × Tile) := []
  kreg   : Option (Nat × BitVec 256) := none
  chain  : Option (List (Nat × Word)) := none
  gen    : Word := 0
  /-- The exponent of the BX4 band scale in use (R38). -/
  band   : Int := 0
  /-- Causes the step recorded (R49, R51). -/
  cause  : Nat := 0
  /-- Flags it adds to the thread's FPFLAGS (R53). -/
  flags  : Nat := 0
  /-- The pages it holds pinned (R185). -/
  pages  : List Nat := []
  deriving DecidableEq, Repr

/-- A command in an engine queue (R261, R265): what it captured, the batch it joined, and how far it has come. -/
structure Cmd where
  op      : Instr
  pc      : BitVec 57 := 0
  hints   : Hints
  fpmode  : Word
  slot    : Nat
  blk     : Nat
  descs   : List (BitVec 512) := []
  kmask   : BitVec 256 := 0
  theta   : Word := 0
  gang    : Option Nat := none
  /-- The instance of its gang's latch that it has arrived at, and whether that has been released (R272). -/
  inst    : Option Nat := none
  freed   : Bool := false
  batch   : Nat := 0
  /-- Accesses in flight numbered below this are older than the command (R266). -/
  mark    : Nat := 0
  gen     : Word := 0
  band    : Int := 0
  step    : Nat := 0
  state   : Nat := 0
  tags    : List Nat := []
  /-- The interval in which its outbound write was first held at its port (R325). -/
  port    : Option Nat := none
  busy    : Option StepW := none
  /-- The latest wts of its global writes (R159). -/
  time    : Option (BitVec 24) := none
  trapped : Bool := false
  discard : Bool := false
  deriving DecidableEq, Repr

/-- A request to the L1: a 128-byte line and the set of its 32-byte sectors (R132). -/
structure L1Req where
  line : Nat
  secs : BitVec 4
  deriving DecidableEq, Repr

/-- What a context bank holds of one core (R115, R320). -/
structure CtxCore where
  threads : Tab Nat Thread := []
  blocks  : Tab Nat Block := []
  bundles : Tab Nat Bundle := []
  stt     : Tab (Nat × Nat) SttE := []
  xfers   : List Xfer := []
  /-- Pages with a fault not yet served, in arrival order (R183). -/
  want    : List (Nat × Nat) := []
  tiles   : Tab Nat Tile := []
  matrix  : List Cmd := []
  copy    : List Cmd := []
  chain   : List Cmd := []
  scout   : List Cmd := []
  /-- The transfer whose backing address was refused, which the Fixer's stop record names (R186, R314). -/
  failed  : Option Xfer := none
  /-- In a checkpoint image: the core's frame bytes at the cut (R324). -/
  img     : List Host.Cell := []
  /-- The clock of its latest formation cycle (R126). -/
  formed  : Option Nat := none
  /-- The requests to the L1 of the latest word of a bundle that made any (R132). -/
  reqs    : List L1Req := []
  /-- The number of that word (R132). -/
  reqN    : Nat := 0
  deriving DecidableEq, Repr

/-- How far an access in flight has come. -/
inductive Phase where
  /-- Issued; a store or REL stands in the core's write-combining buffer (R231). -/
  | issued
  /-- In the operand log, waiting for the fault record of this tag (R206). -/
  | logged (tag : Nat)
  /-- In the operand log, its record answered with RETRY (R207). -/
  | replay
  /-- A store applied at its point of application, its wts, waiting for the package point (R226, R338). -/
  | applied (wts : BitVec 24)
  /-- A store held at its port for a forced boundary (R325). -/
  | held
  /-- A store whose die has asked for the ownership of its line (R336). -/
  | own
  /-- A scratchpad access waiting for its page (R182). -/
  | page
  deriving DecidableEq, Repr

/-- An access in flight of a compute thread (R16, R206, R207, R222): everything its completion needs. -/
structure InFlight where
  op     : Instr
  pc     : BitVec 57
  core   : Nat
  slot   : Nat
  ea     : Dword
  size   : Nat
  data   : List Byte := []
  hints  : Hints := {}
  lease  : Nat := 10
  time   : BitVec 24 := 0
  bind   : BitVec 192 := 0
  /-- The bytes a load returned from the L1 at its tag check (R230). -/
  got    : Option (List Byte) := none
  /-- FPMODE as captured at issue (R55, R207). -/
  fpmode : Word := 0
  /-- Physical address and class, once translated. -/
  pa     : Option (Nat × BitVec 2) := none
  /-- AC of its leaf (R215). -/
  ac     : Bool := false
  /-- The first word of a 16-byte access has been performed (R219). -/
  half   : Bool := false
  /-- The package it is sent to over Herbor (R340). -/
  via    : Option Nat := none
  /-- The word of its bundle whose L1 requests it is part of: with its line, the request that serves it (R132). -/
  req    : Option Nat := none
  epoch  : Nat := 0
  phase  : Phase := .issued
  deriving DecidableEq, Repr

/-- A message on its way to a ring, and its status once appended (R161, R162). -/
structure RMsg where
  core   : Nat
  slot   : Nat
  gd     : Nat
  launch : Nat
  dst    : Dword
  words  : List Word
  status : Option Nat := none
  time   : Option (BitVec 24) := none
  /-- The package a message came from over Herbor (R342). -/
  src    : Option Nat := none
  deriving DecidableEq, Repr

/-! ## Contexts and partitions (R310 to R325) -/

/-- The state of a context bank (R321). -/
inductive BankState where
  | free | fill | ready | active | spill | snap
  deriving DecidableEq, Repr

/-- The named trap of a halt (R312, R315). -/
structure TrapRec where
  cause : Nat
  tval  : Dword
  pc    : BitVec 57
  unit  : Nat
  core  : Nat
  slot  : Nat
  clk   : Nat
  deriving DecidableEq, Repr

/-- A halt of a partition: the clock the line was asserted, the named trap, the traps recorded, whether every unit has
stopped (R311, R312). -/
structure Halt where
  start   : Nat
  trap    : TrapRec
  ntrap   : Nat := 1
  stopped : Bool := false
  /-- The WRTS of thread program counters and armed bits, which take effect at RESUME (R318): core, slot. -/
  wrotePc : List (Nat × Nat) := []
  /-- Threads that have raised a trap of it: they issue no further word (R27, R311): core, slot. -/
  hit     : List (Nat × Nat) := []
  deriving DecidableEq, Repr

/-- A negative-log record (R325): 64-byte line, its bytes before, the interval. -/
structure NegRec where
  line : Nat
  old  : List Byte
  intv : Nat
  deriving DecidableEq, Repr

/-- Checkpointing of a context (R323 to R325). -/
structure Ckpt where
  on       : Bool := false
  us       : Nat := 0
  areaA    : Nat := 0
  areaB    : Nat := 0
  /-- The area of the last committed checkpoint: false A, true B. -/
  last     : Option Bool := none
  start    : Nat := 0
  intv     : Nat := 0
  /-- The number of the interval that began at the last committed cut. -/
  done     : Nat := 0
  due      : Bool := false
  /-- A rollback has been ordered and waits for the frames of an outgoing context (R327). -/
  roll     : Bool := false
  log      : List NegRec := []
  deriving DecidableEq, Repr

/-- A context bank of a partition (R320), or a context's image at rest. -/
structure Ctx where
  st       : BankState := .free
  root     : Root := {}
  td       : Tab Nat (BitVec 512) := []
  bind     : Tab Nat (BitVec 192) := []
  /-- The group table as the last launch loaded it (R117, R314). -/
  grp      : Tab Nat (BitVec 128) := []
  ev       : Tab Nat Word := []
  /-- The latest time of the thread decrements of a counter (R159). -/
  evT      : Tab Nat (BitVec 24) := []
  /-- The latest time of the global writes of engine commands that decremented a counter, by counter, core and block slot of
  the command's block (R159). -/
  evE      : Tab (Nat × Nat × Nat) (BitVec 24) := []
  queues   : Tab Nat HwQueue := []
  bins     : Tab Nat Bin := []
  launches : Tab Nat Launch := []
  cores    : Tab Nat CtxCore := []
  infl     : Tab Nat InFlight := []
  msgs     : Tab Nat RMsg := []
  nextId   : Nat := 0
  halt     : Option Halt := none
  hseq     : Word := 0
  /-- The pieces of the stop-record area last written for it: offset and bytes (R314, R316). -/
  area     : List (Nat × List Byte) := []
  /-- The area the bank is being loaded from, or was (R321). -/
  home     : Nat := 0
  ckpt     : Ckpt := {}
  /-- The queue that had the last turn at a priority (R166). -/
  turn     : Tab Nat Nat := []
  deriving DecidableEq, Repr

/-- A partition (R1, R170, R178, R317, R322). -/
structure Part where
  cfg    : Option PartCfg := none
  active : Option Nat := none
  ptr    : Nat := 0
  /-- The clock of the last placement: one block per clock (R170). -/
  placed : Option Nat := none
  /-- A SWAP waiting for the shadow bank, and whether it abandons a snapshot (R321, R325). -/
  swap   : Option Bool := none
  deriving DecidableEq, Repr

/-! ## Cores, caches, coherence (R191, R192, R229 to R233, R334 to R339) -/

/-- A 32-byte sector in an L1: its bytes, its lease end, the virtual line it was filled through (R191, R224, R229). -/
structure Sector where
  data : List Byte
  fin  : BitVec 24
  vl   : Nat := 0
  deriving DecidableEq, Repr

/-- A line that PREF has requested and whose fill proceeds alone: addresses, class, lease length, whether it enters the L1, and
how many of its four sectors are still to be filled (R251). -/
structure Pref where
  va    : Dword
  pa    : Nat
  cc    : BitVec 2
  lease : Nat
  l1    : Bool
  left  : Nat
  deriving DecidableEq, Repr

/-- A physical core, compute or control: logical time with its recent history, L1 sectors by pa / 32, scratchpad frame
bytes by frame * 2048 + offset, the Fixer's clock hand (R184, R191, R229, R232). -/
structure CorePhys where
  lt     : BitVec 24 := 0
  past   : List (Nat × BitVec 24) := []
  ticked : Nat := 0
  /-- The latest wts acknowledged to the core for an engine write (R166). -/
  engT   : BitVec 24 := 0
  l1     : Tab Nat Sector := []
  prefs  : List Pref := []
  frames : List Host.Cell := []
  hand   : Nat := 0
  deriving DecidableEq, Repr

/-- A line in L2 at home: timestamps and directory (R229, R335). -/
structure L2Line where
  wts     : BitVec 24 := 0
  rts     : BitVec 24 := 0
  busy    : Bool := false
  owner   : Option Nat := none
  ox      : Bool := false
  sharers : BitVec 4 := 0
  /-- The die whose request the running transaction serves and whether it wants ownership (R336). -/
  txn     : Option (Nat × Bool) := none
  /-- Snoop answers still to come. -/
  wait    : Nat := 0
  /-- The owner whose data the running transaction passes to its requester (R336). -/
  fwd     : Option Nat := none
  /-- The running transaction is an Upgrade of a holder, and is granted without data (R336). -/
  grant   : Bool := false
  deriving DecidableEq, Repr

/-- The state of a replica (R334). -/
inductive Moes where
  | m | o | e | s
  deriving DecidableEq, Repr

/-- A replica of a line on another die (R334, R338). -/
structure Replica where
  st   : Moes
  data : List Byte
  wts  : BitVec 24
  rts  : BitVec 24
  deriving DecidableEq, Repr

/-- The kinds of message between a requesting die and a home (R336, R338). -/
inductive MKind where
  | readS | readOwn | upgrade | evictC | writeBack | fwdS | fwdOwn | inv | grantM | data
  deriving DecidableEq, Repr

/-- A coherence message on its way: kind, line, the die that is not the home, and what it carries. -/
structure CMsg where
  kind  : MKind
  line  : Nat
  r     : Nat
  bytes : List Byte := []
  wts   : BitVec 24 := 0
  rts   : BitVec 24 := 0
  /-- The state a data message gives the replica. -/
  st    : Moes := .s
  /-- A request through a leaf with AC = 1: the partition whose notice a fill may make (R215). -/
  ac    : Option Nat := none
  /-- The die that sends it, where it is neither `r` nor the home: the owner that forwards data (R336). -/
  src   : Option Nat := none
  deriving DecidableEq, Repr

/-- Caches, directory, replicas and messages of the package (R333 to R339). -/
structure Coh where
  l2    : Tab Nat L2Line := []
  mts   : Tab Nat (BitVec 24) := []
  reps  : Tab (Nat × Nat) Replica := []
  msgs  : List CMsg := []
  /-- Links taken down, with the die their traffic detours through (R333). -/
  down  : List (Nat × Nat × Nat) := []
  /-- Flits replayed in a row per link (R333). -/
  replays : Tab (Nat × Nat) Nat := []
  deriving DecidableEq, Repr

/-! ## Translation and faults (R195 to R216) -/

/-- The TLBs (R203): a core's, by the physical core's number, a cluster's, and a die's. -/
inductive TlbUnit where
  | core (n : Nat)
  | cluster (n : Nat)
  | die (n : Nat)
  deriving DecidableEq, Repr

/-- A TLB entry (R203): the TLB that holds it, SID, page base and size, the leaf. -/
structure TlbE where
  own  : TlbUnit
  sid  : BitVec 16
  base : Nat
  size : Nat
  leaf : BitVec 64
  deriving DecidableEq, Repr

/-- A fault record (R211): `written` once it stands in the partition's ring, until it is answered. -/
structure FRec where
  tag     : Nat
  p       : Nat
  sid     : BitVec 16
  kind    : Nat
  acc     : Nat
  waiters : Nat
  level   : Nat
  addr    : Dword
  die     : Nat
  core    : Nat
  /-- The size of the page it names (R211). -/
  size    : Nat := 4096
  written : Bool := false
  notice  : Bool := false
  counts  : BitVec 64 := 0
  deriving DecidableEq, Repr

/-- The access counts of a 64 KiB region, per die, and whether its notice has been written (R215). -/
structure ACount where
  n    : Tab Nat Nat := []
  stop : Bool := false
  deriving DecidableEq, Repr

/-- TLBs, fault records and access counters of the package. -/
structure Trans where
  tlb     : List TlbE := []
  recs    : List FRec := []
  nextTag : Nat := 0
  counts  : Tab Nat ACount := []
  /-- The threshold of the counters as the kernel has set it; none before (R215). -/
  limit   : Option Nat := none
  /-- An answered record whose RETRY or ERROR waits for the context to run again (R213): tag, address, error. -/
  late    : List (Nat × Dword × Bool) := []
  deriving DecidableEq, Repr

/-- The registers of a die's configuration window that no other structure holds (R352); SHOOTSTAT with the running
command (R353). -/
structure Window where
  shoot  : Option (BitVec 64 × BitVec 32) := none
  shErr  : Bool := false
  npg    : BitVec 32 := 0
  fqbase : Tab Nat (BitVec 64) := []
  fqsize : Tab Nat (BitVec 64) := []
  fqhead : Tab Nat (BitVec 64) := []
  fqtail : Tab Nat (BitVec 64) := []
  srarea : Tab Nat (BitVec 64) := []
  iroute : Tab Nat (BitVec 64) := []
  telem  : BitVec 64 := 0
  deriving DecidableEq, Repr

/-! ## Boot, power, host (R344 to R351, R354 to R357) -/

/-- Where the boot stands (R348): no power; stage 0, 1 or 2 to come; cores started; kernel loaded; RUN; no bootable image;
stopped by a fatal error. -/
inductive Stage where
  | off | rom | firmware | cores | started | kernel | run | reduced | stopped
  deriving DecidableEq, Repr

/-- Flash, fuses, measurement and reduced service (R2, R348 to R351). -/
structure Boot where
  stage   : Stage := .rom
  slotA   : Option Image := none
  slotB   : Option Image := none
  digest0 : BitVec 256 := 0
  digest1 : BitVec 256 := 0
  version : Nat := 0
  secret  : BitVec 256 := 0
  booted  : Option Bool := none
  measure : BitVec 256 := 0
  log     : List (BitVec 256) := []
  /-- BOOTSTAT [1:0] (R352). -/
  stat    : BitVec 2 := 0
  /-- The dump of a fatal stop, by the number of the stop, kept until it is cleared (R330, R348). -/
  dumped  : Option Nat := none
  /-- The parts of the dump region that the host has read since then: offset and length (R348). -/
  taken   : List (Nat × Nat) := []
  /-- What the mailbox last answered. -/
  reply   : List Byte := []
  deriving DecidableEq, Repr

/-- The power arbiter (R354 to R357), in watts; temperatures in 1/16 degree Celsius. -/
structure Power where
  outside : Nat := 0
  demand  : Tab Nat Nat := []
  grant   : Tab Nat Nat := []
  temp    : Tab Nat Nat := []
  halved  : Bool := false
  thrclk  : Tab Nat Nat := []
  epochs  : Nat := 0
  /-- The clock at which the latest epoch ended (R354). -/
  last    : Nat := 0
  clamped : List Nat := []
  /-- Writes of the telemetry page still to be made, in their order: address and bytes (R356). -/
  telemW  : List (Nat × List Byte) := []
  deriving DecidableEq, Repr

/-- The host side of the CXL port (R344 to R347): HDMBASE, lines the host holds, lines under back-invalidation, what an
access returned to the host or a peer, held requests. -/
structure HostSide where
  hdmbase : Nat := 0
  held    : List Nat := []
  inval   : List Nat := []
  ret     : List Byte := []
  /-- Inbound requests held: on a fault record, by its tag (R210); until the host gives up a line, by 65,536 more than the line
  (R346). -/
  waits   : List (Nat × Instr) := []
  /-- MSI-X vectors raised to the host, oldest first (R344). -/
  msix    : List Nat := []
  deriving DecidableEq, Repr

/-! ## The part -/

/-- The state of the part. -/
structure State where
  /-- The thread that issues next when the agenda is empty (log 1). -/
  cur    : Tid := .ctl 0
  /-- What happens next, in order (log 1). -/
  agenda : List Act := []
  /-- Arithmetic clocks since power-on (log 3). -/
  clock  : Nat := 0
  /-- How many free values have been taken (log 4). -/
  fresh  : Nat := 0
  mem    : List Host.Cell := []
  /-- Bytes of the Herbor window that this package or another has written, as memory of their packages (R340, log 14). -/
  far    : Tab Nat Byte := []
  ctl    : Tab Nat Ctl := []
  parts  : Tab Nat Part := []
  ctxs   : Tab Nat Ctx := []
  cores  : Tab Nat CorePhys := []
  coh    : Coh := {}
  tr     : Trans := {}
  win    : Tab Nat Window := []
  boot   : Boot := {}
  power  : Power := {}
  hst    : HostSide := {}
  /-- Physical cores that the self-test has excluded (R329). -/
  fenced : List Nat := []
  /-- Context images by the address of the area that holds them (R314, R322, R324). -/
  images : Tab Nat Ctx := []
  deriving DecidableEq, Repr

/-- A control core at reset (R9, R348): zero state, monitor level, its die's entry address. -/
def Ctl.reset (n : Nat) : Ctl :=
  { t := { pc := BitVec.ofNat 57 (n / 5 * 0x003000000000 + 0x00100000) } }

/-- The part right after reset: the boot is about to begin, no core has been started (R348). -/
def State.reset : State := {}

end Sys2Proof.Machine
end

