-- ==== Sys2Proof/Machine/Ops.lean ====
section
/-! DEFINITION. Sys2Proof/Machine/Ops.lean: named operations on registers and state, the order of checks of a word
(R70), taking a trap (R27, R310, R312) and returning from one (R29). -/

namespace Sys2Proof.Machine

/-- The outcome of a step of this part. -/
abbrev Out := Host.Outcome State Fault Refusal

/-! ## Tables of the state -/

/-- Control core `n`. -/
def State.ctlAt (s : State) (n : Nat) : Ctl := tget (Ctl.reset n) s.ctl n

/-- The state with control core `n` at `c`. -/
def State.setCtl (s : State) (n : Nat) (c : Ctl) : State := { s with ctl := tput n c s.ctl }

/-- Context bank `x` (2 * partition + bank). -/
def State.ctxAt (s : State) (x : Nat) : Ctx := tget {} s.ctxs x

/-- The state with context bank `x` at `c`. -/
def State.setCtx (s : State) (x : Nat) (c : Ctx) : State := { s with ctxs := tput x c s.ctxs }

/-- Partition `p`. -/
def State.partAt (s : State) (p : Nat) : Part := tget {} s.parts p

/-- The state with partition `p` at `q`. -/
def State.setPart (s : State) (p : Nat) (q : Part) : State := { s with parts := tput p q s.parts }

/-- Core `c` of a context bank. -/
def Ctx.coreAt (x : Ctx) (c : Nat) : CtxCore := tget {} x.cores c

/-- The context bank with core `c` at `k`. -/
def Ctx.setCore (x : Ctx) (c : Nat) (k : CtxCore) : Ctx := { x with cores := tput c k x.cores }

/-- Thread slot `i` of a core of a bank. -/
def CtxCore.thrAt (k : CtxCore) (i : Nat) : Thread := tget {} k.threads i

/-- The core with thread slot `i` at `th`. -/
def CtxCore.setThr (k : CtxCore) (i : Nat) (th : Thread) : CtxCore := { k with threads := tput i th k.threads }

/-- Block slot `b` of a core of a bank. -/
def CtxCore.blkAt (k : CtxCore) (b : Nat) : Block := tget {} k.blocks b

/-- The core with block slot `b` at `v`. -/
def CtxCore.setBlk (k : CtxCore) (b : Nat) (v : Block) : CtxCore := { k with blocks := tput b v k.blocks }

/-- The state with `f` applied to context bank `x`. -/
def State.modCtx (s : State) (x : Nat) (f : Ctx → Ctx) : State := s.setCtx x (f (s.ctxAt x))

/-- The state with `f` applied to core `c` of context bank `x`. -/
def State.modCore (s : State) (x c : Nat) (f : CtxCore → CtxCore) : State :=
  s.modCtx x fun k => k.setCore c (f (k.coreAt c))

/-- The state with `f` applied to block slot `b` of core `c` of bank `x`. -/
def State.modBlk (s : State) (x c b : Nat) (f : Block → Block) : State :=
  s.modCore x c fun k => k.setBlk b (f (k.blkAt b))

/-- The state with `f` applied to partition `p`. -/
def State.modPart (s : State) (p : Nat) (f : Part → Part) : State := s.setPart p (f (s.partAt p))

/-- The state with `f` applied to control core `n`. -/
def State.modCtl (s : State) (n : Nat) (f : Ctl → Ctl) : State := s.setCtl n (f (s.ctlAt n))

/-- A thread. -/
def State.thr (s : State) : Tid → Thread
  | .ctl n => (s.ctlAt n).t
  | .cmp x c i => ((s.ctxAt x).coreAt c).thrAt i

/-- The state with thread `t` at `th`. -/
def State.setThr (s : State) (t : Tid) (th : Thread) : State :=
  match t with
  | .ctl n => s.setCtl n { s.ctlAt n with t := th }
  | .cmp x c i => s.modCore x c fun k => k.setThr i th

/-- The state with `f` applied to thread `t`. -/
def State.modThr (s : State) (t : Tid) (f : Thread → Thread) : State := s.setThr t (f (s.thr t))

/-- The thread that executes. -/
def State.me (s : State) : Thread := s.thr s.cur

/-- The state with the executing thread at `th`. -/
def State.setMe (s : State) (th : Thread) : State := s.setThr s.cur th

/-- The state with `f` applied to the executing thread. -/
def State.modMe (s : State) (f : Thread → Thread) : State := s.setMe (f s.me)

/-- A fresh value the manual does not state (log 4), and the state after taking it. -/
def State.takeFree (s : State) : BitVec 64 × State := (Config.free64 s.fresh, { s with fresh := s.fresh + 1 })

/-- `n` bytes the manual does not state. -/
def State.freeList (s : State) : Nat → State × List Byte
  | 0 => (s, [])
  | n + 1 =>
    let (v, s) := s.takeFree
    let (s, r) := s.freeList n
    (s, v.extractLsb' 0 8 :: r)

/-- An event of a unit that has module power; without it no unit acts (R2). -/
def State.powered (s : State) (r : Out) : Out := if s.boot.stage = .off then .next s else r

/-! ## Registers of a thread (R7 to R12) -/

/-- g-register `n`. -/
def Thread.gr (th : Thread) (n : Nat) : Word := tget 0 th.g n

/-- The thread with g-register `n` at `v`. -/
def Thread.setG (th : Thread) (n : Nat) (v : Word) : Thread := { th with g := tput n v th.g }

/-- The 64-bit pair of g-registers `n` (low) and `n + 1` (R7). -/
def Thread.pair (th : Thread) (n : Nat) : Dword := th.gr (n + 1) ++ th.gr n

/-- The thread with the pair at `n` at `v`; both words are written together (R10). -/
def Thread.setPair (th : Thread) (n : Nat) (v : Dword) : Thread :=
  (th.setG n (v.extractLsb' 0 32)).setG (n + 1) (v.extractLsb' 32 32)

/-- The thread with g-registers `n`, `n + 1`, ... at the words `ws`. -/
def Thread.setGs (th : Thread) (n : Nat) : List Word → Thread
  | [] => th
  | w :: ws => (th.setG n w).setGs (n + 1) ws

/-- Predicate `n`; 7 is pt, which reads as true (R7, R10). -/
def Thread.pr (th : Thread) (n : Nat) : Bool := if n = 7 then true else tget false th.p n

/-- The thread with predicate `n` at `v`; a write of pt is discarded (R10). -/
def Thread.setP (th : Thread) (n : Nat) (v : Bool) : Thread :=
  if n = 7 then th else { th with p := tput n v th.p }

/-- Address register `n`. -/
def Thread.ar (th : Thread) (n : Nat) : Dword := tget 0 th.a n

/-- The thread with address register `n` at `v`. -/
def Thread.setA (th : Thread) (n : Nat) (v : Dword) : Thread := { th with a := tput n v th.a }

/-- Modulo register `n`. -/
def Thread.mr (th : Thread) (n : Nat) : Dword := tget 0 th.m n

/-- The thread with modulo register `n` at `v`. -/
def Thread.setM (th : Thread) (n : Nat) (v : Dword) : Thread := { th with m := tput n v th.m }

/-- Tile-mask register `n`. -/
def Thread.kr (th : Thread) (n : Nat) : BitVec 256 := tget 0 th.k n

/-- The thread with tile-mask register `n` at `v`. -/
def Thread.setK (th : Thread) (n : Nat) (v : BitVec 256) : Thread := { th with k := tput n v th.k }

/-- The thread at program counter `pc`, bits [1:0] zero (R7), with an empty pending-hint register (R19) and no word that
has issued and waits. -/
def Thread.goTo (th : Thread) (pc : BitVec 57) : Thread :=
  { th with pc := pc &&& ~~~(3 : BitVec 57), hints := {}, iss := none, entry := none, met := false, acq := none }

/-- The thread past its word: the next word's address, hints consumed (R19). -/
def Thread.past (th : Thread) : Thread := th.goTo (th.pc + 4)

/-- Registers `l` marked as pending under the scoreboard (R16). -/
def Thread.hang (th : Thread) (l : List PReg) : Thread := { th with pend := l ++ th.pend }

/-- Registers `l` no longer pending. -/
def Thread.unhang (th : Thread) (l : List PReg) : Thread := { th with pend := th.pend.filter (· ∉ l) }

/-! ## Hints (R19, R60 to R62) -/

/-- The HM payload, zero when none is pending. -/
def Hints.hmv (h : Hints) : BitVec 23 := h.hm.getD 0

/-- The HE payload, zero when none is pending. -/
def Hints.hev (h : Hints) : BitVec 23 := h.he.getD 0

/-- HM NEG. -/
def Hints.neg (h : Hints) : Bool := h.hmv.getLsbD 22

/-- HM SAT. -/
def Hints.sat (h : Hints) : Bool := h.hmv.getLsbD 21

/-- HM RND, 0 for none. -/
def Hints.rnd (h : Hints) : Nat := (h.hmv.extractLsb' 18 3).toNat

/-- HM CACHE. -/
def Hints.cache (h : Hints) : Nat := (h.hmv.extractLsb' 16 2).toNat

/-- HE GANG. -/
def Hints.gang (h : Hints) : Bool := h.hev.getLsbD 22

/-- HE KREG. -/
def Hints.kreg (h : Hints) : Nat := (h.hev.extractLsb' 19 3).toNat

/-- HE KMODE. -/
def Hints.kmode (h : Hints) : Bool := h.hev.getLsbD 18

/-- HE EVEN with EVNUM: the counter an engine command decrements. -/
def Hints.event (h : Hints) : Option Nat :=
  if h.hev.getLsbD 17 then some (h.hev.extractLsb' 11 6).toNat else none

/-- HE TN3. -/
def Hints.tn3 (h : Hints) : Nat := (h.hev.extractLsb' 3 8).toNat

/-- An immediate or offset field, signed, extended by a pending HX to EXT:field (R62). -/
def Hints.imm (h : Hints) {n : Nat} (f : BitVec n) : Int :=
  match h.hx with
  | none => f.toInt
  | some e => (e ++ f).toInt

/-- Which hints a word takes (R61). -/
structure HintUse where
  hx    : Bool := false
  sat   : Bool := false
  rnd   : Bool := false
  /-- RND 5 (SR), where the destination format allows it (R45). -/
  rnd5  : Bool := false
  cache : Bool := false
  gang  : Bool := false
  even  : Bool := false
  /-- TN3 is taken, and then HE is required. -/
  tn3   : Bool := false
  /-- KREG and KMODE: 0 not taken, 1 required with either mode, 2 optional with mode 0. -/
  kreg  : Nat := 0

/-- Every pending hint applies to the word, and the required ones are present (R61). `always`: the guard field is 7. RND 6
and 7, which a trap set's hint payload may hold, apply to no word; the must-be-zero bits of an HM or HS that it may hold do nothing (log
86). -/
def HintUse.ok (u : HintUse) (always : Bool) (h : Hints) : Bool :=
  (h.hx.isNone || u.hx) &&
  (!h.neg || !always) && (!h.sat || u.sat) &&
  (h.rnd == 0 || (if h.rnd == 5 then u.rnd5 else u.rnd && decide (h.rnd < 5))) &&
  (h.cache == 0 || u.cache) &&
  (match h.he with
   | none => !u.tn3 && u.kreg != 1
   | some v => (u.gang || u.even || u.tn3 || u.kreg != 0) &&
      (!h.gang || u.gang) && (h.kreg == 0 || u.kreg != 0) && (!h.kmode || u.kreg == 1) &&
      (!v.getLsbD 17 || u.even) && (h.tn3 == 0 || u.tn3))

/-! ## Traps of control cores (R22 to R29) -/

/-- The level a thread runs at; compute threads always at user level (R14). -/
def State.level (s : State) : Tid → Level
  | .ctl n => (s.ctlAt n).pl
  | .cmp _ _ _ => .user

/-- The two-bit code of a level (R14). -/
def Level.num : Level → Nat
  | .user => 0
  | .kernel => 1
  | .monitor => 3

/-- The trap set entered by taking a trap (R27): the pc saved, cause and value, hints saved, status. -/
def TrapSet.enter (k : TrapSet) (pc : BitVec 57) (irq : Bool) (cause : Nat) (tval : BitVec 64) (h : Hints) (pl : Level) :
    TrapSet :=
  let sv := fun (o : Option (BitVec 23)) => ({ v := o.isSome, payload := o.getD 0 } : SavedHint)
  { k with epc := pc, irq := irq, code := BitVec.ofNat 8 cause, val := tval,
           hx := sv h.hx, hm := sv h.hm, he := sv h.he, hs := sv h.hs,
           ppl := pl, pie := k.ie, ie := false, intrap := true }

/-- Enters kernel level (R27). -/
def Ctl.toKernel (c : Ctl) (irq : Bool) (cause : Nat) (tval : BitVec 64) : Ctl :=
  { c with kset := c.kset.enter c.t.pc irq cause tval c.t.hints c.pl, pl := .kernel,
           t := c.t.goTo c.kset.tvec }

/-- Enters monitor level, or stops the core when MSTAT.INTRAP is 1 at monitor level (R27). -/
def Ctl.toMonitor (c : Ctl) (cause : Nat) (tval : BitVec 64) : Ctl :=
  if c.pl = .monitor ∧ c.mset.intrap = true then { c with stopped := true }
  else { c with mset := c.mset.enter c.t.pc false cause tval c.t.hints c.pl, pl := .monitor,
                t := c.t.goTo c.mset.tvec }

/-- A synchronous trap of a control core: the entry level of R27. `up`: TRAP at kernel level, or cause 0x11. -/
def Ctl.trap (c : Ctl) (cause : Nat) (tval : BitVec 64) (up : Bool) : Ctl :=
  if up then c.toMonitor cause tval
  else match c.pl with
    | .user => c.toKernel false cause tval
    | .kernel =>
      if c.kset.intrap then
        c.toMonitor 0x10 ((if c.kset.irq then 0x80000000 else 0) ||| c.kset.code.zeroExtend 64)
      else c.toKernel false cause tval
    | .monitor => c.toMonitor cause tval

/-- Returns from the trap set of the current level (R29). -/
def Ctl.rte (c : Ctl) : Ctl :=
  let back := fun (k : TrapSet) =>
    let sl := fun (h : SavedHint) => if h.v then some h.payload else none
    ({ hx := sl k.hx, hm := sl k.hm, he := sl k.he, hs := sl k.hs } : Hints)
  match c.pl with
  | .monitor => { c with t := { c.t.goTo c.mset.epc with hints := back c.mset }, pl := c.mset.ppl,
                         mset := { c.mset with ie := c.mset.pie, intrap := false } }
  | _ => { c with t := { c.t.goTo c.kset.epc with hints := back c.kset }, pl := c.kset.ppl,
                  kset := { c.kset with ie := c.kset.pie, intrap := false } }

/-- A pending interrupt source of the control core would be taken if IE were 1: every source is taken at kernel
level, so at user or kernel level (R28, R331). -/
def Ctl.awake (c : Ctl) : Bool := !c.irqs.isEmpty && c.pl != .monitor

/-- The control core stands between two words: none has issued and waits; the wait of an EVWAIT lies before its word (R28, R142). -/
def Ctl.between (c : Ctl) : Bool :=
  match c.t.iss with
  | none | some (.evwait _ _) => true
  | _ => false

/-- An interrupt is taken before the next word: between two words, pending-hint register empty, PSTAT.IE 1, at user or
kernel level (R28). The lowest pending source is taken. A sleeping thread wakes only by its count, and no word begins before
(R149). -/
def Ctl.takes (c : Ctl) : Option Nat :=
  if c.awake && c.kset.ie && c.t.hints == {} && c.sleep.isNone && c.between then c.irqs.min? else none

/-- Takes the interrupt of source `src` (R27, R28). -/
def Ctl.interrupt (c : Ctl) (src : Nat) : Ctl :=
  { ({ c with irqs := c.irqs.filter (· ≠ src), wfi := false } : Ctl).toKernel true 0x12
      (BitVec.ofNat 64 src) with wfi := false }

/-- Makes an interrupt source pending on a control core. -/
def Ctl.pendIrq (c : Ctl) (src : Nat) : Ctl := if src ∈ c.irqs then c else { c with irqs := src :: c.irqs }

/-- The configuration window of a die. -/
def State.winAt (s : State) (d : Nat) : Window := tget {} s.win d

/-- The state with `f` applied to the configuration window of die `d`. -/
def State.modWin (s : State) (d : Nat) (f : Window → Window) : State :=
  { s with win := tput d (f (s.winAt d)) s.win }

/-- Raises interrupt source `src` on the control core of die `d` that IROUTE names (R331, R352). -/
def State.raiseIrq (s : State) (d src : Nat) : State :=
  s.modCtl (5 * d + ((tget 0 (s.winAt d).iroute src).extractLsb' 0 2).toNat) fun c => c.pendIrq src

/-! ## Traps of compute threads and engines (R310, R312) -/

/-- The partition and die of a context bank, from its partition's configuration. -/
def State.dieOf (s : State) (x c : Nat) : Nat :=
  match (s.partAt (x / 2)).cfg with
  | some g => (g.first + c) / 128
  | none => 0

/-- The clock of a bank's timers and SLEEP counts, which stand still from the assertion of its halt line on (R311). -/
def State.bankNow (s : State) (x : Nat) : Nat :=
  match (s.ctxAt x).halt with
  | some h => h.start
  | none => s.clock

/-- Records a trap of context bank `x` and asserts its partition's halt line (R310, R312). The named trap is the
earliest, ties to the lower core, slot, unit. A unit that has stopped raises none, but for a step that retires after
the stop (`late`), whose trap is counted and never named. -/
def Ctx.record (k : Ctx) (tr : TrapRec) (late : Bool) : Ctx :=
  let me := if tr.unit = 0 then [(tr.core, tr.slot)] else []
  match k.halt with
  | none => { k with halt := some { start := tr.clk, trap := tr, hit := me }, hseq := k.hseq + 1 }
  | some h =>
    if h.stopped && !late then k
    else
      let first := tr.clk == h.trap.clk && !h.stopped &&
        (tr.core < h.trap.core || (tr.core == h.trap.core && (tr.slot < h.trap.slot ||
          (tr.slot == h.trap.slot && tr.unit < h.trap.unit))))
      { k with halt := some { h with ntrap := min (h.ntrap + 1) 65535, hit := me ++ h.hit, trap := if first then tr else h.trap } }

/-- A trap of unit `unit` of core `c` of bank `x` (R313, R315). -/
def State.unitTrap (s : State) (x c slot unit : Nat) (pc : BitVec 57) (cause : Nat) (tval : BitVec 64)
    (late : Bool := false) : State :=
  s.modCtx x fun k => k.record { cause, tval, pc, unit, core := c, slot, clk := s.clock } late

/-- Control core `n` goes on as `c`; one that has stopped signals the Gecko pair of its die (R27). -/
def State.trapCtl (s : State) (n : Nat) (c : Ctl) : State :=
  let s' := s.setCtl n c
  if c.stopped && !(s.ctlAt n).stopped then s'.modCtl (n / 5 * 5 + 4) fun g => { g with signals := n :: g.signals } else s'

/-- Raises a trap at the word of thread `t` (R27, R310): the word has no effect. -/
def State.trap (s : State) (t : Tid) (cause : Nat) (tval : BitVec 64) (up : Bool := false) : State :=
  match t with
  | .ctl n => s.trapCtl n ((s.ctlAt n).trap cause tval up)
  | .cmp x c i => s.unitTrap x c i 0 (s.thr t).pc cause tval

/-! ## Executing a word: the order of checks (R70) -/

/-- What the body of a word's meaning answers. -/
inductive Res where
  /-- Done: the program counter moves past the word and the hints are consumed. -/
  | next (s : State)
  /-- Done, and the next word is at the given address. -/
  | jump (s : State) (pc : BitVec 57)
  /-- Done; the body has placed program counter and hints itself. -/
  | placed (s : State)
  /-- A trap at the word, which has no effect. -/
  | trap (cause : Nat) (tval : BitVec 64) (up : Bool)
  /-- The word waits: it stays to be executed again, in the state given. -/
  | hold (s : State)
  /-- As hold, for a CPWAIT, OWNV or OWNM (R95). -/
  | wait (s : State) (w : Park)
  | fault (f : Fault)
  | refuse (r : Refusal)

/-- What a word names and takes, for the checks of R70. -/
structure W where
  i     : Instr
  /-- The guard field; 7 is always. -/
  pg    : BitVec 3
  /-- Every g-register it names (R8). -/
  gs    : List Nat := []
  /-- Every other register it reads or writes (R16). -/
  rs    : List PReg := []
  hu    : HintUse := {}
  /-- The level it needs (R13, R14). -/
  need  : Level := .user
  /-- It is an instruction of control cores too; else it is illegal there (R91, R141, R246, R277). -/
  onCtl : Bool := true
  /-- Conditions of R69 that depend on the state. -/
  bad   : Bool := false
  /-- It acts under a false guard too (R133, R135). -/
  acts  : Bool := false
  /-- Its checks wait for a descriptor (R61, R279). -/
  unread : Bool := false

/-- The thread is a control core's. -/
def isCtl : Tid → Bool
  | .ctl _ => true
  | .cmp _ _ _ => false

/-- The illegal-instruction conditions of a word (check 2 of R70). -/
def W.illegal (w : W) (t : Tid) (th : Thread) : Bool :=
  !w.i.wf || (isCtl t && !w.onCtl) || w.gs.any (fun n => decide (th.alloc ≤ n)) ||
  !w.hu.ok (w.pg == 7) th.hints || w.bad

/-- The guard's outcome: the named predicate, inverted by HM NEG (R57, R61). -/
def Thread.guard (th : Thread) (pg : BitVec 3) : Bool := th.pr pg.toNat != th.hints.neg

/-- A register the word names is pending under the scoreboard (R16). -/
def W.waits (w : W) (th : Thread) : Bool :=
  th.pend.any fun r => decide (r ∈ w.gs.map PReg.g ++ w.rs) || (w.pg != 7 && r == .p w.pg.toNat)

/-- What the body's answer makes of the executing thread. -/
def Res.finish (s : State) : Res → Out
  | .next s' => .next (s'.modMe Thread.past)
  | .jump s' pc => .next (s'.modMe (·.goTo pc))
  | .placed s' => .next s'
  | .trap c v up => .next (s.trap s.cur c v up)
  | .hold s' => .next (s'.modMe fun th => { th with par := { th.par with held := some .split } })
  | .wait s' w => .next (s'.modMe fun th => { th with par := { th.par with held := some w } })
  | .fault f => .fault f
  | .refuse r => .refused r

/-- Executes a word: illegal-instruction conditions, privilege, scoreboard, guard, then the body (R70). -/
def runWord (w : W) (s : State) (body : Res) : Out :=
  if w.unread then (Res.hold s).finish s
  else if w.illegal s.cur s.me then (Res.trap 0x00 (((encode w.i).getD 0).zeroExtend 64) false).finish s
  else if (s.level s.cur).num < w.need.num then
    (Res.trap 0x01 (((encode w.i).getD 0).zeroExtend 64) false).finish s
  else if w.waits s.me then (Res.hold s).finish s
  else if s.me.guard w.pg || w.acts then body.finish s
  else (Res.next s).finish s

/-- Executes a word whose effect is on its thread's registers alone. -/
def regWord (w : W) (s : State) (f : Thread → Thread) : Out := runWord w s (.next (s.modMe f))

/-- Executes a hint word (R19, R60): illegal when its slot is valid; else it fills the slot. -/
def hintWord (i : Instr) (s : State) (slot : Hints → Option (BitVec 23)) (put : Hints → Hints) : Out :=
  if !i.wf || (slot s.me.hints).isSome then
    (Res.trap 0x00 (((encode i).getD 0).zeroExtend 64) false).finish s
  else .next (s.modMe fun th => { th with pc := (th.pc + 4) &&& ~~~(3 : BitVec 57), hints := put th.hints })

end Sys2Proof.Machine
end

