-- ==== Sys2Proof/Machine/Csr.lean ====
section
/-! DEFINITION. Sys2Proof/Machine/Csr.lean: the control and status registers: which numbers are assigned, at which level,
what they read, what a write does (R13 to R15, R22 to R24, R52, R53, R68, R142). -/

namespace Sys2Proof.Machine

/-! ## Which CSRs there are -/

/-- The level a CSR number needs (R13). -/
def csrLevel (n : Nat) : Level := if n < 0x100 then .user else if n < 0x180 then .kernel else .monitor

/-- The user CSRs that may be written (R68). -/
def csrUserRw (n : Nat) : Bool := [0x010, 0x011, 0x012, 0x018, 0x019, 0x020, 0x029].contains n

/-- The user CSRs that are read only (R68). -/
def csrUserRo (n : Nat) : Bool :=
  [0x000, 0x001, 0x002, 0x003, 0x004, 0x005, 0x006, 0x008, 0x009, 0x00A, 0x00B, 0x028, 0x030].contains n

/-- The trap CSRs: the kernel set with KCTX, and the monitor set (R22). -/
def csrTrap (n : Nat) : Bool := (decide (0x100 ≤ n) && decide (n ≤ 0x10C)) || (decide (0x180 ≤ n) && decide (n ≤ 0x18B))

/-- The number is assigned (R13, R22, R68). -/
def csrAssigned (n : Nat) : Bool := csrUserRw n || csrUserRo n || csrTrap n

/-! ## The physical core of a thread -/

/-- The core a thread runs on: 0 to 511 the compute cores of the package, 512 + n control agent n. -/
def State.phys (s : State) : Tid → Nat
  | .ctl n => 512 + n
  | .cmp x c _ =>
    match (s.partAt (x / 2)).cfg with
    | some g => g.first + c
    | none => c

/-- A core's caches and time. -/
def State.coreAt (s : State) (i : Nat) : CorePhys := tget {} s.cores i

/-- The state with core `i` at `c`. -/
def State.setCore (s : State) (i : Nat) (c : CorePhys) : State := { s with cores := tput i c s.cores }

/-- The state with `f` applied to core `i`. -/
def State.modPhys (s : State) (i : Nat) (f : CorePhys → CorePhys) : State := s.setCore i (f (s.coreAt i))

/-- The die of a core number as `State.phys` gives it. -/
def dieOfPhys (i : Nat) : Nat := if i < 512 then i / 128 else (i - 512) / 5

/-- The physical core of core `c` of bank `x`. -/
def State.physOf (s : State) (x c : Nat) : Nat :=
  match (s.partAt (x / 2)).cfg with
  | some g => g.first + c
  | none => c

/-- The block a compute thread belongs to. -/
def State.blkOf (s : State) : Tid → Block
  | .ctl _ => {}
  | .cmp x c i => ((s.ctxAt x).coreAt c).blkAt (s.thr (.cmp x c i)).par.blk

/-! ## User CSRs (R15, R68) -/

/-- A user CSR of a thread that is thread state. -/
def Thread.csr (th : Thread) (n : Nat) (cpopen : Word) : Word :=
  match n with
  | 0x010 => th.fpmode
  | 0x011 => th.fpflags
  | 0x012 => th.srseed
  | 0x018 => th.regmode
  | 0x019 => th.hold
  | 0x020 => th.gang
  | 0x029 => th.lease
  | 0x030 => cpopen
  | _ => 0

/-- What a user CSR reads (R15, R68). -/
def State.csrUser (s : State) (t : Tid) (n : Nat) : Word :=
  let die : Word := BitVec.ofNat 32 (dieOfPhys (s.phys t))
  match n with
  | 0x000 => 32
  | 0x00A => die
  | 0x00B => Config.pkg.zeroExtend 32
  | 0x028 => (s.coreAt (s.phys t)).lt.zeroExtend 32
  | _ =>
    match t with
    | .ctl k =>
      match n with
      | 0x001 => 0
      | 0x002 => 1
      | 0x003 => 0
      | 0x004 => 1
      | 0x005 => 1
      | 0x006 => 1
      | 0x008 => if k % 5 < 4 then BitVec.ofNat 32 (0x0100 + k % 5) else Config.geckoCore (k / 5)
      | 0x009 => 0xFFFFFFFF
      | 0x018 => 0
      | 0x019 => 0
      | 0x020 => 0
      | 0x030 => 0
      | _ => (s.thr t).csr n 0
    | .cmp _ _ _ =>
      let b := s.blkOf t
      let th := s.thr t
      match n with
      | 0x001 => BitVec.ofNat 32 th.par.tidx
      | 0x002 => BitVec.ofNat 32 b.nthr
      | 0x003 => b.bidx
      | 0x004 => b.gx
      | 0x005 => b.gy
      | 0x006 => b.gz
      | 0x008 => BitVec.ofNat 32 (s.phys t % 128)
      | 0x009 => BitVec.ofNat 32 (s.phys t % 128 / 4)
      | _ => th.csr n th.cpopen

/-- Bits of a user CSR that a write may set (R52, R53, R68). -/
def csrLegal (n : Nat) (v : Word) : Bool :=
  match n with
  | 0x010 => v &&& ~~~(0x0003FF1F : Word) == 0 && decide ((v.extractLsb' 0 3).toNat ≤ 4)
  | 0x011 => v &&& ~~~(0x7F : Word) == 0
  | 0x012 => true
  | 0x018 => v &&& ~~~(1 : Word) == 0
  | 0x019 => v &&& ~~~(0x7F : Word) == 0
  | 0x020 => v &&& ~~~(0x1FF : Word) == 0
  | 0x029 => v &&& ~~~(0x3FF : Word) == 0 && v != 0
  | _ => false

/-- A thread with a user CSR at `v`: a zero SRSEED stores 0x9E37_79B9 (R46). -/
def Thread.setCsr (th : Thread) (n : Nat) (v : Word) : Thread :=
  match n with
  | 0x010 => { th with fpmode := v }
  | 0x011 => { th with fpflags := v }
  | 0x012 => { th with srseed := if v = 0 then 0x9E3779B9 else v }
  | 0x018 => { th with regmode := v }
  | 0x019 => { th with hold := v }
  | 0x020 => { th with gang := v }
  | 0x029 => { th with lease := v }
  | _ => th

/-! ## The trap sets (R22 to R24) -/

/-- PSTAT or MSTAT (R23). -/
def TrapSet.stat (k : TrapSet) (pl : Level) : Word :=
  BitVec.ofNat 32 (128 * k.intrap.toNat + 64 * k.ie.toNat + 32 * k.pie.toNat + 4 * k.ppl.num + pl.num)

/-- A saved hint slot as THX to THS read it (R24). -/
def SavedHint.word (h : SavedHint) : Word := BitVec.ofNat 32 (2 ^ 31 * h.v.toNat + h.payload.toNat)

/-- A saved hint slot from a written word; bits [30:23] are ignored (R24). -/
def SavedHint.ofWord (v : Word) : SavedHint := { v := v.getLsbD 31, payload := v.extractLsb' 0 23 }

/-- Register `i` of a trap set, counted from STAT (R22). -/
def TrapSet.read (k : TrapSet) (pl : Level) (i : Nat) : Word :=
  match i with
  | 0 => k.stat pl
  | 1 => BitVec.ofNat 32 (2 ^ 31 * k.irq.toNat + k.code.toNat)
  | 2 => k.tvec.extractLsb' 0 32
  | 3 => ((k.tvec.extractLsb' 32 25).signExtend 32)
  | 4 => k.epc.extractLsb' 0 32
  | 5 => ((k.epc.extractLsb' 32 25).signExtend 32)
  | 6 => k.val.extractLsb' 0 32
  | 7 => k.val.extractLsb' 32 32
  | 8 => k.hx.word
  | 9 => k.hm.word
  | 10 => k.he.word
  | _ => k.hs.word

/-- The level of a two-bit code; 0b10 is none (R14). -/
def levelOf (b : BitVec 2) : Option Level :=
  match b.toNat with
  | 0 => some .user
  | 1 => some .kernel
  | 3 => some .monitor
  | _ => none

/-- A 57-bit code address with its low word at `v`, bits [1:0] zero (R24). -/
def lowWord (a : BitVec 57) (v : Word) : BitVec 57 := (a.extractLsb' 32 25 ++ v) &&& ~~~(3 : BitVec 57)

/-- A 57-bit code address with its high word's bits [24:0] from `v` (R24). -/
def highWord (a : BitVec 57) (v : Word) : BitVec 57 := v.extractLsb' 0 25 ++ a.extractLsb' 0 32

/-- A trap set with register `i` at `v`, or none where the write is refused (R23, R24). -/
def TrapSet.write (k : TrapSet) (i : Nat) (v : Word) : Option TrapSet :=
  match i with
  | 0 =>
    if v &&& 0xFFFFFF10 != 0 then none
    else (levelOf (v.extractLsb' 2 2)).map fun l =>
      { k with intrap := v.getLsbD 7, ie := v.getLsbD 6, pie := v.getLsbD 5, ppl := l }
  | 1 => some { k with irq := v.getLsbD 31, code := v.extractLsb' 0 8 }
  | 2 => some { k with tvec := lowWord k.tvec v }
  | 3 => some { k with tvec := highWord k.tvec v }
  | 4 => some { k with epc := lowWord k.epc v }
  | 5 => some { k with epc := highWord k.epc v }
  | 6 => some { k with val := k.val.extractLsb' 32 32 ++ v }
  | 7 => some { k with val := v ++ k.val.extractLsb' 0 32 }
  | 8 => some { k with hx := .ofWord v }
  | 9 => some { k with hm := .ofWord v }
  | 10 => some { k with he := .ofWord v }
  | _ => some { k with hs := .ofWord v }

/-- A privileged CSR of a control core. -/
def Ctl.csr (c : Ctl) (n : Nat) : Word :=
  if n = 0x10C then BitVec.ofNat 32 (16 * c.kctxV.toNat + 2 * c.kctxP.toNat + c.kctxB.toNat)
  else if n < 0x180 then c.kset.read c.pl (n - 0x100)
  else c.mset.read c.pl (n - 0x180)

/-- A control core with a privileged CSR at `v`, or none where the write is refused (R23, R24, R142). -/
def Ctl.setCsr (c : Ctl) (n : Nat) (v : Word) : Option Ctl :=
  if n = 0x10C then
    if v &&& ~~~(0x1F : Word) != 0 then none
    else some { c with kctxV := v.getLsbD 4, kctxP := v.extractLsb' 1 3, kctxB := v.extractLsb' 0 1 }
  else if n < 0x180 then (c.kset.write (n - 0x100) v).map fun k => { c with kset := k }
  else (c.mset.write (n - 0x180) v).map fun k => { c with mset := k }

/-! ## Reading and writing -/

/-- What a CSR reads in a thread. -/
def State.csr (s : State) (t : Tid) (n : Nat) : Word :=
  if n < 0x100 then s.csrUser t n
  else
    match t with
    | .ctl k => (s.ctlAt k).csr n
    | .cmp _ _ _ => 0

/-- Writes a CSR of a thread; none where a value check refuses it (R86). On a control core REGMODE, HOLD and GANG
ignore writes (R15). -/
def State.csrWrite (s : State) (t : Tid) (n : Nat) (v : Word) : Option State :=
  if n < 0x100 then
    if isCtl t && [0x018, 0x019, 0x020].contains n then some s
    else if csrLegal n v then some (s.modThr t (·.setCsr n v)) else none
  else
    match t with
    | .ctl k => ((s.ctlAt k).setCsr n v).map fun c => s.setCtl k c
    | .cmp _ _ _ => none

/-- The checks of a CSR word: an unassigned number, or a write of a read-only CSR, is illegal; then the level (R13). R13 and R86 do
not say which trap comes first for an unassigned number above the thread's level: the model takes the illegal-instruction one
(log 78). -/
def csrW (i : Instr) (pg : BitVec 3) (d : BitVec 7) (c : BitVec 12) (wr : Bool) : W :=
  { i, pg, gs := [d.toNat], need := csrLevel c.toNat,
    bad := !csrAssigned c.toNat || (wr && csrUserRo c.toNat) }

/-- A write of a CSR with the new value from the old one and gd (R85, R86). -/
def csrWord (i : Instr) (pg : BitVec 3) (d : BitVec 7) (c : BitVec 12) (s : State) (f : Word → Word → Word) : Out :=
  runWord (csrW i pg d c true) s
    (match s.csrWrite s.cur c.toNat (f (s.csr s.cur c.toNat) (s.me.gr d.toNat)) with
     | some s' => .next s'
     | none => .trap 0x00 (((encode i).getD 0).zeroExtend 64) false)

/-- An access that the executing thread has made, and whose return or acknowledgement may still raise its core's logical time, is on its
way (R16, R85, R229). -/
def State.timePending (s : State) : Bool :=
  match s.cur with
  | .ctl n => !(s.ctlAt n).wb.isEmpty
  | .cmp x c slot => (s.ctxAt x).infl.any fun e => e.2.core == c && e.2.slot == slot && e.2.phase != .page && (match e.2.op with
    | .illegalInstruction _ => false
    | _ => true)

/-- CSRR; LTIME is read after the thread's older words that write it (R16, R85). -/
def execCsrr (pg : BitVec 3) (d : BitVec 7) (c : BitVec 12) (s : State) : Out :=
  runWord (csrW (.csrr pg d c) pg d c false) s
    (if c.toNat == 0x028 && s.timePending then .hold s else .next (s.modMe (·.setG d.toNat (s.csr s.cur c.toNat))))

/-- CSRW (R85, R86). -/
def execCsrw (pg : BitVec 3) (d : BitVec 7) (c : BitVec 12) (s : State) : Out :=
  csrWord (.csrw pg d c) pg d c s fun _ v => v

/-- CSRS (R85, R86). -/
def execCsrs (pg : BitVec 3) (d : BitVec 7) (c : BitVec 12) (s : State) : Out :=
  csrWord (.csrs pg d c) pg d c s fun o v => o ||| v

/-- CSRC (R85, R86). -/
def execCsrc (pg : BitVec 3) (d : BitVec 7) (c : BitVec 12) (s : State) : Out :=
  csrWord (.csrc pg d c) pg d c s fun o v => o &&& ~~~v

end Sys2Proof.Machine
end

