-- ==== Sys2Proof/Machine/Memory.lean ====
section
/-! DEFINITION. Sys2Proof/Machine/Memory.lean: bytes of memory in canonical form, the physical map, home dies and
slices, logical time (R192, R193, R229). -/

namespace Sys2Proof.Machine

/-! ## Bytes -/

/-- The byte at an address; an unlisted address reads as zero (log 5). -/
def memGet (m : List Host.Cell) (a : Nat) : Byte := tget 0 m a

/-- The memory with one byte written: addresses rise strictly and no listed byte is zero. -/
def memPut (a : Nat) (v : Byte) : List Host.Cell → List Host.Cell
  | [] => if v = 0 then [] else [(a, v)]
  | (b, w) :: r =>
    if b < a then (b, w) :: memPut a v r
    else if b = a then (if v = 0 then r else (a, v) :: r)
    else if v = 0 then (b, w) :: r
    else (a, v) :: (b, w) :: r

/-- Every address of the list lies above `a`. -/
def Memory.above (a : Nat) : List Host.Cell → Bool
  | [] => true
  | (b, _) :: _ => decide (a < b)

/-- The canonical form: addresses strictly rising, no entry equal to what an unlisted address reads as. -/
def Memory.wf : List Host.Cell → Bool
  | [] => true
  | (a, v) :: r => v != 0 && Memory.above a r && Memory.wf r

/-- The bytes from `a`. -/
def memRead (m : List Host.Cell) (a : Nat) : Nat → List Byte
  | 0 => []
  | n + 1 => memGet m a :: memRead m (a + 1) n

/-- The memory with bytes written from `a`. -/
def memWrite (a : Nat) : List Byte → List Host.Cell → List Host.Cell
  | [], m => m
  | v :: r, m => memWrite (a + 1) r (memPut a v m)

/-- Listed bytes in canonical form; the last entry of an address counts. -/
def memOf (l : List Host.Cell) : List Host.Cell := l.foldl (fun m c => memPut c.1 c.2 m) []

/-- The little-endian value of bytes (R20). -/
def leVal : List Byte → Nat
  | [] => 0
  | b :: r => b.toNat + 256 * leVal r

/-- A value as `n` little-endian bytes (R20). -/
def leBytes (v : Nat) : Nat → List Byte
  | 0 => []
  | n + 1 => BitVec.ofNat 8 v :: leBytes (v / 256) n

/-- `data` laid over `old`, both from their own addresses: the bytes of `old` that `data` covers are replaced. -/
def overlay (data : List Byte) (da : Nat) : Nat → List Byte → List Byte
  | _, [] => []
  | a, v :: r => (if da ≤ a then data.getD (a - da) v else v) :: overlay data da (a + 1) r

/-- Two byte ranges have a byte in common. -/
def rangesMeet (a n b m : Nat) : Bool := decide (a < b + m) && decide (b < a + n)

/-! ## The physical map (R193) -/

/-- The rows of R193. -/
inductive Region where
  | hbm | second | host | config | herbor
  deriving DecidableEq, Repr

/-- The address by which the model names a byte of another package's memory: package, SID and virtual address, above every
physical address (R340, log 14). -/
def farAddr (p sid va : Nat) : Nat := 2 ^ 80 * (1 + p) + 2 ^ 57 * sid + va % 2 ^ 57

/-- The row an address lies in; none for an unassigned address (R193). A byte of another package's memory lies in the Herbor
window. -/
def regionOf (pa : Nat) : Option Region :=
  if pa < 0x00C000000000 then some .hbm
  else if 0x010000000000 ≤ pa ∧ pa < 0x028000000000 then some .second
  else if 0x8000000000000 ≤ pa ∧ pa < 0xA000000000000 then some .host
  else if 0xA000000000000 ≤ pa ∧ pa < 0xA000400000000 ∧ pa % 0x100000000 < 0x10000 then some .config
  else if 0xC000000000000 ≤ pa ∧ pa < 0x10000000000000 then some .herbor
  else if 2 ^ 80 ≤ pa then some .herbor
  else none

/-- The home die of an address (R193). -/
def homeDie (pa : Nat) : Nat :=
  match regionOf pa with
  | some .hbm => pa / 0x003000000000
  | some .second => (pa - 0x010000000000) / 0x006000000000
  | some .config => (pa - 0xA000000000000) / 0x100000000
  | _ => 0

/-- The slice within a die (R192). -/
def sliceOf (pa : Nat) : Nat :=
  (List.range 9).foldl (fun x k => x ^^^ (pa / 2 ^ (7 + 5 * k) % 32)) 0

/-- Every byte of a page lies at an assigned address (R193, R199): pages are powers of two up to 16 GiB. -/
def pageAssigned (base size : Nat) : Bool :=
  let last := base + size - 1
  match regionOf base with
  | some .config => decide (base % 0x100000000 + size ≤ 0x10000)
  | some r => regionOf last == some r
  | none => false

/-- The HBM stack, by die and stack number, whose log takes an address's records (R193, R325). -/
def logStack (pa : Nat) : Nat := 4 * homeDie pa + (pa / 256 % 4 ^^^ pa / 4096 % 4)

/-- An address of the host range while CXL.cache is not offered (R350): a read gives free values, a write reaches nothing (log 81). -/
def State.hostOff (s : State) (pa : Nat) : Bool := s.boot.stage != .run && regionOf pa == some .host

/-! ## Memory of other packages (R340, log 14) -/

/-- A byte of another package's memory: as last written, else as its memory first held it. -/
def State.farByte (s : State) (a : Nat) : Byte := tget (Config.remoteByte 0 a) s.far a

/-- Bytes of another package's memory. -/
def State.farRead (s : State) (a : Nat) : Nat → List Byte
  | 0 => []
  | n + 1 => s.farByte a :: s.farRead (a + 1) n

/-- The state with bytes of another package's memory written. -/
def State.farWrite (s : State) (a : Nat) (b : List Byte) : State :=
  { s with far := (b.zipIdx).foldl (fun t e => tput (a + e.2) e.1 t) s.far }

/-- What marks a request that waits for the host's copy of a line, above every tag of a fault record (R210, R346). -/
abbrev hostTag : Nat := 65536

/-! ## Logical time (R229) -/

/-- Time `a` is at or before time `b` (R229). -/
def tle (a b : BitVec 24) : Bool := decide ((b - a).toNat < 2 ^ 22)

/-- The later of two times (R229). -/
def later (a b : BitVec 24) : BitVec 24 := if tle a b then b else a

/-- A core's logical time 65,536 clocks before `now` (R232). -/
def CorePhys.old (c : CorePhys) (now : Nat) : BitVec 24 :=
  match c.past.find? fun e => decide (e.1 + 65536 ≤ now) with
  | some e => e.2
  | none => match c.past.getLast? with
    | some e => e.2
    | none => c.lt

/-- The core at logical time `v`. `past` lists the times from which the core's logical time had a value, newest first,
back to one that is 65,536 clocks old. -/
def CorePhys.setLt (c : CorePhys) (now : Nat) (v : BitVec 24) : CorePhys :=
  let hist := if c.past.isEmpty then [(0, c.lt)] else c.past
  let recent := hist.takeWhile fun e => decide (now < e.1 + 65536)
  { c with lt := v, past := (now, v) :: recent ++ ((hist.drop recent.length).take 1) }

/-- A jump of a core's logical time to `v` keeps the bound of R232. -/
def CorePhys.jumpOk (c : CorePhys) (now : Nat) (v : BitVec 24) : Bool :=
  tle v c.lt || decide ((v - c.old now).toNat ≤ 2 ^ 19) || !tle c.lt v

/-- The state with a core's logical time raised to the later of its own and `v`. -/
def State.raiseLt (s : State) (core : Nat) (v : BitVec 24) : State :=
  s.modPhys core fun c => if tle c.lt v then c.setLt s.clock v else c

/-- The state with a core's logical time raised to a time, when there is one. -/
def State.raiseOpt (s : State) (core : Nat) : Option (BitVec 24) → State
  | some v => s.raiseLt core v
  | none => s

/-- The later of two times, either of which may be absent. -/
def laterOpt (a b : Option (BitVec 24)) : Option (BitVec 24) :=
  match a, b with
  | some x, some y => some (later x y)
  | none, y => y
  | x, none => x

/-- A core may jump to `v` now (R232). -/
def State.jumpOk (s : State) (core : Nat) (v : BitVec 24) : Bool := (s.coreAt core).jumpOk s.clock (later (s.coreAt core).lt v)

end Sys2Proof.Machine
end

