-- ==== Sys2Proof/Machine/Num.lean ====
section
/-! DEFINITION. Sys2Proof/Machine/Num.lean: number formats and exact arithmetic (R31 to R47). A finite value is a sign, a
natural number and a power of two, so sums and products are exact; rounding happens once, at the end. -/

namespace Sys2Proof.Machine

/-! ## Formats (R31, R34, R39) -/

/-- A binary format: total width, exponent bits, fraction bits, bias, and whether the top exponent holds infinities
and NaNs. -/
structure Fmt where
  w    : Nat
  eb   : Nat
  fb   : Nat
  bias : Int
  ieee : Bool

/-- FP16 (R31). -/
def fp16 : Fmt := ⟨16, 5, 10, 15, true⟩
/-- BF16 (R31). -/
def bf16 : Fmt := ⟨16, 8, 7, 127, true⟩
/-- FP32 (R31). -/
def fp32 : Fmt := ⟨32, 8, 23, 127, true⟩
/-- FP64 (R31). -/
def fp64 : Fmt := ⟨64, 11, 52, 1023, true⟩
/-- E4M3F (R34). -/
def e4m3 : Fmt := ⟨8, 4, 3, 7, false⟩
/-- E5M2F (R34). -/
def e5m2 : Fmt := ⟨8, 5, 2, 15, false⟩
/-- E2M1 (R34). -/
def e2m1 : Fmt := ⟨4, 2, 1, 1, false⟩
/-- FA56 (R39). -/
def fa56 : Fmt := ⟨56, 11, 44, 1023, false⟩

/-- A decoded value: NaN (signalling or not), an infinity, or (-1)^neg * n * 2^e. -/
inductive FV where
  | nan (sig : Bool)
  | inf (neg : Bool)
  | fin (neg : Bool) (n : Nat) (e : Int)
  deriving DecidableEq, Repr

/-- dec (R56): the exact value of the bits in a format. -/
def Fmt.dec (f : Fmt) (bits : Nat) : FV :=
  let s := bits / 2 ^ (f.w - 1) % 2 == 1
  let ex := bits / 2 ^ f.fb % 2 ^ f.eb
  let fr := bits % 2 ^ f.fb
  if f.ieee && ex == 2 ^ f.eb - 1 then
    if fr == 0 then .inf s else .nan (decide (fr < 2 ^ (f.fb - 1)))
  else if ex == 0 then .fin s fr (1 - f.bias - f.fb)
  else .fin s (2 ^ f.fb + fr) (ex - f.bias - f.fb)

/-- The value read under DAZ: a subnormal is a zero of its sign (R33). -/
def Fmt.decDaz (f : Fmt) (daz : Bool) (bits : Nat) : FV :=
  match f.dec bits with
  | .fin s n e => if daz && decide (n < 2 ^ f.fb) then .fin s 0 e else .fin s n e
  | v => v

/-- The sign bit of the format, set for a negative value. -/
def Fmt.sign (f : Fmt) (neg : Bool) : Nat := if neg then 2 ^ (f.w - 1) else 0

/-- The canonical quiet NaN (R32). -/
def Fmt.qnan (f : Fmt) : Nat := (2 ^ f.eb - 1) * 2 ^ f.fb + 2 ^ (f.fb - 1)

/-- The code of an infinity of the format. -/
def Fmt.infinity (f : Fmt) (neg : Bool) : Nat := f.sign neg + (2 ^ f.eb - 1) * 2 ^ f.fb

/-- The largest finite value's code, with a sign. -/
def Fmt.maxCode (f : Fmt) (neg : Bool) : Nat :=
  f.sign neg + (if f.ieee then (2 ^ f.eb - 1) * 2 ^ f.fb - 1 else 2 ^ (f.eb + f.fb) - 1)

/-- The largest exponent of the format's finite values. -/
def Fmt.emax (f : Fmt) : Int := (if f.ieee then 2 ^ f.eb - 2 else 2 ^ f.eb - 1 : Nat) - f.bias

/-! ## Rounding (R45 to R47) -/

/-- The rounding modes, in FPMODE.RM order (R45). -/
inductive RM where
  | rne | rz | rdn | rup | sr
  deriving DecidableEq, Repr

/-- The mode of an FPMODE.RM value (R45, R52). -/
def RM.ofCode : Nat → RM
  | 1 => .rz
  | 2 => .rdn
  | 3 => .rup
  | 4 => .sr
  | _ => .rne

/-- Bits a number needs. -/
def bitLen (n : Nat) : Nat := if n = 0 then 0 else Nat.log2 n + 1

/-- n * 2^e as a whole number of 2^q, rounded by a mode, and whether that was inexact. `draw` is the draw of SR. -/
def roundAt (rm : RM) (neg : Bool) (n : Nat) (e q : Int) (draw : Nat) : Nat × Bool :=
  if q ≤ e then (n * 2 ^ (e - q).toNat, false)
  else
    let sh := (q - e).toNat
    let a := n / 2 ^ sh
    let r := n % 2 ^ sh
    if r = 0 then (a, false)
    else
      let up := match rm with
        | .rne => decide (2 ^ sh < 2 * r) || (2 * r == 2 ^ sh && a % 2 == 1)
        | .rz => false
        | .rdn => neg
        | .rup => !neg
        | .sr => decide (2 ^ 16 ≤ r * 2 ^ 16 / 2 ^ sh + draw)
      (if up then a + 1 else a, true)

/-- A rounding to a format: the code when in range, and what happened. -/
structure Rounded where
  code : Nat
  ovf  : Bool
  inex : Bool
  tiny : Bool
  deriving DecidableEq, Repr

/-- Rounds a finite value over the format's unbounded exponent range above its subnormals (R35, R47); tininess is
detected after rounding (R32), under SR by the same draw (log 65). Under SR a value between the largest finite one and
the next step goes by its draw, as the steps of R47 have it (log 66). -/
def Fmt.round (f : Fmt) (rm : RM) (neg : Bool) (n : Nat) (e : Int) (draw : Nat) : Rounded :=
  if n = 0 then ⟨f.sign neg, false, false, false⟩
  else
    let emin := 1 - f.bias - f.fb
    let free := e + bitLen n - (f.fb + 1)
    let q := max emin free
    let (m, ix) := roundAt rm neg n e q draw
    let (m', _) := roundAt rm neg n e free draw
    let tiny := decide ((bitLen m' : Int) - 1 + free < 1 - f.bias)
    let ovf := decide (f.emax < (bitLen m : Int) - 1 + q)
    let code :=
      if m < 2 ^ f.fb then m
      else if m = 2 ^ (f.fb + 1) then (q + 1 + f.fb + f.bias).toNat * 2 ^ f.fb
      else (q + f.fb + f.bias).toNat * 2 ^ f.fb + (m - 2 ^ f.fb)
    ⟨f.sign neg + code, ovf, ix, tiny⟩

/-! ## Flags (R53) -/

/-- NX. -/
def flNX : Nat := 1
/-- UF. -/
def flUF : Nat := 2
/-- OF. -/
def flOF : Nat := 4
/-- DZ. -/
def flDZ : Nat := 8
/-- NV. -/
def flNV : Nat := 16
/-- NNAN. -/
def flNNAN : Nat := 32
/-- NSAT. -/
def flNSAT : Nat := 64

/-- Result bits with the flags raised. -/
abbrev BF := Nat × Nat

/-- How results are delivered: rounding mode, HM SAT, FTZ, and the draw of SR. -/
structure Deliver where
  rm   : RM := .rne
  sat  : Bool := false
  ftz  : Bool := false
  draw : Nat := 0

/-- rnd (R56) to an IEEE format: R32, R33, and HM SAT of R98. -/
def Fmt.deliver (f : Fmt) (d : Deliver) (v : FV) : BF :=
  match v with
  | .nan _ => (f.qnan, 0)
  | .inf s => (if d.sat then f.maxCode s else f.infinity s, 0)
  | .fin s n e =>
    let r := f.round d.rm s n e d.draw
    if r.ovf then
      let toMax := d.sat || (match d.rm with
        | .rz => true
        | .rdn => !s
        | .rup => s
        | _ => false)
      (if toMax then f.maxCode s else f.infinity s, flOF ||| flNX)
    else if r.tiny && d.ftz then (f.sign s, flUF ||| flNX)
    else (r.code, (if r.inex then flNX else 0) ||| (if r.tiny && r.inex then flUF else 0))

/-! ## Exact operations -/

/-- The sum of two finite values, as a finite value; an exact zero of operands of opposite sign is +0, or -0 under
RDN (R99). -/
def addFin (rdn : Bool) (s : Bool) (n : Nat) (e : Int) (t : Bool) (m : Nat) (g : Int) : FV :=
  let q := min e g
  let x : Int := n * 2 ^ (e - q).toNat
  let y : Int := m * 2 ^ (g - q).toNat
  let v := (if s then -x else x) + (if t then -y else y)
  if v = 0 then .fin (if s == t then s else rdn) 0 q else .fin (decide (v < 0)) v.natAbs q

/-- A value that is a signalling NaN. -/
def FV.isSig : FV → Bool
  | .nan s => s
  | _ => false

/-- A value that is a NaN. -/
def FV.isNan : FV → Bool
  | .nan _ => true
  | _ => false

/-- The value with its sign inverted. -/
def FV.neg : FV → FV
  | .nan s => .nan s
  | .inf s => .inf (!s)
  | .fin s n e => .fin (!s) n e

/-- The sign of a value; a NaN counts as positive. -/
def FV.isNeg : FV → Bool
  | .nan _ => false
  | .inf s => s
  | .fin s _ _ => s

/-- x * y exactly, with NV for a signalling NaN or a zero times an infinity. -/
def FV.mul (x y : FV) : FV × Nat :=
  match x, y with
  | .nan a, _ => (.nan false, if a || y.isSig then flNV else 0)
  | _, .nan b => (.nan false, if b then flNV else 0)
  | .inf s, .inf t => (.inf (s != t), 0)
  | .inf s, .fin t m _ => if m = 0 then (.nan false, flNV) else (.inf (s != t), 0)
  | .fin s n _, .inf t => if n = 0 then (.nan false, flNV) else (.inf (s != t), 0)
  | .fin s n e, .fin t m g => (.fin (s != t) (n * m) (e + g), 0)

/-- x + y exactly, with NV for a signalling NaN or infinities of opposite sign. -/
def FV.add (rdn : Bool) (x y : FV) : FV × Nat :=
  match x, y with
  | .nan a, _ => (.nan false, if a || y.isSig then flNV else 0)
  | _, .nan b => (.nan false, if b then flNV else 0)
  | .inf s, .inf t => if s == t then (.inf s, 0) else (.nan false, flNV)
  | .inf s, .fin _ _ _ => (.inf s, 0)
  | .fin _ _ _, .inf t => (.inf t, 0)
  | .fin s n e, .fin t m g => (addFin rdn s n e t m g, 0)

/-- x * y + z exactly; NV for a zero times an infinity even when the addend is a quiet NaN (R99). -/
def FV.fma (rdn : Bool) (x y z : FV) : FV × Nat :=
  let (p, f) := x.mul y
  let (r, g) := p.add rdn z
  (r, f ||| g)

/-- x - y as an order: whether x < y, x = y, for values that are no NaN; -0 equals +0. -/
def FV.cmp (x y : FV) : Ordering :=
  match x, y with
  | .inf s, .inf t => if s == t then .eq else if s then .lt else .gt
  | .inf s, _ => if s then .lt else .gt
  | _, .inf t => if t then .gt else .lt
  | .fin s n e, .fin t m g =>
    match addFin false s n e (!t) m g with
    | .fin u k _ => if k = 0 then .eq else if u then .lt else .gt
    | _ => .eq
  | _, _ => .eq

/-- x <= y with -0 counted as less than +0 (R100). -/
def FV.leSigned (x y : FV) : Bool :=
  match x.cmp y with
  | .lt => true
  | .gt => false
  | .eq => x.isNeg || !y.isNeg

/-! ## Roots and quotients -/

/-- The integer square root, by bits from `k` down. -/
def isqrtGo (n : Nat) : Nat → Nat → Nat
  | 0, r => if (r + 1) * (r + 1) ≤ n then r + 1 else r
  | k + 1, r => isqrtGo n k (if (r + 2 ^ (k + 1)) * (r + 2 ^ (k + 1)) ≤ n then r + 2 ^ (k + 1) else r)

/-- The integer square root. -/
def isqrt (n : Nat) : Nat := isqrtGo n (bitLen n / 2 + 1) 0

/-- The square root of n * 2^e, to far more bits than any format holds, its last bit set when more follow: it rounds
as the exact root does. -/
def sqrtFin (n : Nat) (e : Int) : Nat × Int :=
  let up : Nat := 240 + (if (e - 240) % 2 = 0 then 0 else 1)
  let x := n * 2 ^ up
  let r := isqrt x
  (2 * r + (if r * r = x then 0 else 1), (e - up) / 2 - 1)

/-- n / m, to far more bits than any format holds, its last bit set when more follow. -/
def divFin (n m : Nat) : Nat × Int :=
  let up := 200 + bitLen m
  let q := n * 2 ^ up / m
  (2 * q + (if n * 2 ^ up % m = 0 then 0 else 1), -(up : Int) - 1)

/-! ## Narrow formats (R35) and accumulators (R40) -/

/-- What a narrow conversion recorded: OVF, INV, and whether a finite source changed. -/
structure Narrow where
  code : Nat
  ovf  : Bool
  inv  : Bool
  inex : Bool
  deriving DecidableEq, Repr

/-- Conversion to an all-finite format (R35). -/
def Fmt.narrow (f : Fmt) (rm : RM) (draw : Nat) (v : FV) : Narrow :=
  match v with
  | .nan _ => ⟨0, false, true, false⟩
  | .inf s => ⟨f.maxCode s, true, false, false⟩
  | .fin s n e =>
    let r := f.round rm s n e draw
    if r.ovf then ⟨f.maxCode s, true, false, true⟩ else ⟨r.code, false, false, r.inex⟩

/-- RNE56 (R40): the FA56 bits and whether the row is poisoned with OVF. -/
def rne56 (v : FV) : Nat × Bool :=
  let r := fa56.narrow .rne 0 v
  (r.code, r.ovf)

/-- SAT56 (R40): the INT56 bits and whether the value was clamped. -/
def sat56 (v : Int) : Nat × Bool :=
  if 2 ^ 55 - 1 < v then (2 ^ 55 - 1, true)
  else if v < -(2 ^ 55) then (2 ^ 55, true)
  else ((v % 2 ^ 56).toNat, false)

/-- An INT56 value. -/
def int56 (bits : Nat) : Int := if bits < 2 ^ 55 then bits else (bits : Int) - 2 ^ 56

/-! ## The stochastic generator (R46) -/

/-- One xorshift32 step; the draw is the new state's upper half. -/
def srNext (x : BitVec 32) : BitVec 32 :=
  let x := x ^^^ (x <<< 13)
  let x := x ^^^ (x >>> 17)
  x ^^^ (x <<< 5)

/-- The draw of a state (R46). -/
def srDraw (x : BitVec 32) : Nat := (srNext x).toNat / 65536

/-! ## Conversions to integers (R112, R282) -/

/-- A value rounded to an integral one by a mode; `draw` is unused unless SR. -/
def toIntegral (rm : RM) (s : Bool) (n : Nat) (e : Int) : Int × Bool :=
  let (m, ix) := roundAt (if rm = .sr then .rne else rm) s n e 0 0
  (if s then -(m : Int) else m, ix)

/-- An integer as a value; zero is +0. -/
def FV.ofInt (v : Int) : FV := .fin (decide (v < 0)) v.natAbs 0

end Sys2Proof.Machine
end

