-- ==== Sys2Proof/Machine/Atomic.lean ====
section
/-! DEFINITION. Sys2Proof/Machine/Atomic.lean: operands and new values of atomics (R66, R242, R243). -/

namespace Sys2Proof.Machine

/-- Byte size of an atomic (R242). -/
def atomSize : AtomOp → Nat
  | .add64 | .cas64 => 8
  | _ => 4

/-- The g-registers an atomic reads from `b` (R242). -/
def atomSrc (o : AtomOp) (b : Nat) : List Nat :=
  match o with
  | .add64 | .cas32 => [b, b + 1]
  | .cas64 => [b, b + 1, b + 2, b + 3]
  | _ => [b]

/-- The g-registers an atomic writes from `d` (R242). -/
def atomDst (o : AtomOp) (d : Nat) : List Nat :=
  match o with
  | .add64 | .cas64 => [d, d + 1]
  | _ => [d]

/-- The exact sum of two codes of a format, rounded once by RNE; DAZ and FTZ do not apply (R243). -/
def atomFadd (f : Fmt) (a b : Nat) : Nat :=
  (f.deliver { rm := .rne, sat := false, ftz := false } ((f.dec a).add false (f.dec b)).1).1

/-- The new value of an atomic from the old one and its operand words, lowest first (R243). -/
def atomNew (o : AtomOp) (old : Nat) (ws : List Word) : Nat :=
  let g := ws.getD 0 0
  let b := g.toNat
  let w := BitVec.ofNat 32 old
  let pair := fun i => (ws.getD (i + 1) 0 ++ ws.getD i 0 : Dword).toNat
  match o with
  | .add32 => (old + b) % 2 ^ 32
  | .add64 => (old + pair 0) % 2 ^ 64
  | .mins => if w.toInt ≤ g.toInt then old else b
  | .maxs => if g.toInt ≤ w.toInt then old else b
  | .minu => if old ≤ b then old else b
  | .maxu => if b ≤ old then old else b
  | .and => old &&& b
  | .or => old ||| b
  | .xor => old ^^^ b
  | .xchg => b
  | .cas32 => if old = b then (ws.getD 1 0).toNat else old
  | .cas64 => if old = pair 0 then pair 2 else old
  | .fadd32 => atomFadd fp32 old b
  | .badd2 =>
    atomFadd bf16 (old % 65536) (b % 65536) + 65536 * atomFadd bf16 (old / 65536) (b / 65536)
  | .incw => if b ≤ old then 0 else old + 1

/-- Words as little-endian bytes, the first word lowest (R238). -/
def wordsBytes : List Word → List Byte
  | [] => []
  | w :: r => leBytes w.toNat 4 ++ wordsBytes r

/-- Bytes as little-endian words: fuel, bytes. -/
def bytesWords : Nat → List Byte → List Word
  | 0, _ => []
  | n + 1, b => BitVec.ofNat 32 (leVal (b.take 4)) :: bytesWords n (b.drop 4)

end Sys2Proof.Machine
end

