-- ==== Sys2Proof/Machine/Coherence.lean ====
section
/-! DEFINITION. Sys2Proof/Machine/Coherence.lean: L2 lines, replicas, the directory and its messages, filling a line,
recalling it, applying a store (R192, R215, R229, R325, R334 to R338, R346). -/

namespace Sys2Proof.Machine

/-! ## Lines and replicas -/

/-- Bytes of a line (R191). -/
abbrev lineSize : Nat := 128

/-- The key of a line's slice: 32 * die + slice (R192). -/
def sliceKey (ln : Nat) : Nat := 32 * homeDie (lineSize * ln) + sliceOf (lineSize * ln)

/-- The home die of a line. -/
def lineHome (ln : Nat) : Nat := homeDie (lineSize * ln)

/-- A line's entry in L2 at its home. -/
def State.l2At (s : State) (ln : Nat) : L2Line := tget {} s.coh.l2 ln

/-- The state with `f` applied to a line's entry in L2. -/
def State.modL2 (s : State) (ln : Nat) (f : L2Line → L2Line) : State :=
  { s with coh := { s.coh with l2 := tput ln (f (s.l2At ln)) s.coh.l2 } }

/-- The replica of a line on a die. -/
def State.repAt (s : State) (ln d : Nat) : Option Replica := tfind s.coh.reps (ln, d)

/-- The state with the replica of a line on a die at `r`. -/
def State.setRep (s : State) (ln d : Nat) (r : Replica) : State :=
  { s with coh := { s.coh with reps := tput (ln, d) r s.coh.reps } }

/-- The state without the replica of a line on a die. -/
def State.delRep (s : State) (ln d : Nat) : State :=
  { s with coh := { s.coh with reps := tdel (ln, d) s.coh.reps } }

/-- A message of a kind for a line and a die is on its way. -/
def State.msgOf (s : State) (k : MKind) (ln d : Nat) : Option CMsg :=
  s.coh.msgs.find? fun m => m.kind == k && m.line == ln && m.r == d

/-- The class of a message (R332): request, snoop, response or write-back. -/
def MKind.cls : MKind → Nat
  | .readS | .readOwn | .upgrade | .evictC => 0
  | .fwdS | .fwdOwn | .inv => 1
  | .grantM | .data => 2
  | .writeBack => 3

/-- The channel of a message: class, source and destination (R332). -/
def CMsg.chan (m : CMsg) : Nat × Nat × Nat :=
  if m.kind.cls = 0 ∨ m.kind.cls = 3 then (m.kind.cls, m.r, lineHome m.line) else (m.kind.cls, m.src.getD (lineHome m.line), m.r)

/-- A message that has arrived and waits where it is: a request or an eviction for a busy line, a write-back whose die still
owes its snoop response, a snoop of a line whose grant its die awaits (R336). -/
def State.waitsThere (s : State) (m : CMsg) : Bool :=
  let here := fun (k : MKind) => s.coh.msgs.any fun u => u.kind == k && u.line == m.line && u.r == m.r
  match m.kind with
  | .readS | .readOwn | .upgrade | .evictC => (s.l2At m.line).busy
  | .writeBack => here .fwdS || here .fwdOwn || here .inv
  | .fwdS | .fwdOwn | .inv => here .grantM || here .data
  | .grantM | .data => false

/-- The message of a kind for a line and a die that may be taken now: every earlier one of its channel has arrived (R332). -/
def State.arrived (s : State) (k : MKind) (ln d : Nat) : Option CMsg :=
  match s.msgOf k ln d with
  | none => none
  | some m =>
    if ((s.coh.msgs.takeWhile fun u => !(u.kind == k && u.line == ln && u.r == d)).any fun u => u.chan == m.chan && !s.waitsThere u)
    then none else some m

/-- The state with a message sent. -/
def State.send (s : State) (m : CMsg) : State := { s with coh := { s.coh with msgs := s.coh.msgs ++ [m] } }

/-- The links that a message from die `a` to die `b` crosses: their own, or the two of the detour of a link taken down (R333). -/
def State.links (s : State) (a b : Nat) : List (Nat × Nat) :=
  match s.coh.down.find? fun l => (l.1, l.2.1) == (min a b, max a b) with
  | some l => [(min a l.2.2, max a l.2.2), (min b l.2.2, max b l.2.2)]
  | none => [(min a b, max a b)]

/-- The state with a message delivered: the rows of replays on the links it crossed end (R333). -/
def State.unsend (s : State) (k : MKind) (ln d : Nat) : State :=
  let l := match s.msgOf k ln d with
    | some m => s.links m.chan.2.1 m.chan.2.2
    | none => []
  { s with coh := { s.coh with msgs := s.coh.msgs.filter fun m => !(m.kind == k && m.line == ln && m.r == d),
                               replays := l.foldl (fun t e => tdel e t) s.coh.replays } }

/-- A state in which the replica differs from home or may (M, O or E): the owner of R335. -/
def Moes.owns : Moes → Bool
  | .s => false
  | _ => true

/-- The die that owns a line, and its replica. -/
def State.ownerRep (s : State) (ln : Nat) : Option (Nat × Replica) :=
  [0, 1, 2, 3].findSome? fun d => (s.repAt ln d).bind fun r => if r.st.owns then some (d, r) else none

/-- A write-back of the line by its owner that home has not taken. -/
def State.wbOf (s : State) (ln : Nat) : Option CMsg :=
  s.coh.msgs.find? fun m => m.kind == .writeBack && m.line == ln && (s.l2At ln).owner == some m.r

/-- The byte at a physical address at its point of application (R337): the owner's, a write-back's, or home's. -/
def State.curByte (s : State) (pa : Nat) : Byte :=
  let ln := pa / lineSize
  match s.ownerRep ln with
  | some (_, r) => r.data.getD (pa % lineSize) 0
  | none =>
    match s.wbOf ln with
    | some m => m.bytes.getD (pa % lineSize) 0
    | none => memGet s.mem pa

/-- Bytes at their points of application. -/
def State.curRead (s : State) (pa : Nat) : Nat → List Byte
  | 0 => []
  | n + 1 => s.curByte pa :: s.curRead (pa + 1) n

/-- A line's 128 bytes at their point of application. -/
def State.lineBytes (s : State) (ln : Nat) : List Byte := s.curRead (lineSize * ln) lineSize

/-! ## Access counters and notices (R215, R216) -/

/-- The threshold of the access counters, 1 to 65,535 (R215): as the kernel set it, and open before (log 29). -/
def State.countLimit (s : State) : Nat := max 1 (min 65535 (s.tr.limit.getD Config.accessThreshold))

/-- Counts a fill of a line with AC = 1 for a requesting die and partition, when it is remote; a count that reaches the threshold makes a
notice (R215, R216), whose other fields are log 88's. -/
def State.countAccess (s : State) (ln die p : Nat) : State :=
  let pa := lineSize * ln
  let reg := pa / 65536
  let c := tget {} s.tr.counts reg
  if c.stop || !(regionOf pa == some .host || homeDie pa != die) then s
  else
    let n := tget 0 c.n die + 1
    let c' : ACount := { n := tput die n c.n, stop := decide (s.countLimit ≤ n) }
    let cnt := fun d => BitVec.ofNat 16 (tget 0 c'.n d)
    let s := { s with tr := { s.tr with counts := tput reg c' s.tr.counts } }
    if c'.stop then
      let note : FRec := { tag := 0, p := p, sid := 0, kind := 0, acc := 0, waiters := 0, level := 0, die, core := 0x1FF,
                           addr := BitVec.ofNat 64 (65536 * reg), notice := true, counts := cnt 3 ++ cnt 2 ++ cnt 1 ++ cnt 0 }
      { s with tr := { s.tr with recs := s.tr.recs ++ [note] } }
    else s

/-- The slice's memory timestamp (R229). -/
def State.mtsOf (s : State) (ln : Nat) : BitVec 24 := tget 0 s.coh.mts (sliceKey ln)

/-! ## The negative log (R325) -/

/-- The 64-byte lines that a write of `n` bytes at `pa` touches for the first time in an interval of the context (R325). -/
def Ctx.newLines (k : Ctx) (pa n intv : Nat) : List Nat :=
  ((List.range ((pa + n - 1) / 64 - pa / 64 + 1)).map (pa / 64 + ·)).filter fun l =>
    !k.ckpt.log.any fun r => r.line == l && r.intv == intv

/-- The state with bank `x`'s log holding the contents of some lines before a write in interval `intv`. -/
def State.addRecs (s : State) (x intv : Nat) (lines : List Nat) : State :=
  let k := s.ctxAt x
  let log := lines.foldl (fun g l => { line := l, old := s.curRead (64 * l) 64, intv } :: g) k.ckpt.log
  s.setCtx x { k with ckpt := { k.ckpt with log := log } }

/-- The context's records in the log of a line's stack. -/
def Ctx.recsIn (k : Ctx) (l : Nat) : Nat := (k.ckpt.log.filter fun r => logStack (64 * r.line) == logStack (64 * l)).length

/-- The log of a line's stack, which every context shares, is 75% full (R325). -/
def State.stackFull (s : State) (l : Nat) : Bool :=
  decide (3 * 2 ^ 30 ≤ 4 * Config.negRecBytes * (s.ctxs.map fun e => e.2.recsIn l).sum)

/-- A checkpoint of the context is due, where it has records in a log that is full (R325). -/
def Ctx.dueFor (k : Ctx) (full : List Nat) : Ctx :=
  if full.any fun l => k.recsIn l != 0 then { k with ckpt := { k.ckpt with due := true } } else k

/-- The state with bank `x`'s log holding the prior contents of the 64-byte lines that a write of `n` bytes at `pa` in
interval `intv` first touches; once a stack's log is 75% full, a checkpoint of each context with records in it is due (R325). -/
def State.logBank (s : State) (x pa n intv : Nat) : State :=
  let k := s.ctxAt x
  if !k.ckpt.on || !(regionOf pa == some .hbm || regionOf pa == some .second) then s
  else
    let new := k.newLines pa n intv
    let s := s.addRecs x intv new
    { s with ctxs := s.ctxs.map fun e => (e.1, e.2.dueFor (new.filter s.stackFull)) }

/-- The banks that hold a context. -/
def State.banks (s : State) : List Nat := (s.ctxs.filter fun e => e.2.st != .free).map Prod.fst

/-- For which contexts a write is logged: the bank a unit acts for, in its interval; every checkpointed context, for an
inbound Herbor or CXL access; none, for the kernel's and the walkers' own writes (R325). -/
inductive Who where
  | bank (x intv : Nat)
  | inbound
  | nobody
  deriving DecidableEq, Repr

/-- Logs a write (R325). -/
def State.logWrite (s : State) (who : Who) (pa n : Nat) : State :=
  match who with
  | .bank x intv => s.logBank x pa n intv
  | .inbound => s.banks.foldl (fun s x => s.logBank x pa n (s.ctxAt x).ckpt.intv) s
  | .nobody => s

/-! ## Recalls and snoops -/

/-- Home's timestamps after a response that returns `wts` and `rts` (R338). -/
def State.returned (s : State) (ln : Nat) (wts rts : BitVec 24) : State :=
  s.modL2 ln fun l => { l with wts := later l.wts wts, rts := later l.rts rts }

/-- Clears a die's bits in the directory. -/
def L2Line.drop (l : L2Line) (d : Nat) : L2Line :=
  { l with owner := if l.owner = some d then none else l.owner, sharers := l.sharers &&& ~~~(BitVec.ofNat 4 (2 ^ d)) }

/-- The greatest rts that an evicting die's message in flight returns (R338). -/
def State.evictRts (s : State) (ln d : Nat) : Option (BitVec 24) :=
  match s.msgOf .evictC ln d with
  | some m => some m.rts
  | none => (s.msgOf .writeBack ln d).map (·.rts)

/-- Home's rts covers what a die's eviction in flight returns (R338). -/
def State.returnedBy (s : State) (ln d : Nat) : State :=
  match s.evictRts ln d with
  | some r => s.returned ln (s.l2At ln).wts r
  | none => s

/-- Takes a line's replica from a die: dirty data returns to home memory, with the timestamps; of a die that is
evicting it home takes the rts its message returns (R335, R336, R338). -/
def State.recallFrom (s : State) (ln d : Nat) : State :=
  match s.repAt ln d with
  | none => s.returnedBy ln d
  | some r =>
    let s := if r.st.owns then { s with mem := memWrite (lineSize * ln) r.data s.mem } else s
    ((s.delRep ln d).returned ln r.wts r.rts).modL2 ln (·.drop d)

/-- Takes a pending write-back of the line into home memory (R336). -/
def State.settleWb (s : State) (ln : Nat) : State :=
  match s.wbOf ln with
  | none => s
  | some m => (({ s with mem := memWrite (lineSize * ln) m.bytes s.mem } : State).returned ln m.wts m.rts).modL2 ln (·.drop m.r)

/-- Recalls a line from every die (R335, R346). -/
def State.recallLine (s : State) (ln : Nat) : State := ([0, 1, 2, 3].foldl (fun s d => s.recallFrom ln d) s).settleWb ln

/-! ## Capacities (R177, R192, R229, R335) -/

/-- Lines an L2 slice holds: 4 MiB (R192). -/
abbrev sliceLines : Nat := 32768

/-- Entries of a home slice's directory cache (R335). -/
abbrev dirEntries : Nat := 16384

/-- Evicts a line from L2: its replicas are recalled first, and MTS takes a later rts. -/
def State.evictLine (s : State) (ln : Nat) : State :=
  let s := s.recallLine ln
  let m := s.mtsOf ln
  { s with coh := { s.coh with mts := tput (sliceKey ln) (later m (s.l2At ln).rts) s.coh.mts,
                               l2 := tdel ln s.coh.l2 } }

/-- No transaction on the line runs, and no message of it is on its way. -/
def State.quiet (s : State) (ln : Nat) : Bool := !(s.l2At ln).busy && !s.coh.msgs.any fun m => m.line == ln

/-- The replicas that the slice `key` (32 * die + slice) holds for its die. -/
def State.slotReps (s : State) (key : Nat) : List ((Nat × Nat) × Replica) :=
  s.coh.reps.filter fun e => e.1.2 == key / 32 && sliceOf (lineSize * e.1.1) == key % 32

/-- One of some things, by a free value (log 4). -/
def State.pick {α : Type} (s : State) (l : List α) : Option α × State :=
  if l.length ≤ 1 then (l.head?, s)
  else
    let (v, s) := s.takeFree
    (l[v.toNat % l.length]?, s)

/-- A replica leaves its die: its message of eviction is sent (R336). -/
def State.dropRep (s : State) (ln d : Nat) (q : Replica) : State :=
  (s.delRep ln d).send { kind := if q.st == .m || q.st == .o then .writeBack else .evictC, line := ln, r := d,
                         bytes := if q.st == .m || q.st == .o then q.data else [], wts := q.wts, rts := q.rts }

/-- Makes room for a line in a slice: where it is full, a line or a replica of the hardware's choice leaves it (R191, R229,
log 18). -/
def State.makeRoom (s : State) (key : Nat) : State :=
  let homes := (s.coh.l2.map Prod.fst).filter fun l => sliceKey l == key
  let reps := s.slotReps key
  if homes.length + reps.length < sliceLines then s
  else
    match s.pick (homes.filter s.quiet) with
    | (some v, s) => s.evictLine v
    | (none, s) =>
      match s.pick (reps.filter fun e => s.quiet e.1.1) with
      | (some e, s) => s.dropRep e.1.1 e.1.2 e.2
      | (none, s) => s

/-- The line is in L2: entering from memory it takes the slice's MTS for both timestamps, and the fill counts under AC
(R215, R229). -/
def State.ensureLine (s : State) (ln die p : Nat) (ac : Bool) : State :=
  if (tfind s.coh.l2 ln).isSome then s
  else
    let s := s.makeRoom (sliceKey ln)
    let s := s.modL2 ln fun _ => { wts := s.mtsOf ln, rts := s.mtsOf ln }
    if ac then s.countAccess ln die p else s

/-- The entry of the directory cache that a line needs (R335). -/
def L2Line.listed (l : L2Line) : Bool := l.busy || l.owner.isSome || l.sharers != 0

/-- Makes room in the directory cache of a line's home slice: where it is full, the replicas of an entry of the hardware's
choice are recalled (R335, log 18). -/
def State.dirRoom (s : State) (ln : Nat) : State :=
  let l := (s.coh.l2.filter fun e => sliceKey e.1 == sliceKey ln && e.2.listed && e.1 != ln).map Prod.fst
  if l.length < dirEntries || (s.l2At ln).listed then s
  else
    match s.pick (l.filter s.quiet) with
    | (some v, s) => s.recallLine v
    | (none, s) => s

/-- The directory cache has no entry for a line and no entry that can be evicted now: a request that needs one waits (R335). -/
def State.dirFull (s : State) (ln : Nat) : Bool :=
  let l := (s.coh.l2.filter fun e => sliceKey e.1 == sliceKey ln && e.2.listed && e.1 != ln).map Prod.fst
  !(decide (l.length < dirEntries) || (s.l2At ln).listed) && (l.filter s.quiet).isEmpty

/-- Snoops on their way for the line. -/
def State.snooped (s : State) (ln : Nat) : Bool :=
  s.coh.msgs.any fun m => m.line == ln && (m.kind == .inv || m.kind == .fwdS || m.kind == .fwdOwn)

/-- A grant or data message is on its way to a die, which holds snoops till then (R336). -/
def State.awaits (s : State) (ln d : Nat) : Bool := (s.msgOf .grantM ln d).isSome || (s.msgOf .data ln d).isSome

/-- A die has a request, an eviction or a grant of the line outstanding. -/
def State.asking (s : State) (ln d : Nat) : Bool :=
  s.coh.msgs.any (fun m => m.line == ln && m.r == d &&
    [MKind.readS, .readOwn, .upgrade, .evictC, .writeBack, .grantM, .data].contains m.kind) ||
  (match (s.l2At ln).txn with
   | some (r, _) => r == d
   | none => false)

/-- Ends the transaction on a line: home sends its grant or data; the data of an owner goes from its die to the requester, once every
snoop is answered, since it carries the line's times (R336, R338, log 12). -/
def State.finishTxn (s : State) (ln : Nat) : State :=
  let l := s.l2At ln
  match l.txn with
  | none => s.modL2 ln fun l => { l with busy := false }
  | some (r, own) =>
    let alone := l.owner.isNone && l.sharers == 0
    let bytes := s.lineBytes ln
    if own then
      let m : CMsg := if l.grant then { kind := .grantM, line := ln, r, wts := l.wts, rts := l.rts }
        else { kind := .data, line := ln, r, bytes, wts := l.wts, rts := l.rts, st := .m, src := l.fwd }
      (s.send m).modL2 ln fun l => { l with busy := false, txn := none, owner := some r, ox := true, sharers := 0 }
    else
      (s.send { kind := .data, line := ln, r, bytes, wts := l.wts, rts := l.rts, st := if alone then .e else .s }).modL2 ln
        fun l => if alone then { l with busy := false, txn := none, owner := some r, ox := true }
          else { l with busy := false, txn := none, sharers := l.sharers ||| BitVec.ofNat 4 (2 ^ r) }

/-- A snoop of the line has been answered; the last answer ends the transaction. -/
def State.answered (s : State) (ln : Nat) : State :=
  let s := s.modL2 ln fun l => { l with wait := l.wait - 1 }
  if (s.l2At ln).wait = 0 then s.finishTxn ln else s

/-- Home takes die `r`'s request: snoops to the owner and, for ownership, to the other sharers; `up`: it is an Upgrade, which a holder
is granted without data (R336). -/
def State.startTxn (s : State) (ln r : Nat) (own up : Bool) : State :=
  let l := s.l2At ln
  let fwd := match l.owner with
    | some o => if o = r then none else some o
    | none => none
  let grant := up && (l.owner == some r || l.sharers.getLsbD r)
  let fw := match l.owner with
    | some o => if o = r then [] else [({ kind := if own then .fwdOwn else .fwdS, line := ln, r := o } : CMsg)]
    | none => []
  let iv := if own then ([0, 1, 2, 3].filter fun d => l.sharers.getLsbD d && d != r).map fun d =>
    ({ kind := .inv, line := ln, r := d } : CMsg) else []
  let s := (fw ++ iv).foldl State.send (s.modL2 ln fun l => { l with busy := true, txn := some (r, own), wait := (fw ++ iv).length, fwd, grant })
  if (fw ++ iv).isEmpty then s.finishTxn ln else s

/-! ## Making a line servable -/

/-- The line is free of the host's copies; else its back-invalidation is asked for (R346). -/
def State.claim (s : State) (ln : Nat) : State × Bool :=
  if s.hst.held.contains ln then
    (if s.hst.inval.contains ln then s else { s with hst := { s.hst with inval := ln :: s.hst.inval } }, false)
  else (s, true)

/-- Every line of some is free of the host's copies (R346). -/
def State.claimAll (s : State) (l : List Nat) : State × Bool :=
  l.foldl (fun (q : State × Bool) ln =>
    let (s, ok) := q.1.claim ln
    (s, q.2 && ok)) (s, true)

/-- An event that waits for the host to give up a line is made again when it has (R346). -/
def State.holdFor (s : State) (ln : Nat) (again : Instr) : State :=
  if s.hst.waits.contains (hostTag + ln, again) then s
  else { s with hst := { s.hst with waits := s.hst.waits ++ [(hostTag + ln, again)] } }

/-- An event that waits for a line of which the host is asked to give up its copy is made again when it has given one up (R346). -/
def State.holdOn (s : State) (again : Instr) : State :=
  match s.hst.inval with
  | ln :: _ => s.holdFor ln again
  | [] => s

/-- An event that writes some lines: it goes on once the host holds none of them (R346). -/
def State.claimFor (s : State) (l : List Nat) (again : Instr) (go : State → Out) : Out :=
  match s.claimAll l with
  | (s, true) => go s
  | (s, false) => .next (s.holdOn again)

/-- An event that writes some lines, and that comes again of itself: it does so once the host holds none of them (R346). -/
def State.claimThen (s : State) (l : List Nat) (go : State → Out) : Out :=
  match s.claimAll l with
  | (s, true) => go s
  | (s, false) => .next s

/-- The lines from `a`, `n` bytes on, that the host holds (R346). -/
def State.heldIn (s : State) (a n : Nat) : List Nat :=
  s.hst.held.filter fun l => decide (a / lineSize ≤ l) && decide (l ≤ (a + n) / lineSize)

/-- The slice of `die` may serve loads of the line: its replica, or home with the owner's data forwarded (R334, R336).
Where it may not yet, the request is sent and `false` answered. -/
def State.prepLoad (s : State) (die ln : Nat) (rep : Bool) (p : Nat) (ac : Bool) : State × Bool :=
  if rep then
    if (s.repAt ln die).isSome then (s, true)
    else if s.asking ln die then (s, false)
    else (s.send { kind := .readS, line := ln, r := die, ac := if ac then some p else none }, false)
  else
    let s := s.ensureLine ln die p ac
    if (s.l2At ln).busy then (s, false)
    else
      match (s.l2At ln).owner with
      | none => (s, true)
      | some o =>
        if s.awaits ln o then (s, false)
        else
          match s.repAt ln o with
          | some r =>
            let st' := match r.st with
              | .m | .o => Moes.o
              | _ => .s
            ((((s.setRep ln o { r with st := st' }).returned ln r.wts r.rts).modL2 ln fun l =>
              if st' = .o then { l with ox := false }
              else { l with owner := none, sharers := l.sharers ||| BitVec.ofNat 4 (2 ^ o) }), true)
          | none => (s.settleWb ln, true)

/-- The slice of `die` may apply a store to the line (R334, R336, R346). -/
def State.prepStore (s : State) (die ln : Nat) (rep : Bool) (p : Nat) (ac : Bool) : State × Bool :=
  match s.claim ln with
  | (s, false) => (s, false)
  | (s, true) =>
    if rep then
      match s.repAt ln die with
      | some r =>
        if r.st = .m ∨ r.st = .e then (s, true)
        else if s.asking ln die then (s, false)
        else (s.send { kind := .upgrade, line := ln, r := die, wts := r.wts, rts := r.rts }, false)
      | none =>
        if s.asking ln die then (s, false) else (s.send { kind := .readOwn, line := ln, r := die, ac := if ac then some p else none }, false)
    else
      let s := s.ensureLine ln die p ac
      if (s.l2At ln).busy then (s, false)
      else
        match (s.l2At ln).owner with
        | none => (s, true)
        | some o => if s.awaits ln o then (s, false) else ((s.recallFrom ln o).settleWb ln, true)

/-! ## Loads and stores at their slice (R229) -/

/-- Timestamps of the slice that serves `die`. -/
def State.slTimes (s : State) (die ln : Nat) (rep : Bool) : BitVec 24 × BitVec 24 :=
  if rep then
    match s.repAt ln die with
    | some r => (r.wts, r.rts)
    | none => (0, 0)
  else ((s.l2At ln).wts, (s.l2At ln).rts)

/-- The state with the timestamps of the slice that serves `die` at `w` and `r`. -/
def State.setTimes (s : State) (die ln : Nat) (rep : Bool) (w r : BitVec 24) : State :=
  if rep then
    match s.repAt ln die with
    | some q => s.setRep ln die { q with wts := w, rts := r }
    | none => s
  else s.modL2 ln fun l => { l with wts := w, rts := r }

/-- The lease end a fill grants (R229). -/
def leaseEnd (wts rts lt : BitVec 24) (lease : Nat) : BitVec 24 := later rts (later wts lt + BitVec.ofNat 24 lease)

/-- A byte the slice of `die` serves: its replica's, or the point of application's. -/
def State.slByte (s : State) (die : Nat) (rep : Bool) (pa : Nat) : Byte :=
  if rep then
    match s.repAt (pa / lineSize) die with
    | some r => r.data.getD (pa % lineSize) 0
    | none => s.curByte pa
  else s.curByte pa

/-- Bytes the slice of `die` serves. -/
def State.slRead (s : State) (die : Nat) (rep : Bool) (pa : Nat) : Nat → List Byte
  | 0 => []
  | n + 1 => s.slByte die rep pa :: s.slRead die rep (pa + 1) n

/-- Applies a store of `data` at `pa`, by a writer at logical time `t`, at the slice of `die`; answers the state and the
line's new wts (R229, R336). Sharers of a line at home get Invs, and the line stays busy till they answer. -/
def State.applyStore (s : State) (who : Who) (die : Nat) (rep : Bool) (t : BitVec 24) (pa : Nat)
    (data : List Byte) : State × BitVec 24 :=
  let ln := pa / lineSize
  let s := s.logWrite who pa data.length
  let (_, r) := s.slTimes die ln rep
  let w := later t (r + 1)
  let s := s.setTimes die ln rep w w
  if rep then
    match s.repAt ln die with
    | some q => (s.setRep ln die { q with st := .m, data := overlay data (pa % lineSize) 0 q.data }, w)
    | none => (s, w)
  else
    let s := { s with mem := memWrite pa data s.mem }
    let sh := [0, 1, 2, 3].filter fun d => (s.l2At ln).sharers.getLsbD d
    if sh.isEmpty then (s, w)
    else ((sh.map fun d => ({ kind := .inv, line := ln, r := d } : CMsg)).foldl State.send
      (s.modL2 ln fun l => { l with busy := true, txn := none, wait := sh.length }), w)

/-! ## The directory's messages (R336) -/

/-- Home takes a request of a die; it waits while the line is busy, or while the directory cache has no room for it. An Upgrade returns
the rts of the replica (R335, R336, R338). -/
def State.takeReq (s : State) (k : MKind) (ln r : Nat) (own : Bool) : State :=
  match s.arrived k ln r with
  | none => s
  | some m =>
    if ((tfind s.coh.l2 ln).isSome && (s.l2At ln).busy) || s.dirFull ln then s
    else
      let s := ((s.unsend k ln r).ensureLine ln r (m.ac.getD 0) m.ac.isSome).dirRoom ln
      (if k = .upgrade then s.returned ln m.wts m.rts else s).startTxn ln r own (decide (k = .upgrade))

/-- READS (R336). -/
def execReads (line r : Nat) (s : State) : Out := .next (s.takeReq .readS line r false)

/-- READOWN (R336). -/
def execReadown (line r : Nat) (s : State) : Out := .next (s.takeReq .readOwn line r true)

/-- UPGRADE: a die that holds nothing any more is served as by ReadOwn (R336). -/
def execUpgrade (line r : Nat) (s : State) : Out := .next (s.takeReq .upgrade line r true)

/-- EVICTC: a die evicts a replica in S or E; then home removes it (R336). -/
def execEvictc (line r : Nat) (s : State) : Out :=
  match s.msgOf .evictC line r with
  | some m =>
    if (s.arrived .evictC line r).isNone || (s.l2At line).busy then .next s
    else .next (((s.unsend .evictC line r).returned line m.wts m.rts).modL2 line (·.drop r))
  | none =>
    match s.repAt line r with
    | some q =>
      if s.asking line r || !(q.st == .s || q.st == .e) then .next s else .next (s.dropRep line r q)
    | none => .next s

/-- WRITEBACK: a die evicts a replica in M or O; then home takes the data if the die still owns the line, and
acknowledges. It waits only for a transaction that awaits the die's own response (R336). -/
def execWriteback (line r : Nat) (s : State) : Out :=
  match s.msgOf .writeBack line r with
  | some m =>
    if (s.arrived .writeBack line r).isNone || s.waitsThere m then .next s
    else
      let s := if (s.l2At line).owner = some r then
          ({ s with mem := memWrite (lineSize * line) m.bytes s.mem } : State).modL2 line (·.drop r) else s
      .next ((s.unsend .writeBack line r).returned line m.wts m.rts)
  | none =>
    match s.repAt line r with
    | some q =>
      if s.asking line r || !(q.st == .m || q.st == .o) then .next s else .next (s.dropRep line r q)
    | none => .next s

/-- The owner answers a FwdS: it sends its data to the requester and keeps O (from M or O) or S (from E); an owner that has
evicted answers from its write-back buffer, and home takes the data (R336). -/
def State.fwdsDone (s : State) (line r : Nat) : State :=
  let s := s.unsend .fwdS line r
  let s := match s.repAt line r with
    | some q =>
      let st' : Moes := match q.st with
        | .m | .o => Moes.o
        | _ => Moes.s
      ((s.setRep line r { q with st := st' }).returned line q.wts q.rts).modL2 line fun l =>
        if st' = Moes.o then { l with ox := false }
        else { l with owner := none, sharers := l.sharers ||| BitVec.ofNat 4 (2 ^ r) }
    | none => ((s.returnedBy line r).settleWb line).modL2 line (·.drop r)
  s.modL2 line (fun l => { l with wait := l.wait - 1 }) |>.send
    { kind := .data, line, r := ((s.l2At line).txn.getD (0, false)).1, bytes := s.lineBytes line,
      wts := (s.l2At line).wts, rts := (s.l2At line).rts, st := .s, src := some r } |>.modL2 line fun l =>
      { l with busy := false, txn := none,
               sharers := l.sharers ||| BitVec.ofNat 4 (2 ^ (l.txn.getD (0, false)).1) }

/-- The owner answers a FwdOwn: it gives up its data and goes to I (R336). -/
def State.fwdownDone (s : State) (line r : Nat) : State :=
  ((((s.unsend .fwdOwn line r).returnedBy line r).recallFrom line r).settleWb line).modL2 line (·.drop r) |>.answered line

/-- FWDS (R336). -/
def execFwds (line r : Nat) (s : State) : Out :=
  if (s.arrived .fwdS line r).isNone || s.awaits line r then .next s else .next (s.fwdsDone line r)

/-- FWDOWN (R336). -/
def execFwdown (line r : Nat) (s : State) : Out :=
  if (s.arrived .fwdOwn line r).isNone || s.awaits line r then .next s else .next (s.fwdownDone line r)

/-- Stores of every context that wait for their package point on a line are brought to at least `w` (R338). -/
def State.bringTimes (s : State) (ln : Nat) (w : BitVec 24) : State :=
  let ctl := s.ctl.map fun (e : Nat × Ctl) => (e.1, { e.2 with wb := e.2.wb.map fun q =>
    if q.1 = ln then (q.1, later q.2 w) else q })
  let up := fun (f : Nat × InFlight) =>
    match f.2.phase, f.2.pa with
    | .applied t, some (pa, _) => if pa / lineSize = ln then (f.1, { f.2 with phase := .applied (later t w) }) else f
    | _, _ => f
  let ctxs := s.ctxs.map fun (e : Nat × Ctx) => (e.1, { e.2 with infl := e.2.infl.map up })
  { s with ctl := ctl, ctxs := ctxs }

/-- An Inv of the line is on its way. -/
def State.invOut (s : State) (ln : Nat) : Bool := s.coh.msgs.any fun m => m.kind == .inv && m.line == ln

/-- A control core's stores that have reached the package point take the acknowledgement's time, where its jump keeps the
bound of R232 (R229, R338). -/
def State.ackCtl (s : State) (n : Nat) : State :=
  (s.ctlAt n).wb.foldl (fun s q =>
    if s.invOut q.1 || !s.jumpOk (512 + n) q.2 then s
    else (s.raiseLt (512 + n) q.2).modCtl n fun c => { c with wb := c.wb.filter (· != q) }) s

/-- A replica answers an Inv: it is invalidated, and the response returns the greatest rts it has granted (R336, R338). -/
def State.invDone (s : State) (line r : Nat) : State :=
  let rts := match s.repAt line r with
    | some q => some q.rts
    | none => s.evictRts line r
  let s := ((s.unsend .inv line r).delRep line r).modL2 line (·.drop r)
  let s := match rts with
    | some t => ((s.returned line (s.l2At line).wts t).bringTimes line (t + 1))
    | none => s
  s.answered line

/-- INV (R336, R338). -/
def execInv (line r : Nat) (s : State) : Out :=
  if (s.arrived .inv line r).isNone || s.awaits line r then .next s else .next (s.invDone line r)

/-- The state with bank `x`'s access `id` at `f`. -/
def State.setInfl (s : State) (x id : Nat) (f : InFlight) : State :=
  s.modCtx x fun k => { k with infl := tput id f k.infl }

/-- A store or REL performed at its slice; of a 16-byte store one of its two words, which R219 has apart: the first, and at
the next act the second (R223, R226, R229, R337). -/
def State.applyPart (s : State) (x id : Nat) (f : InFlight) (pa die : Nat) (rep : Bool) : State :=
  if f.size = 16 ∧ f.half = false then
    let s := (s.applyStore (.bank x f.epoch) die rep f.time pa (f.data.take 8)).1
    s.setInfl x id { f with half := true, phase := .issued }
  else
    let n := if f.half then 8 else 0
    let (s, w) := s.applyStore (.bank x f.epoch) die rep f.time (pa + n) (f.data.drop n)
    s.setInfl x id { f with phase := .applied w }

/-- Stores of die `die` that wait for the ownership of a line are applied (R336). One whose line the host holds waits for
the back-invalidation (R346). -/
def State.applyOwn (s : State) (ln die : Nat) : State :=
  (s.ctxs.map Prod.fst).foldl (fun s x =>
    ((s.ctxAt x).infl.filter fun e => e.2.phase == .own).foldl (fun s e =>
      match e.2.pa with
      | some (pa, _) =>
        if pa / lineSize = ln ∧ dieOfPhys (s.physOf x e.2.core) = die then
          (match s.claim ln with
           | (s, true) => s.applyPart x e.1 e.2 pa die true
           | (s, false) => s)
        else s
      | none => s) s) s

/-- The store of control core `n`, while its word still waits to have it applied. -/
def Ctl.waitingStore (c : Ctl) : Option CtlStore := if c.t.iss.isSome then c.store else none

/-- For which context a control core's write is logged: the one its access at user level acts for (R325, log 33). -/
def State.ctlBank (s : State) (n : Nat) : Option Nat :=
  let c := s.ctlAt n
  if c.pl != .user then none
  else (s.ctxs.find? fun e => e.2.st != .free && e.2.root.en && e.2.root.sid == c.uroot.sid).map Prod.fst

/-- As `who` of a write of control core `n` (R325). -/
def State.ctlWho (s : State) (n : Nat) : Who :=
  match s.ctlBank n with
  | some x => .bank x (s.ctxAt x).ckpt.intv
  | none => .nobody

/-- A control core's store that waits for its die's ownership of a line is applied; its word goes on when it is issued again (R336). -/
def State.applyCtl (s : State) (n : Nat) (q : CtlStore) : State :=
  let core := 512 + n
  let (s, w) := s.applyStore (s.ctlWho n) (dieOfPhys core) true (s.coreAt core).lt q.pa q.data
  s.modCtl n fun c => { c with store := some { q with own := false, wts := some w } }

/-- The stores of die `die` that wait for the ownership of a line are applied, those of its compute cores and of its control cores
(R336, R346). -/
def State.applyHeld (s : State) (ln die : Nat) : State :=
  (s.ctl.map Prod.fst).foldl (fun s n =>
    match (s.ctlAt n).waitingStore with
    | some q =>
      if q.own && q.pa / lineSize == ln && dieOfPhys (512 + n) == die then
        (match s.claim ln with
         | (s, true) => s.applyCtl n q
         | (s, false) => s)
      else s
    | none => s) (s.applyOwn ln die)

/-- A replica receives ownership and applies its held stores (R336, R338). -/
def State.grantDone (s : State) (line r : Nat) (m : CMsg) : State :=
  let s := s.unsend .grantM line r
  match s.repAt line r with
  | some q => (s.setRep line r { q with st := .m, wts := m.wts, rts := m.rts }).applyHeld line r
  | none => s

/-- A replica receives data with its timestamps and enters S, E or M, in a slice of its die that has room; under ownership
it applies its held stores (R334, R336, R338). -/
def State.dataDone (s : State) (line r : Nat) (m : CMsg) : State :=
  let s := s.unsend .data line r
  let s := if (s.repAt line r).isSome then s else s.makeRoom (32 * r + sliceOf (lineSize * line))
  let s := s.setRep line r { st := m.st, data := m.bytes, wts := m.wts, rts := m.rts }
  if m.st = .m then s.applyHeld line r else s

/-- GRANTM (R336, R338). -/
def execGrantm (line r : Nat) (s : State) : Out :=
  match s.arrived .grantM line r with
  | none => .next s
  | some m => .next (s.grantDone line r m)

/-- DATA_MESSAGE (R336, R338). -/
def execDataMessage (line r : Nat) (s : State) : Out :=
  match s.arrived .data line r with
  | none => .next s
  | some m => .next (s.dataDone line r m)

/-! ## Writes performed at once -/

/-- A snoop, grant or data message on its way is taken, where it is not held (R336). -/
def State.deliver (s : State) (m : CMsg) : State :=
  let held := s.awaits m.line m.r
  match m.kind, s.msgOf m.kind m.line m.r with
  | .inv, some _ => if held then s else s.invDone m.line m.r
  | .fwdS, some _ => if held then s else s.fwdsDone m.line m.r
  | .fwdOwn, some _ => if held then s else s.fwdownDone m.line m.r
  | .grantM, some g => s.grantDone m.line m.r g
  | .data, some g => s.dataDone m.line m.r g
  | _, _ => s

/-- Every snoop, grant and data message that was sent before one of the line is taken in the order of their sending, which keeps the
order of every channel (R332). -/
def State.drain (s : State) (ln : Nat) : State :=
  (s.coh.msgs.reverse.dropWhile fun m => m.line != ln).reverse.foldl State.deliver s

/-- The transaction in progress on a line comes to its end, its grants and snoops arriving, so that the next one finds the
line not busy (R336, log 12). -/
def State.quiesce (s : State) (ln : Nat) : State := ((s.drain ln).drain ln).drain ln

/-- The line at home for a write of a unit of die `die` for partition `p`, counted under AC: in L2, the transaction in progress ended,
recalled from every die (R215, R336). -/
def State.homeLine (s : State) (ln die p : Nat) (ac : Bool) : State :=
  ((s.ensureLine ln die p ac).quiesce ln).recallLine ln

/-- Who makes an access performed at once: the die it comes from, the partition it is counted for, and whether its leaf has AC set
(R214, R215). -/
structure From where
  die : Nat := 0
  p   : Nat := 0
  ac  : Bool := false

/-- A write of a unit whose accesses are performed at once (walker, engine, Fixer, host, Herbor port, network interface):
it follows the transaction in progress, the line is recalled from every die, and the store applied at home; the host has given the
line up before (R336, R337, R346, log 12). Answers the new wts. -/
def State.homeWrite1 (s : State) (who : Who) (t : Option (BitVec 24)) (pa : Nat) (data : List Byte) (fr : From := {}) :
    State × BitVec 24 :=
  let ln := pa / lineSize
  let s := (s.homeLine ln fr.die fr.p fr.ac).logWrite who pa data.length
  let r := (s.l2At ln).rts + 1
  let w := later (t.getD r) r
  let s := s.modL2 ln fun l => { l with wts := w, rts := w }
  ({ s with mem := memWrite pa data s.mem }, w)

/-- The bytes of a write cut at line boundaries: fuel, address, bytes. -/
def lineRuns : Nat → Nat → List Byte → List (Nat × List Byte)
  | 0, _, _ => []
  | _ + 1, _, [] => []
  | f + 1, pa, data =>
    let n := lineSize - pa % lineSize
    (pa, data.take n) :: lineRuns f (pa + n) (data.drop n)

/-- A write of any length performed at once, line by line. -/
def State.homeWrite (s : State) (who : Who) (t : Option (BitVec 24)) (pa : Nat) (data : List Byte) (fr : From := {}) : State :=
  (lineRuns data.length pa data).foldl (fun s e => (s.homeWrite1 who t e.1 e.2 fr).1) s

/-- The lines that `n` bytes from an address touch. -/
def linesOf (pa n : Nat) : List Nat :=
  if n = 0 then [] else (List.range ((pa + n - 1) / lineSize - pa / lineSize + 1)).map (pa / lineSize + ·)

/-! ## Filling a line (R229) -/

/-- MEMORY_FILL: a line enters L2 for a requesting die, after a victim of the same slice has left (R229). -/
def execMemoryFill (line : Nat) (victim : Option Nat) (req : Nat) (ac : Bool) (s : State) : Out :=
  let s := match victim with
    | some v =>
      if v = line || sliceKey v != sliceKey line || (tfind s.coh.l2 v).isNone || !s.quiet v then s else s.evictLine v
    | none => s
  if s.boot.stage = .off then .next s else .next (s.ensureLine line req 0 ac)

end Sys2Proof.Machine
end

