-- ==== Sys2Proof/Machine/Operands.lean ====
section
/-! DEFINITION. Sys2Proof/Machine/Operands.lean: the operand forms of words: register forms of format A, and the
address forms of format M (R58, R59, R237). -/

namespace Sys2Proof.Machine

/-- Format A with one destination and two sources (R72). -/
def alu3 (i : Instr) (pg : BitVec 3) (d a b : BitVec 7) (s : State) (hu : HintUse) (f : Hints → Word → Word → Word) :
    Out :=
  regWord { i, pg, gs := [d.toNat, a.toNat, b.toNat], hu } s fun th =>
    th.setG d.toNat (f th.hints (th.gr a.toNat) (th.gr b.toNat))

/-- Format A with one destination, two sources, and the destination read too (MAD, BFI, PRMT). -/
def alu3d (i : Instr) (pg : BitVec 3) (d a b : BitVec 7) (s : State) (hu : HintUse)
    (f : Hints → Word → Word → Word → Word) : Out :=
  regWord { i, pg, gs := [d.toNat, a.toNat, b.toNat], hu } s fun th =>
    th.setG d.toNat (f th.hints (th.gr d.toNat) (th.gr a.toNat) (th.gr b.toNat))

/-- One destination and one source, with the pending hints (R73, R76, R77). -/
def alu2 (i : Instr) (pg : BitVec 3) (d a : BitVec 7) (s : State) (hu : HintUse) (f : Hints → Word → Word) : Out :=
  regWord { i, pg, gs := [d.toNat, a.toNat], hu } s fun th => th.setG d.toNat (f th.hints (th.gr a.toNat))

/-- Byte size of an access (R238). -/
def szBytes : Sz → Nat
  | .u8 | .s8 => 1
  | .u16 | .s16 => 2
  | .w32 => 4
  | .w64 => 8
  | .w128 => 16

/-- The g-registers an access size covers from D (R238). -/
def szRegs (s : Sz) (d : Nat) : List Nat :=
  match s with
  | .w64 => [d, d + 1]
  | .w128 => [d, d + 1, d + 2, d + 3]
  | _ => [d]

/-- The effective address of format M (R237). -/
def effAddr (th : Thread) (r : BitVec 3) (m : Am) (o : BitVec 8) (size : Nat) : Dword :=
  match m with
  | .offset => th.ar r.toNat + BitVec.ofInt 64 (th.hints.imm o * size)
  | .postInc | .modulo => th.ar r.toNat
  | .indexed =>
    th.ar r.toNat + BitVec.ofInt 64 ((th.gr (o.extractLsb' 1 7).toNat).toInt * (if o.getLsbD 0 then 1 else size))

/-- LEN and OFS of a modulo register (R12). -/
def winLen (m : Dword) : Nat := (m.extractLsb' 32 32).toNat

/-- OFS of a modulo register (R12). -/
def winOfs (m : Dword) : Nat := (m.extractLsb' 0 32).toNat

/-- The window of a modulo register may be used by an access of `size` bytes (R12). -/
def winOk (m : Dword) (size : Nat) : Bool :=
  winLen m != 0 && winLen m % size == 0 && decide (winOfs m < winLen m)

/-- The register update of format M (R12, R237); none in modes 00 and 11. -/
def postUpdate (th : Thread) (r : BitVec 3) (m : Am) (o : BitVec 8) (size : Nat) : Thread :=
  match m with
  | .postInc => th.setA r.toNat (th.ar r.toNat + BitVec.ofInt 64 (th.hints.imm o * size))
  | .modulo =>
    let w := th.mr r.toNat
    let new := (((winOfs w : Int) + th.hints.imm o * size) % (winLen w : Int)).toNat
    (th.setA r.toNat (th.ar r.toNat - BitVec.ofNat 64 (winOfs w) + BitVec.ofNat 64 new)).setM r.toNat
      (w.extractLsb' 32 32 ++ BitVec.ofNat 32 new)
  | _ => th

/-- The registers format M names beside its data: the index register, and the address and modulo registers. -/
def mIndex (m : Am) (o : BitVec 8) : List Nat :=
  match m with
  | .indexed => [(o.extractLsb' 1 7).toNat]
  | _ => []

/-- The address and modulo registers format M uses (R16, R237). -/
def mRegs (r : BitVec 3) (m : Am) : List PReg :=
  match m with
  | .modulo => [.a r.toNat, .m r.toNat]
  | _ => [.a r.toNat]

/-- An address is canonical (R11). -/
def canonical (a : Dword) : Bool := a == (a.extractLsb' 0 57).signExtend 64

end Sys2Proof.Machine
end

