-- ==== Sys2Proof/Machine/Translate.lean ====
section
/-! DEFINITION. Sys2Proof/Machine/Translate.lean: page tables, TLBs, the checks of a leaf, fault records
(R195 to R204, R211, R340, R341). -/

namespace Sys2Proof.Machine

/-! ## Walks (R197 to R199) -/

/-- A leaf found by a walk: the entry, its address and the page size. -/
structure Leaf where
  e    : BitVec 64
  at'  : Nat
  size : Nat
  deriving DecidableEq, Repr

/-- What a walk answers: a leaf, or where it stopped and whether the entry is malformed (R199, R211). -/
inductive WalkRes where
  | leaf (l : Leaf)
  | stop (malformed : Bool) (level : Nat)
  deriving DecidableEq, Repr

/-- PA of an entry (R198). -/
def ptePa (e : BitVec 64) : Nat := (e.extractLsb' 12 40).toNat * 4096

/-- CC of a leaf (R198). -/
def pteCc (e : BitVec 64) : BitVec 2 := e.extractLsb' 9 2

/-- The bits in which the entries of a CONT group must agree: all but SW, D and A (R199). -/
def contMask : BitVec 64 := 0x07FFFFFFFFFFFF3F

/-- An entry of a table, read at its point of application (R197); of a table in the host range it is open while CXL.cache is not
offered (R350, log 81). A table at an address that is no memory of the package reads as the bytes listed there (log 84). -/
def State.pte (s : State) (a : Nat) : BitVec 64 :=
  if s.hostOff a then Config.offEntry s.fresh a else BitVec.ofNat 64 (leVal (s.curRead a 8))

/-- The checks of a leaf at level `n` (R199, R340). -/
def State.leafAt (s : State) (a : Nat) (e : BitVec 64) (n : Nat) : WalkRes :=
  let cont := e.getLsbD 8
  let size := 4096 * 512 ^ n * (if cont then 16 else 1)
  let pa := ptePa e
  if 2 < n || pa % size != 0 || (regionOf pa == some .herbor && pa % 2 ^ 42 != 0) ||
      (cont && !(List.range 16).all fun k => (s.pte (a - a % 128 + 8 * k)) &&& contMask == e &&& contMask) ||
      !pageAssigned pa size then .stop true n
  else .leaf { e, at' := a, size }

/-- Walks from the table at `tbl` down from level `n - 1` (R197 to R199). -/
def State.walk (s : State) (va : Nat) : Nat → Nat → WalkRes
  | 0, _ => .stop true 0
  | n + 1, tbl =>
    let a := tbl + 8 * (va / 2 ^ (12 + 9 * n) % 512)
    let e := s.pte a
    if !e.getLsbD 0 then .stop false n
    else if e.extractLsb' 52 7 != 0 then .stop true n
    else if e.getLsbD 1 then s.leafAt a e n
    else if e.extractLsb' 2 10 != 0 || n = 0 then .stop true n
    else s.walk va n (ptePa e)

/-! ## The checks of an access (R200) -/

/-- What an access asks of its translation. -/
structure XReq where
  die   : Nat
  root  : Root
  user  : Bool
  /-- The physical core whose TLB is asked first; a unit of the die has none (R203). -/
  core  : Option Nat := none
  /-- A control core at kernel or monitor level (R352). -/
  priv  : Bool := false
  rd    : Bool := false
  wr    : Bool := false
  ex    : Bool := false
  /-- The scope an ATOM, ACQ or REL needs the class to allow: 0 die to 3 system (R67, R221, R341). -/
  scope : Option Nat := none
  /-- Sets A, and D for a write, and counts (R214). -/
  marks : Bool := true

/-- The outcome of a translation: the physical address with class and AC; a fault record's kind, level and page size; a trap; or a wait,
while the host holds the line of the entry whose A or D is to be set (R202, R346). -/
inductive XRes where
  | ok (s : State) (pa : Nat) (cc : BitVec 2) (ac : Bool)
  | wait (s : State)
  | flt (kind level size : Nat)
  | trap (cause : Nat)

/-- The class allows the scope (R67, R201); an address of the Herbor window needs domain or system (R341). -/
def scopeOk (cc : BitVec 2) (herbor : Bool) (sc : Nat) : Bool :=
  (cc == 2 || (cc == 1 && decide (sc ≤ 2)) || sc == 0) && (!herbor || decide (2 ≤ sc))

/-- The rows of R200 after the first, for a leaf at physical address `pa`: none when the access may go on. -/
def leafCheck (q : XReq) (e : BitVec 64) (pa : Nat) : Option (Nat ⊕ Nat) :=
  let cc := pteCc e
  let reg := regionOf pa
  if cc = 3 then some (.inl 0x0A)
  else if reg = some .host ∧ cc ≠ 2 then some (.inl 0x0A)
  else if reg = some .herbor ∧ cc = 0 then some (.inl 0x0A)
  else if reg = some .config ∧ !(q.priv && cc == 2 && !e.getLsbD 5) then some (.inl 0x08)
  else if q.user && !e.getLsbD 5 then some (.inl 0x08)
  else if (q.ex && !e.getLsbD 4) || (q.rd && !e.getLsbD 2) then some (.inl 0x08)
  else if q.wr && !e.getLsbD 3 then some (.inr 1)
  else match q.scope with
    | some sc => if scopeOk cc (reg == some .herbor) sc then none else some (.inl 0x09)
    | none => none

/-- The level of a page size (R199). -/
def levelOfSize (size : Nat) : Nat := if size < 2 ^ 21 then 0 else if size < 2 ^ 30 then 1 else 2

/-- Applies the outcome of the checks, for a page of `size` bytes. -/
def xOut (s : State) (q : XReq) (e : BitVec 64) (pa size : Nat) : XRes :=
  match leafCheck q e pa with
  | some (.inl c) => .trap c
  | some (.inr k) => .flt k (levelOfSize size) size
  | none => .ok s pa (pteCc e) (e.getLsbD 11)

/-- The entries of a TLB (R203). -/
def TlbUnit.size : TlbUnit → Nat
  | .core _ => 64
  | .cluster _ => 2048
  | .die _ => 12288

/-- The TLBs an access asks, in order: a compute core's, its cluster's, the die's (R203). -/
def XReq.units (q : XReq) : List TlbUnit :=
  match q.core with
  | some c => if c < 512 then [.core c, .cluster (c / 4), .die q.die] else [.core c, .die q.die]
  | none => [.die q.die]

/-- The entry serves the access: one with D = 0 does not serve a write (R202, R203). -/
def TlbE.serves (t : TlbE) (q : XReq) (va : Nat) : Bool :=
  t.sid == q.root.sid && decide (t.base ≤ va) && decide (va < t.base + t.size) && (!q.wr || t.leaf.getLsbD 7)

/-- The TLB entry that serves an access: a miss at one level looks up the next (R203). -/
def State.tlbHit (s : State) (q : XReq) (va : Nat) : Option TlbE :=
  q.units.findSome? fun u => s.tr.tlb.find? fun t => t.own == u && t.serves q va

/-- An entry enters a TLB; where that is full, an entry of the hardware's choice leaves it (R203, log 18). -/
def State.tlbPut (s : State) (t : TlbE) : State :=
  let rest := s.tr.tlb.filter fun u => !(u.own == t.own && u.sid == t.sid && u.base == t.base && u.size == t.size)
  let mine := rest.filter fun u => u.own == t.own
  if mine.length < t.own.size then { s with tr := { s.tr with tlb := t :: rest } }
  else
    let (v, s) := s.pick mine
    { s with tr := { s.tr with tlb := t :: rest.filter fun u => some u != v } }

/-- A leaf enters the TLBs the access asked before it was found, `n` of them (R203). -/
def State.tlbFill (s : State) (q : XReq) (n : Nat) (t : TlbE) : State :=
  (q.units.take n).foldl (fun s u => s.tlbPut { t with own := u }) s

/-- The walker's atomic OR into the entry at `a`, which reads `e` (R202): none of it where the entry has the bits, or where the host
range is not offered; no state to go on with while the host holds its line (R346, R350). -/
def State.markEntry (s : State) (a : Nat) (e e' : BitVec 64) : State × Bool :=
  if e' = e || s.hostOff a then (s, true)
  else
    match s.claim (a / lineSize) with
    | (s, false) => (s, false)
    | (s, true) => (s.homeWrite .nobody none a (leBytes e'.toNat 8), true)

/-- Translates an address through the TLB or a walk, and makes the checks of R200. A walk that ends in a used leaf sets
A and D in the entry it indexed, and its leaf enters the TLBs that missed (R197 to R203). -/
def State.translate (s : State) (q : XReq) (va : Dword) : XRes :=
  let v := va.toNat % 2 ^ 57
  match s.tlbHit q v with
  | some t =>
    match xOut s q t.leaf (ptePa t.leaf + (v - t.base)) t.size with
    | .ok s pa cc ac => .ok (if q.marks then s.tlbFill q (q.units.idxOf t.own) t else s) pa cc ac
    | r => r
  | none =>
    match s.walk v 5 (q.root.root.toNat * 4096) with
    | .stop m n => .flt (if m then 2 else 0) n 4096
    | .leaf l =>
      match xOut s q l.e (ptePa l.e + v % l.size) l.size with
      | .ok s pa cc ac =>
        if !q.marks then .ok s pa cc ac
        else
          let e' := l.e ||| 0x40 ||| (if q.wr then 0x80 else 0)
          match s.markEntry l.at' l.e e' with
          | (s, false) => .wait s
          | (s, true) =>
            .ok (s.tlbFill q 3 { own := .die q.die, sid := q.root.sid, base := v - v % l.size, size := l.size, leaf := e' }) pa cc ac
      | r => r

/-! ## Roots (R195, R196) -/

/-- A root from a written word; none when an RSV field is not zero (R196). -/
def Root.ofWord (v : Dword) : Option Root :=
  if v.extractLsb' 41 7 != 0 then none
  else some { sid := v.extractLsb' 48 16, en := v.getLsbD 40, root := v.extractLsb' 0 40 }

/-- A root as its register reads (R196). -/
def Root.word (r : Root) : Dword := r.sid ++ 0#7 ++ BitVec.ofBool r.en ++ r.root

/-- The root of the context that the package holds under a SID (R340). -/
def State.ctxRoot (s : State) (sid : BitVec 16) : Option Root :=
  ((s.ctxs.filter fun e => e.2.st != .free).map fun e => e.2.root).find? fun r => r.en && r.sid == sid

/-- The root under which a SID translates: a context's, else a control core's (R195). -/
def State.rootOf (s : State) (sid : BitVec 16) : Option Root :=
  (s.ctxRoot sid).or (((s.ctl.map fun e => e.2.uroot) ++ (s.ctl.map fun e => e.2.kroot)).find? fun r => r.en && r.sid == sid)

/-- The partition whose context has a SID; 0 when none has. -/
def State.partOfSid (s : State) (sid : BitVec 16) : Nat :=
  match s.ctxs.find? fun e => e.2.st != .free && e.2.root.en && e.2.root.sid == sid with
  | some e => e.1 / 2
  | none => 0

/-- Page-fault cause of an access (R25). -/
def pfCause (q : XReq) : Nat := if q.ex then 0x05 else if q.wr then 0x07 else 0x06

/-- Translates for a control core, with EN = 0 by the implied leaf of R196; a fault record is a trap (R26, R200). -/
def State.xCtl (s : State) (n : Nat) (q : XReq) (va : Dword) : XRes :=
  let c := s.ctlAt n
  let user := c.pl == .user
  let r := if user then c.uroot else c.kroot
  let q := { q with die := n / 5, root := r, user, priv := !user, core := some (512 + n) }
  let res :=
    if r.en then s.translate q va
    else if user then .flt 0 0 4096
    else if va.extractLsb' 52 5 != 0 then .trap 0x04
    else if (regionOf (va.toNat % 2 ^ 52)).isNone then .flt 2 0 4096
    else
      match q.scope with
      | some sc =>
        if scopeOk 2 (regionOf (va.toNat % 2 ^ 52) == some .herbor) sc then .ok s (va.toNat % 2 ^ 52) 2 false else .trap 0x09
      | none => .ok s (va.toNat % 2 ^ 52) 2 false
  match res with
  | .flt _ _ _ => .trap (pfCause q)
  | x => x

/-! ## Leaves of the Herbor window (R340) -/

/-- An access through a leaf of the Herbor window: served by another package, at the address that names its byte there, or
translated again when the package is this one; refused with cause 0x08 where the package holds no context under the SID (R340). -/
def State.viaHerbor (q : XReq) (va : Dword) : XRes → XRes × Option Nat
  | .ok s pa cc ac =>
    if regionOf pa != some .herbor then (.ok s pa cc ac, none)
    else
      let p := pa / 2 ^ 42 % 256
      if BitVec.ofNat 8 p = Config.pkg then
        match s.ctxRoot q.root.sid with
        | none => (.trap 0x08, some p)
        | some r =>
          match s.translate { q with root := r, user := true, priv := false, scope := none } va with
          | .ok s' pa' cc' ac' => if regionOf pa' == some .herbor then (.trap 0x08, some p) else (.ok s' pa' cc' ac', some p)
          | x => (x, some p)
      else if Config.remote p q.root.sid.toNat then (.ok s (farAddr p q.root.sid.toNat va.toNat) cc ac, some p)
      else (.trap 0x08, some p)
  | x => (x, none)

/-! ## Fault records (R211) -/

/-- The ACCESS code of R211. -/
def accCode : Acc → Nat
  | .load => 0
  | .store => 1
  | .atomic => 2
  | .fetch => 3
  | .engRead => 4
  | .engWrite => 5
  | .fixer => 6
  | .herbor => 7
  | .cxlio => 8
  | .distributor => 9

/-- A fault joins the unanswered record of its page on its die, or makes a new one; answers its tag (R211). `size` is the
size of the page where the walk found one. A record that stands in the ring keeps its WAITERS there, and the tags count on (log 88). -/
def State.addFault (s : State) (p : Nat) (sid : BitVec 16) (kind level : Nat) (acc : Acc) (va : Dword) (die core : Nat)
    (size : Nat := 4096) : State × Nat :=
  let same := fun (r : FRec) => !r.notice && r.die == die && r.sid == sid && r.addr.toNat / r.size == va.toNat / r.size
  match s.tr.recs.find? same with
  | some r =>
    let recs := s.tr.recs.map fun u => if same u then { u with waiters := min 4095 (u.waiters + 1) } else u
    ({ s with tr := { s.tr with recs := recs } }, r.tag)
  | none =>
    let r : FRec := { tag := s.tr.nextTag, p := p, sid := sid, kind := kind, acc := accCode acc, waiters := 1, level := level,
                      addr := va, die := die, core := core, size := size }
    ({ s with tr := { s.tr with recs := s.tr.recs ++ [r], nextTag := (s.tr.nextTag + 1) % 65536 } }, r.tag)

/-- PAGE_WALK: a walk for a SID on a die completes, and its leaf replaces the die's copy; of the copies its cores and
clusters hold, the hardware may have replaced any (R197, R203, log 17). -/
def execPageWalk (die sid : Nat) (va : BitVec 64) (acc : Acc) (s : State) : Out :=
  let id := BitVec.ofNat 16 sid
  match s.rootOf id with
  | none => .next s
  | some r =>
    let v := va.toNat % 2 ^ 57
    let (gone, s) := s.takeFree
    let stays := fun (e : TlbE × Nat) => !(e.1.sid == id && decide (e.1.base ≤ v) && decide (v < e.1.base + e.1.size)) ||
      (e.1.own != .die die && !gone.getLsbD (e.2 % 64))
    let s : State := { s with tr := { s.tr with tlb := (s.tr.tlb.zipIdx.filter stays).map Prod.fst } }
    let w := [Acc.store, .atomic, .engWrite].contains acc
    match s.translate { die, root := r, user := false, rd := !w && acc != .fetch, wr := w, ex := acc == .fetch } va with
    | .ok s _ _ _ | .wait s => .next s
    | _ => .next s

end Sys2Proof.Machine
end

