-- ==== Sys2Proof/Machine/Faults.lean ====
section
/-! DEFINITION. Sys2Proof/Machine/Faults.lean: the fault queue and the kernel's answers, the configuration window, roots,
shootdowns (R196, R204, R211 to R213, R331, R352, R353). -/

namespace Sys2Proof.Machine

/-! ## Helpers -/

/-- The die of a partition's first core. -/
def State.partDie (s : State) (p : Nat) : Nat :=
  match (s.partAt p).cfg with
  | some g => g.first / 128
  | none => 0

/-- A queue of engine commands (R261). -/
def CtxCore.q (k : CtxCore) : EngQ → List Cmd
  | .matrix => k.matrix
  | .copy => k.copy
  | .chain => k.chain
  | .scout => k.scout

/-- The core with a queue of engine commands at `l`. -/
def CtxCore.setQ (k : CtxCore) (q : EngQ) (l : List Cmd) : CtxCore :=
  match q with
  | .matrix => { k with matrix := l }
  | .copy => { k with copy := l }
  | .chain => { k with chain := l }
  | .scout => { k with scout := l }

/-- The engine of R265 that runs a command of a queue. -/
def engineOf (q : EngQ) (c : Cmd) : Nat :=
  match q with
  | .matrix => 0
  | .copy => 1
  | .chain => 2
  | .scout => match c.op with
    | .dodge _ _ _ _ => 4
    | _ => 3

/-- A backing address: BADDR << 11, sign-extended from bit 56 (R186). -/
def backAddr (b : BitVec 46) : Dword := ((b ++ 0#11).extractLsb' 0 57).signExtend 64

/-- The bank holds the running context of its partition, not halted (R213). -/
def State.runs (s : State) (x : Nat) : Bool :=
  (s.partAt (x / 2)).active == some (x % 2) && (s.ctxAt x).halt.isNone && !(s.ctxAt x).ckpt.roll

/-- The launch-rejected interrupt (R165, R167). -/
def State.rejected (s : State) (p : Nat) : State := s.raiseIrq (s.partDie p) 8

/-! ## Answering a fault record (R212) -/

/-- One merged access's cause by what it does (R212). -/
def inflCause (f : InFlight) : Nat :=
  match f.op with
  | .st _ _ _ _ _ _ | .atom _ _ _ _ _ _ | .rel _ _ _ _ => 0x07
  | .illegalInstruction _ => 0x05
  | _ => 0x06

/-- The accesses of bank `x` in the operand log that wait for `tag` (R207, R212). -/
def State.respondLog (s : State) (x tag : Nat) (err : Bool) : State :=
  let hit := (s.ctxAt x).infl.filter fun e => e.2.phase == .logged tag
  let up := fun (e : Nat × InFlight) => if e.2.phase == .logged tag then (e.1, { e.2 with phase := .replay }) else e
  let s := s.modCtx x fun k => { k with infl := k.infl.map up }
  if err then hit.foldl (fun s e => s.unitTrap x e.2.core e.2.slot 0 e.2.pc (inflCause e.2) e.2.ea) s else s

/-- The bank of a partition that is active, where it is another than bank `x`. -/
def State.otherActive (s : State) (x : Nat) : Option Nat :=
  match (s.partAt (x / 2)).active with
  | some b => if b = x % 2 then none else some (x / 2 * 2 + b)
  | none => none

/-- The scratchpad-backing trap of a transfer of bank `x`: it halts the partition, the running context with one that is being saved
(R186, R313). -/
def State.fixerTrap (s : State) (x c : Nat) (t : Xfer) (b : BitVec 46) : State :=
  let first := (s.ctxAt x).halt.isNone
  let s := s.modCore x c fun k => { k with failed := if first then some t else k.failed.or (some t) }
  let s := s.unitTrap x c 0 7 0 0x24 (backAddr b)
  match s.otherActive x with
  | some y => s.unitTrap y c 0 7 0 0x24 (backAddr b)
  | none => s

/-- The Fixer transfers of a core that wait for `tag` (R186, R212). -/
def State.respondFixer (s : State) (x c tag : Nat) (err : Bool) : State :=
  let k := (s.ctxAt x).coreAt c
  let hit := k.xfers.filter fun t => t.tag == some tag
  let up := fun (t : Xfer) => if t.tag == some tag then { t with tag := none } else t
  let s := s.modCore x c fun k => { k with xfers := k.xfers.map up }
  if err then hit.foldl (fun s t =>
    s.fixerTrap x c t (tget {} ((s.ctxAt x).coreAt (t.home.getD c)).stt (t.bs, t.vpn)).baddr) s else s

/-- The Fixer transfers of a bank that wait for `tag` (R186, R212). -/
def State.respondFixers (s : State) (x tag : Nat) (err : Bool) : State :=
  ((s.ctxAt x).cores.map Prod.fst).foldl (fun s c => s.respondFixer x c tag err) s

/-- The commands of a core's queue that wait for `tag` (R209, R212). -/
def State.respondEngine (s : State) (x c : Nat) (q : EngQ) (tag : Nat) (va : Dword) (err : Bool) : State :=
  let hit := (((s.ctxAt x).coreAt c).q q).filter fun m => m.tags.contains tag
  let s := s.modCore x c fun k => k.setQ q ((k.q q).map fun m =>
    if m.tags.contains tag then { m with tags := m.tags.filter (· != tag), trapped := m.trapped || err } else m)
  if err then hit.foldl (fun s m => s.unitTrap x c m.slot (2 + engineOf q m) m.pc 0x2C va) s else s

/-- The counters of a bank that read 0 (R169). -/
def Ctx.zeroEv (k : Ctx) : BitVec 64 :=
  (List.range 64).foldl (fun m n => if tget 0 k.ev n = 0 then m ||| BitVec.ofNat 64 (2 ^ n) else m) 0

/-- A queue's records after its head has left: the next one reaches the head, and its binding finds the counters as they stand
(R169). -/
def HwQueue.pop (u : HwQueue) (zero : BitVec 64) : HwQueue :=
  match u.recs.drop 1 with
  | r :: l => { u with recs := { r with fired := zero } :: l }
  | [] => { u with recs := [] }

/-- The queue heads of bank `x` that wait for `tag`: RETRY reads again; ERROR rejects the launch, or denies the page of
a LIST 1 list (R118, R167, R212). -/
def State.respondQueues (s : State) (x tag : Nat) (va : Dword) (err : Bool) : State :=
  let hit := (s.ctxAt x).queues.filter fun e => e.2.recs.any fun r => r.tag == some tag
  hit.foldl (fun s e =>
    let drop := err && (e.2.recs.take 1).any fun r => r.tag == some tag && r.launch.isNone
    let up := fun (r : QRec) => if r.tag == some tag then
      { r with tag := none, denied := if err then va.toNat / 4096 :: r.denied else r.denied } else r
    let q' := if drop then e.2.pop (s.ctxAt x).zeroEv else { e.2 with recs := e.2.recs.map up }
    let s := s.modCtx x fun k => { k with queues := tput e.1 q' k.queues }
    if drop then s.rejected (x / 2) else s) s

/-- COUNT of a bin's entry (R174). -/
def binCount (e : BitVec 128) : Nat := (e.extractLsb' 108 11).toNat

/-- A bin without the records of one launch, its oldest, at most COUNT: its timer restarts for those that remain (R175). -/
def Bin.launched (u : Bin) (now : Nat) : Bin :=
  let r := u.recs.drop (min (binCount u.entry) u.recs.length)
  { u with recs := r, retry := false, tag := none, timer := if r.isEmpty then none else some now }

/-- The bins of bank `x` whose template's reading waits for `tag`: RETRY lets the bin try again; ERROR rejects the launch (R167,
R175, R212). -/
def State.respondBins (s : State) (x tag : Nat) (err : Bool) : State :=
  let hit := (s.ctxAt x).bins.filter fun e => e.2.tag == some tag
  hit.foldl (fun s e =>
    let u := if err then e.2.launched (s.bankNow x) else { e.2 with tag := none }
    let s := s.modCtx x fun k => { k with bins := tput e.1 u k.bins }
    if err then s.rejected (x / 2) else s) s

/-- Everything of bank `x` that waits for `tag` continues, or takes the error (R212). -/
def State.respond (s : State) (x tag : Nat) (va : Dword) (err : Bool) : State :=
  let s := ((s.respondLog x tag err).respondQueues x tag va err).respondBins x tag err
  ((s.ctxAt x).cores.map Prod.fst).foldl (fun s c =>
    [EngQ.matrix, .copy, .chain, .scout].foldl (fun s q => s.respondEngine x c q tag va err) (s.respondFixer x c tag err)) s

/-- Something of bank `x` waits for `tag`. -/
def Ctx.waitsOn (k : Ctx) (tag : Nat) : Bool :=
  k.infl.any (fun e => e.2.phase == .logged tag) || k.queues.any (fun e => e.2.recs.any fun r => r.tag == some tag) ||
  k.bins.any (fun e => e.2.tag == some tag) ||
  k.cores.any fun e => e.2.xfers.any (fun t => t.tag == some tag) ||
    [EngQ.matrix, .copy, .chain, .scout].any fun q => (e.2.q q).any fun m => m.tags.contains tag

/-- Something waits for `tag`: of a bank, or of a context at rest (R213). -/
def State.waited (s : State) (tag : Nat) : Bool := s.ctxs.any (fun e => e.2.waitsOn tag) || s.images.any fun e => e.2.waitsOn tag

/-- The kernel's answer to a record: banks that run take it now, and the Fixer's transfers of one being saved; the
others when they run again (R212, R213); a held
request of the host or the storage path is made again (R210). An answer to no record is ignored. -/
def State.answerFault (s : State) (tag : Nat) (err : Bool) : State :=
  match s.tr.recs.find? fun r => !r.notice && r.written && r.tag == tag with
  | none => s
  | some r =>
    let again := (s.hst.waits.filter fun (w : Nat × Instr) => w.1 == tag && !err).map fun w => Act.event w.2
    let recs := s.tr.recs.filter fun u => u.notice || u.tag != tag
    let waits := s.hst.waits.filter fun (w : Nat × Instr) => w.1 != tag
    let s : State := { s with tr := { s.tr with recs := recs }, agenda := again ++ s.agenda, hst := { s.hst with waits := waits } }
    let all := s.ctxs.map Prod.fst
    let s := (all.filter s.runs).foldl (fun s x => s.respond x tag r.addr err) s
    let s := (all.filter fun x => (s.ctxAt x).st == .spill).foldl (fun s x => s.respondFixers x tag err) s
    if !s.waited tag then s
    else { s with tr := { s.tr with late := s.tr.late ++ [(tag, r.addr, err)] } }

/-- Answers that came while bank `x` did not run take effect as it runs again (R213). -/
def State.takeLate (s : State) (x : Nat) : State :=
  let s := s.tr.late.foldl (fun s e => s.respond x e.1 e.2.1 e.2.2) s
  { s with tr := { s.tr with late := s.tr.late.filter fun e => s.waited e.1 } }

/-- FRESP_RETRY (R212). -/
def execFrespRetry (_p tag : Nat) (s : State) : Out := .next (s.answerFault tag false)

/-- FRESP_ERROR (R212). -/
def execFrespError (_p tag : Nat) (s : State) : Out := .next (s.answerFault tag true)

/-! ## The fault queue (R211) -/

/-- A record as it is written (R211, R216). -/
def FRec.bits (r : FRec) : BitVec 256 :=
  r.sid ++ BitVec.ofNat 4 (if r.notice then 1 else 0) ++ BitVec.ofNat 4 r.kind ++ BitVec.ofNat 4 r.acc ++
  BitVec.ofNat 16 r.tag ++ BitVec.ofNat 12 r.waiters ++ 0#5 ++ BitVec.ofNat 3 r.level ++ r.addr ++ r.counts ++
  BitVec.ofNat 2 r.die ++ BitVec.ofNat 9 r.core ++ 0#53

/-- An address of memory that a write of the hardware may go to: of the package, of the host or of another package (R193). -/
def memAddr (pa : Nat) : Bool :=
  match regionOf pa with
  | some .hbm | some .second | some .host | some .herbor => true
  | _ => false

/-- A write of the hardware, to memory of the package or the host, or to another package's (R193, R340); it reaches nothing of the
host range while CXL.cache is not offered (R350, log 81). The host has given its lines up before (R346). -/
def State.hwWrite (s : State) (pa : Nat) (b : List Byte) : State :=
  if regionOf pa == some .herbor then s.farWrite pa b
  else if s.hostOff pa then s
  else s.homeWrite .nobody none pa b

/-- A read of the hardware. -/
def State.hwRead (s : State) (pa n : Nat) : List Byte :=
  if regionOf pa == some .herbor then s.farRead pa n else s.curRead pa n

/-- FAULT_RECORD_WRITE: the oldest record of the partition not yet written enters its ring, unless the ring is full or
not configured, and raises interrupt 9. A notice needs no answer and is then forgotten (R211, R216). -/
def execFaultRecordWrite (p : Nat) (s : State) : Out :=
  match s.tr.recs.find? fun r => r.p == p && !r.written with
  | none => .next s
  | some r =>
    let d := s.partDie p
    let w := s.winAt d
    let base := (tget 0 w.fqbase p).toNat
    let n := 2 ^ ((tget 0 w.fqsize p).toNat % 32)
    let tail := tget 0 w.fqtail p
    let at' := base + 32 * (tail.toNat % n)
    if base = 0 || decide (n ≤ (tail - tget 0 w.fqhead p).toNat) then .next s
    else if !memAddr at' then .fault (.noSuchAddress at')
    else s.claimFor (linesOf at' 32) (.faultRecordWrite p) fun s =>
      let s := s.hwWrite at' (leBytes r.bits.toNat 32)
      let s := s.modWin d fun w => { w with fqtail := tput p (tail + 1) w.fqtail }
      let same := fun (u : FRec) => u.notice == r.notice && u.tag == r.tag && u.p == r.p && u.addr == r.addr
      let recs := if r.notice then s.tr.recs.filter fun u => !same u
        else s.tr.recs.map fun u => if same u then { u with written := true } else u
      .next (({ s with tr := { s.tr with recs := recs } } : State).raiseIrq d 9)

/-! ## Shootdowns (R204, R353) -/

/-- The TLB entry is named by a SHOOT command with its page count (R353). -/
def shootHits (cmd : Dword) (npg : BitVec 32) (t : TlbE) : Bool :=
  let lo := (cmd.extractLsb' 0 45).toNat * 4096
  t.sid == cmd.extractLsb' 48 16 &&
    (cmd.getLsbD 47 || (npg != 0 && rangesMeet t.base t.size lo (npg.toNat * 4096)))

/-- SHOOT: accepted, or ignored with ERR while one is busy; ALL 0 with NPG 0 completes at once (R353). -/
def State.shoot (s : State) (d : Nat) (v : Dword) : State :=
  s.modWin d fun w =>
    match w.shoot with
    | some _ => { w with shErr := true }
    | none =>
      if !v.getLsbD 47 && w.npg == 0 then { w with shErr := false } else { w with shErr := false, shoot := some (v, w.npg) }

/-- SHOOT (R353). -/
def execShoot (die : Nat) (v : BitVec 64) (s : State) : Out := s.powered (.next (s.shoot die v))

/-- SHOOTDOWN_COMPLETE: every TLB has dropped the entries the command names, and BUSY clears (R204, R353). -/
def execShootdownComplete (die : Nat) (s : State) : Out :=
  match (s.winAt die).shoot with
  | none => .next s
  | some (v, n) =>
    .next (({ s with tr := { s.tr with tlb := s.tr.tlb.filter fun t => !shootHits v n t } } : State).modWin die
      fun w => { w with shoot := none })

/-! ## The configuration window (R352) -/

/-- A write of a translation root: CTXROOT, UROOT or KROOT. Refused when an RSV field is set, or a SID in KROOT (R196); that of a
bank that holds a context is written as any other (log 84). -/
def State.writeRoot (s : State) (d off : Nat) (v : Dword) : State :=
  match Root.ofWord v with
  | none => s
  | some r =>
    if 0x100 ≤ off ∧ off < 0x180 ∧ off % 8 = 0 then
      s.modCtx ((off - 0x100) / 8) fun k => { k with root := r }
    else if 0x200 ≤ off ∧ off < 0x240 ∧ off % 8 = 0 then
      if off % 16 = 0 then s.modCtl (5 * d + (off - 0x200) / 16) fun c => { c with uroot := r }
      else if r.sid != 0 then s
      else s.modCtl (5 * d + (off - 0x200) / 16) fun c => { c with kroot := r }
    else s

/-- CTXROOT_WRITE (R196). -/
def execCtxrootWrite (die off : Nat) (v : BitVec 64) (s : State) : Out := s.powered (.next (s.writeRoot die off v))

/-- A write of BOOTSTAT: RUN ends reduced service; the kernel writes only 3 (R348, R352). -/
def State.writeBootstat (s : State) (v : Dword) : State :=
  if v = 3 && s.boot.stage == .kernel then { s with boot := { s.boot with stage := .run, stat := 3 } } else s

/-- BOOTSTAT_WRITE (R348). -/
def execBootstatWrite (_die : Nat) (v : BitVec 64) (s : State) : Out := .next (s.writeBootstat v)

/-- A write of a register without behaviour of its own; a non-zero value in an RSV field is ignored (R352). -/
def State.writePlain (s : State) (d off : Nat) (v : Dword) : State :=
  if off = 0x310 then (if v.extractLsb' 32 32 != 0 then s else s.modWin d fun w => { w with npg := v.extractLsb' 0 32 })
  else if 0x400 ≤ off ∧ off < 0x500 then
    let p := (off - 0x400) / 32
    match off % 32 with
    | 0 => if v.extractLsb' 0 12 != 0 then s else s.modWin d fun w => { w with fqbase := tput p v w.fqbase }
    | 8 => if v.extractLsb' 5 59 != 0 then s else s.modWin d fun w => { w with fqsize := tput p v w.fqsize }
    | 16 => s.modWin d fun w => { w with fqhead := tput p v w.fqhead }
    | _ => s
  else if 0x500 ≤ off ∧ off < 0x580 ∧ off % 8 = 0 then
    if v.extractLsb' 0 12 != 0 then s else s.modWin d fun w => { w with srarea := tput ((off - 0x500) / 8) v w.srarea }
  else if 0x600 ≤ off ∧ off < 0x678 ∧ off % 8 = 0 then
    if v.extractLsb' 2 62 != 0 then s else s.modWin d fun w => { w with iroute := tput ((off - 0x600) / 8) v w.iroute }
  else if off = 0x700 then (if v.extractLsb' 0 12 != 0 then s else s.modWin d fun w => { w with telem := v })
  else s

/-- CONFIG_WINDOW_WRITE (R352). -/
def execConfigWindowWrite (die off : Nat) (v : BitVec 64) (s : State) : Out := s.powered (.next (s.writePlain die off v))

/-- A write of 8 bytes to a die's window (R352). -/
def State.winWrite (s : State) (d off : Nat) (v : Dword) : State :=
  if off = 0 then s.writeBootstat v
  else if 0x100 ≤ off ∧ off < 0x240 then s.writeRoot d off v
  else if off = 0x300 then s.shoot d v
  else if 0x580 ≤ off ∧ off < 0x5C0 ∧ off % 8 = 0 then
    match (v.extractLsb' 16 2).toNat with
    | 0 => s.answerFault (v.extractLsb' 0 16).toNat false
    | 1 => s.answerFault (v.extractLsb' 0 16).toNat true
    | _ => s
  else s.writePlain d off v

/-- A register of a die's window as it reads; write-only and unlisted ones read as zero (R352). -/
def State.winRead (s : State) (d off : Nat) : Dword :=
  let w := s.winAt d
  if off = 0 then s.boot.stat.zeroExtend 64
  else if 0x100 ≤ off ∧ off < 0x180 ∧ off % 8 = 0 then (s.ctxAt ((off - 0x100) / 8)).root.word
  else if 0x200 ≤ off ∧ off < 0x240 ∧ off % 8 = 0 then
    let c := s.ctlAt (5 * d + (off - 0x200) / 16)
    if off % 16 = 0 then c.uroot.word else c.kroot.word
  else if off = 0x308 then BitVec.ofNat 64 (w.shoot.isSome.toNat + 2 * w.shErr.toNat)
  else if off = 0x310 then w.npg.zeroExtend 64
  else if 0x400 ≤ off ∧ off < 0x500 then
    let p := (off - 0x400) / 32
    match off % 32 with
    | 0 => tget 0 w.fqbase p
    | 8 => tget 0 w.fqsize p
    | 16 => tget 0 w.fqhead p
    | 24 => tget 0 w.fqtail p
    | _ => 0
  else if 0x500 ≤ off ∧ off < 0x580 ∧ off % 8 = 0 then tget 0 w.srarea ((off - 0x500) / 8)
  else if 0x600 ≤ off ∧ off < 0x678 ∧ off % 8 = 0 then tget 0 w.iroute ((off - 0x600) / 8)
  else if off = 0x700 then w.telem
  else 0

end Sys2Proof.Machine
end

