-- ==== Sys2Proof/Machine/Scratch.lean ====
section
/-! DEFINITION. Sys2Proof/Machine/Scratch.lean: the scratchpad, its translation table and the Fixer (R178 to R190). -/

namespace Sys2Proof.Machine

/-! ## Pages and frames -/

/-- Bytes of a scratchpad page (R179). -/
abbrev pageSize : Nat := 2048

/-- The STT entry of a page of a block slot. -/
def CtxCore.page (k : CtxCore) (bs v : Nat) : SttE := tget {} k.stt (bs, v)

/-- The core with the STT entry of a page changed. -/
def CtxCore.modPage (k : CtxCore) (bs v : Nat) (f : SttE → SttE) : CtxCore :=
  { k with stt := tput (bs, v) (f (k.page bs v)) k.stt }

/-- The frames of a core under a size code (R178). -/
def framesOf (sc : Nat) : Nat := 64 * (sc + 1)

/-- Where a byte of a frame lies among the frame bytes of its core. -/
def frameAddr (f off : Nat) : Nat := f * pageSize + off

/-- A scratchpad byte of a block as its threads and engines see it: the frame's when the page is resident, else zero or
the backing copy's place-holder zero, which no access reads (R182). -/
def State.spByte (s : State) (x c bs a : Nat) : Byte :=
  let e := ((s.ctxAt x).coreAt c).page bs (a / pageSize)
  if e.res then memGet (s.coreAt (s.physOf x c)).frames (frameAddr e.frame (a % pageSize)) else 0

/-- Scratchpad bytes of a block. -/
def State.spRead (s : State) (x c bs a : Nat) : Nat → List Byte
  | 0 => []
  | n + 1 => s.spByte x c bs a :: s.spRead x c bs (a + 1) n

/-- Every page from byte `a`, `n` bytes long, is resident. -/
def State.spHere (s : State) (x c bs a n : Nat) : Bool :=
  (List.range ((a + n - 1) / pageSize - a / pageSize + 1)).all fun i =>
    (((s.ctxAt x).coreAt c).page bs (a / pageSize + i)).res

/-- Writes one scratchpad byte of a resident page. -/
def State.spPut (s : State) (x c bs a : Nat) (v : Byte) : State :=
  let e := ((s.ctxAt x).coreAt c).page bs (a / pageSize)
  s.modPhys (s.physOf x c) fun k => { k with frames := memPut (frameAddr e.frame (a % pageSize)) v k.frames }

/-- Writes scratchpad bytes of resident pages; each page becomes dirty and referenced (R180, R184). -/
def State.spWrite (s : State) (x c bs : Nat) : Nat → List Byte → State
  | _, [] => s
  | a, v :: r =>
    (((s.spPut x c bs a v).modCore x c fun k =>
      k.modPage bs (a / pageSize) fun e => { e with dirty := true, ref := true })).spWrite x c bs (a + 1) r

/-- A page has been referenced (R184). -/
def State.spTouch (s : State) (x c bs a : Nat) : State :=
  s.modCore x c fun k => k.modPage bs (a / pageSize) fun e => { e with ref := true }

/-- A fault on a page joins the Fixer's work (R183). -/
def State.wantPage (s : State) (x c bs v : Nat) : State :=
  s.modCore x c fun k => if k.want.contains (bs, v) then k else { k with want := k.want ++ [(bs, v)] }

/-! ## Accesses of threads (R179, R182, R239, R245) -/

/-- The words a load of bytes writes (R238). -/
def loadWords (sz : Sz) (b : List Byte) : List Word :=
  match sz with
  | .u8 | .u16 | .w32 => [BitVec.ofNat 32 (leVal b)]
  | .s8 => [(BitVec.ofNat 8 (leVal b)).signExtend 32]
  | .s16 => [(BitVec.ofNat 16 (leVal b)).signExtend 32]
  | .w64 => bytesWords 2 b
  | .w128 => bytesWords 4 b

/-- The bytes a store writes from the registers at D (R238). -/
def storeBytes (th : Thread) (sz : Sz) (d : Nat) : List Byte :=
  (wordsBytes ((szRegs sz d).map th.gr)).take (szBytes sz)

/-- The words an atomic writes to its destination: the old value (R243). -/
def oldWords (o : AtomOp) (old : Nat) : List Word := bytesWords (atomSize o / 4) (leBytes old (atomSize o))

/-- Writes the destination registers of an access and takes them off the scoreboard. -/
def Thread.land (th : Thread) (d : Nat) (ws : List Word) : Thread :=
  (th.setGs d ws).unhang ((List.range ws.length).map fun i => .g (d + i))

/-- Performs a scratchpad access of a thread on its resident page (R239, R245). -/
def State.spDo (s : State) (x c bs slot : Nat) (op : Instr) (a : Nat) (data : List Byte) : State :=
  let t := Tid.cmp x c slot
  match op with
  | .lds _ d _ _ sz _ => (s.spTouch x c bs a).modThr t (·.land d.toNat (loadWords sz (s.spRead x c bs a (szBytes sz))))
  | .sts _ _ _ _ _ _ => s.spWrite x c bs a data
  | .atoms _ d _ o _ =>
    let old := leVal (s.spRead x c bs a (atomSize o))
    let new := atomNew o old (bytesWords 4 data)
    (s.spWrite x c bs a (leBytes new (atomSize o))).modThr t (·.land d.toNat (oldWords o old))
  | _ => s

/-- Issues a scratchpad access: performed at once on a resident page; else it waits for the Fixer (R182). -/
def State.spIssue (s : State) (x c bs slot : Nat) (op : Instr) (pc : BitVec 57) (a size : Nat) (data : List Byte)
    (dst : List PReg) : State :=
  if s.spHere x c bs a size then s.spDo x c bs slot op a data
  else
    let k := s.ctxAt x
    let f : InFlight := { op, pc, core := c, slot, ea := BitVec.ofNat 64 a, size, data, phase := .page }
    ((s.setCtx x { k with infl := tput k.nextId f k.infl, nextId := k.nextId + 1 }).wantPage x c bs (a / pageSize)).modThr
      (.cmp x c slot) (·.hang dst)

/-- Performs every access that waits on a page of a block slot, in arrival order (R183). -/
def State.spRelease (s : State) (x c bs v : Nat) : State :=
  let hit := (s.ctxAt x).infl.filter fun e => e.2.phase == .page && e.2.core == c && e.2.ea.toNat / pageSize == v &&
    (((s.ctxAt x).coreAt c).thrAt e.2.slot).par.blk == bs
  hit.foldl (fun s e =>
    (s.spDo x c bs e.2.slot e.2.op e.2.ea.toNat e.2.data).modCtx x fun k => { k with infl := tdel e.1 k.infl }) s

/-! ## Frames (R183, R184) -/

/-- The transfer of a page whose bytes have left their frame and stand at the port (R187, R325). -/
def CtxCore.atPort (k : CtxCore) (key : Nat × Nat) : Bool := k.xfers.any fun t => t.data.isSome && (t.bs, t.vpn) == key

/-- The bank's entries and transfers that hold or claim a frame of core `c`: resident, being filled or written out, or, on another
core, held there since a migration (R184, R189). -/
def Ctx.claims (k : Ctx) (c f : Nat) : Bool :=
  (k.coreAt c).stt.any (fun e => e.2.frame == f && (e.2.res || (e.2.fix && !(k.coreAt c).atPort e.1))) ||
  (k.coreAt c).xfers.any (fun t => t.data.isNone && t.frame == f) ||
  k.cores.any fun e => e.2.stt.any fun u => u.2.held == some (c, f)

/-- The frame of core `c` is free: neither bank of the partition claims it (R187). -/
def State.frameFree (s : State) (x c f : Nat) : Bool :=
  !(s.ctxAt (x / 2 * 2)).claims c f && !(s.ctxAt (x / 2 * 2 + 1)).claims c f

/-- The page in a frame of core `c`: its bank, the core whose table holds its entry, its block slot and number. A page that
has migrated and not moved is in the frame that holds it (R184, R189). -/
def State.pageIn (s : State) (x c f : Nat) : Option (Nat × Nat × Nat × Nat) :=
  [x / 2 * 2, x / 2 * 2 + 1].findSome? fun b =>
    match ((s.ctxAt b).coreAt c).stt.find? fun e => e.2.res && e.2.frame == f with
    | some e => some (b, c, e.1.1, e.1.2)
    | none => (s.ctxAt b).cores.findSome? fun u =>
      (u.2.stt.find? fun e => e.2.held == some (c, f)).map fun e => (b, u.1, e.1.1, e.1.2)

/-- The clock of R184: fuel, number of frames. Answers the victim frame and the state with REF bits and the hand as the
hand leaves them. It passes by a frame that is being filled, and one whose page is being copied to the core that its block has moved
to (R183, R189). -/
def State.victim (s : State) (x c n : Nat) : Nat → Option (Nat × State)
  | 0 => none
  | m + 1 =>
    let pc := s.physOf x c
    let h := (s.coreAt pc).hand
    let next := s.modPhys pc fun k => { k with hand := (h + 1) % n }
    match s.pageIn x c h with
    | none => next.victim x c n m
    | some (b, hc, bs, v) =>
      let e := ((s.ctxAt b).coreAt hc).page bs v
      let moving := ((s.ctxAt b).coreAt hc).xfers.any fun t => !t.out && (t.bs, t.vpn) == (bs, v)
      if e.pin = 0 && !e.infl && !e.fix && !moving then
        if !e.ref then some (h, next)
        else (next.modCore b hc fun k => k.modPage bs v fun e => { e with ref := false }).victim x c n m
      else next.victim x c n m

/-- The number of frames of bank `x`'s cores. -/
def State.frameCount (s : State) (x : Nat) : Nat :=
  match (s.partAt (x / 2)).cfg with
  | some g => framesOf g.s
  | none => 0

/-- Page transfers in progress on a core, of both banks (R183). -/
def State.xferCount (s : State) (x c : Nat) : Nat :=
  ((s.ctxAt (x / 2 * 2)).coreAt c).xfers.length + ((s.ctxAt (x / 2 * 2 + 1)).coreAt c).xfers.length

/-- Begins serving a fault: a free frame, or a victim's; a dirty victim is written out first (R183, R184). -/
def State.serveFault (s : State) (x c bs v : Nat) : State :=
  if 16 ≤ s.xferCount x c then s
  else
    match (List.range (s.frameCount x)).find? fun f => s.frameFree x c f with
    | some f => s.modCore x c fun k => { k with xfers := k.xfers ++ [{ bs, vpn := v, out := false, frame := f }] }
    | none =>
      match s.victim x c (s.frameCount x) (2 * s.frameCount x + 1) with
      | none => s
      | some (f, s') =>
        match s'.pageIn x c f with
        | none => s
        | some (b, hc, vb, vv) =>
          let e := ((s'.ctxAt b).coreAt hc).page vb vv
          let s := s'.modCore b hc fun k => k.modPage vb vv fun e =>
            { e with res := false, fix := e.dirty, held := if e.dirty then e.held else none }
          if e.dirty then
            let t : Xfer := { bs := vb, vpn := vv, out := true, frame := f, want := some (x, bs, v), home := if hc = c then none else some hc }
            s.modCore b c fun k => { k with xfers := k.xfers ++ [t] }
          else s.modCore x c fun k => { k with xfers := k.xfers ++ [{ bs, vpn := v, out := false, frame := f }] }

/-- A fault that the Fixer has not begun to serve: no transfer fills the page, none is writing a victim out for it, and
the page itself is not being written out. -/
def State.unserved (s : State) (x c : Nat) (p : Nat × Nat) : Bool :=
  let all := ((s.ctxAt (x / 2 * 2)).coreAt c).xfers ++ ((s.ctxAt (x / 2 * 2 + 1)).coreAt c).xfers
  !((s.ctxAt x).coreAt c).xfers.any (fun t => !t.out && (t.bs, t.vpn) == p) && !all.any (fun t => t.out && t.want == some (x, p)) &&
  !(((s.ctxAt x).coreAt c).page p.1 p.2).fix

/-- SCRATCHPAD_PAGE_FAULT: the Fixer begins to serve the oldest fault not yet served of the active bank (R183, R187). It
starts no transfer for a halted partition (R311). -/
def execScratchpadPageFault (x c bs vpn : Nat) (s : State) : Out :=
  if !s.runs x || (((s.ctxAt x).coreAt c).want.filter (s.unserved x c)).head? != some (bs, vpn) then .next s
  else .next (s.serveFault x c bs vpn)

/-! ## Transfers (R183, R184, R186, R189) -/

/-- The Fixer's translation of a backing address for a transfer, and the package it goes to over Herbor (R186, R340). -/
def State.xFixer (s : State) (x c : Nat) (b : BitVec 46) (wr : Bool) : XRes × Option Nat :=
  let q : XReq := { die := s.dieOf x c, root := (s.ctxAt x).root, user := true, rd := !wr, wr }
  State.viaHerbor q (backAddr b) (s.translate q (backAddr b))

/-- The bytes of a page at its backing address: this package's, or another's (R184, R340). -/
def State.backRead (s : State) (pa : Nat) : List Byte :=
  if regionOf pa == some .herbor then s.farRead pa pageSize else s.curRead pa pageSize

/-- Writes a page to its backing address in interval `intv`, counted under AC (R184, R214, R340). -/
def State.backWrite (s : State) (x c pa intv : Nat) (b : List Byte) (ac : Bool) : State :=
  if regionOf pa == some .herbor then s.farWrite pa b
  else s.homeWrite (.bank x intv) (some (s.coreAt (s.physOf x c)).lt) pa b { die := s.dieOf x c, p := x / 2, ac }

/-- A write to an address of another package or of the host (R325). -/
def outboundPa (pa : Nat) : Bool := regionOf pa == some .herbor || regionOf pa == some .host

/-- A write of a unit of bank `x` may leave its port: it is not outbound, or the checkpoint that follows it has committed;
`port` is the interval in which it was first held (R325, R341, R345). -/
def State.portFree (s : State) (x pa : Nat) (port : Option Nat) : Bool :=
  let k := s.ctxAt x
  !outboundPa pa || !k.ckpt.on || (match port with
    | some e => decide (e < k.ckpt.done)
    | none => false)

/-- A held write asks for its forced boundary (R325). -/
def State.askBoundary (s : State) (x : Nat) (port : Nat) : State :=
  s.modCtx x fun k => { k with ckpt := { k.ckpt with due := k.ckpt.due || decide (k.ckpt.intv ≤ port) } }

/-- A transfer that a page refuses: a fault record, or the scratchpad-backing trap (R186). -/
def State.xferStop (s : State) (x c : Nat) (t : Xfer) (r : XRes × Option Nat) (b : BitVec 46) : State :=
  match r with
  | (.flt kind level size, via) =>
    let (s, tag) := s.addFault (x / 2) (s.ctxAt x).root.sid kind level (if via.isSome then .herbor else .fixer) (backAddr b)
      (s.dieOf x c) (if via.isSome then 0x1FF else s.physOf x c % 128) size
    s.modCore x c fun k => { k with xfers := k.xfers.map fun u => if u == t then { u with tag := some tag } else u }
  | _ => s.fixerTrap x c t b

/-- The page is resident in frame `f`, and the accesses that wait on it are performed (R183). -/
def State.pageReady (s : State) (x c : Nat) (t : Xfer) (f : Nat) (set : SttE → SttE) : State :=
  (s.modCore x c fun k =>
    ({ k with xfers := k.xfers.filter (· != t), want := k.want.filter (· != (t.bs, t.vpn)) } : CtxCore).modPage t.bs t.vpn
      fun e => { set e with res := true, frame := f, ref := true }).spRelease x c t.bs t.vpn

/-- Fills a frame with 2,048 bytes. -/
def State.fillFrame (s : State) (x c f : Nat) (b : List Byte) : State :=
  s.modPhys (s.physOf x c) fun k => { k with frames := memWrite (frameAddr f 0) b k.frames }

/-- A page of a block when it is first touched: zeros, with CFG of the rings whose header lies in it (R161, R181). -/
def Block.freshPage (b : Block) (v : Nat) : List Byte :=
  b.rings.foldl (fun d e => if (e.2.h + 8) / pageSize = v then d.set ((e.2.h + 8) % pageSize) (BitVec.ofNat 8 e.2.l) else d)
    (List.replicate pageSize 0)

/-- A fill with zeros that the core began before transfer `t` is still under way: such fills end in the order in which they began
(R183, log 85). -/
def CtxCore.zeroBefore (k : CtxCore) (t : Xfer) : Bool :=
  (k.xfers.takeWhile (· != t)).any fun u => !u.out && (k.page u.bs u.vpn).zero

/-- PAGE_FILL_COMPLETE: the frame holds a page as first touched, the source core's frame of a migrated page, or the backing copy
(R183, R186, R189). -/
def execPageFillComplete (x c bs vpn : Nat) (s : State) : Out :=
  let k := (s.ctxAt x).coreAt c
  match k.xfers.find? fun t => !t.out && t.bs == bs && t.vpn == vpn with
  | none => .next s
  | some t =>
    let e := k.page bs vpn
    if t.tag.isSome then .next s
    else if e.zero then
      if k.zeroBefore t then .next s
      else .next ((s.fillFrame x c t.frame ((k.blkAt bs).freshPage vpn)).pageReady x c t t.frame
        fun e => { e with zero := false, dirty := true })
    else
      match e.held with
      | some (sc, sf) =>
        .next ((s.fillFrame x c t.frame (memRead (s.coreAt (s.physOf x sc)).frames (frameAddr sf 0) pageSize)).pageReady x c t
          t.frame fun e => { e with held := none })
      | none =>
        match s.xFixer x c e.baddr false with
        | (.ok s' pa _ ac, _) =>
          let s' := if regionOf pa == some .herbor then s' else
            (List.range (pageSize / lineSize)).foldl (fun s i => s.ensureLine (pa / lineSize + i) (s.dieOf x c) (x / 2) ac) s'
          .next ((s'.fillFrame x c t.frame (s'.backRead pa)).pageReady x c t t.frame fun e => { e with dirty := false })
        | (.wait s', _) => .next s'
        | r => .next (s.xferStop x c t r e.baddr)

/-- The fault `p` of a bank chooses a frame again, where the Fixer may start a transfer for it (R183, R311). -/
def State.chooseAgain (s : State) (c : Nat) : Option (Nat × Nat × Nat) → State
  | some (b, p) =>
    if s.runs b && ((s.ctxAt b).coreAt c).want.contains p && s.unserved b c p then s.serveFault b c p.1 p.2 else s
  | none => s

/-- The page that chose a victim's frame takes it, where it still waits and the Fixer may start a transfer for it (R183,
R311). -/
def State.takeFrame (s : State) (c f : Nat) : Option (Nat × Nat × Nat) → State
  | some (b, p) =>
    if s.runs b && ((s.ctxAt b).coreAt c).want.contains p && s.unserved b c p then
      s.modCore b c fun k => { k with xfers := k.xfers ++ [{ bs := p.1, vpn := p.2, out := false, frame := f }] }
    else s
  | none => s

/-- A write-out is acknowledged: the page is clean. A fault on the page meanwhile reclaims the frame, and the fault that chose
it chooses again; else that fault's page takes the frame. A page that has migrated leaves its source frame, and one whose bytes stood
at the port has none (R183, R184, R187, R189). -/
def State.writtenOut (s : State) (x c : Nat) (t : Xfer) : State :=
  let clean := fun (e : SttE) => { e with fix := false, dirty := false }
  if t.data.isSome then
    s.modCore x c fun k => ({ k with xfers := k.xfers.filter (· != t) } : CtxCore).modPage t.bs t.vpn clean
  else
  match t.home with
  | some h =>
    let s := (s.modCore x c fun k => { k with xfers := k.xfers.filter (· != t) }).modCore x h fun k =>
      k.modPage t.bs t.vpn fun e => { clean e with held := none }
    s.takeFrame c t.frame t.want
  | none =>
    if ((s.ctxAt x).coreAt c).want.contains (t.bs, t.vpn) then (s.pageReady x c t t.frame clean).chooseAgain c t.want
    else
      (s.modCore x c fun k => ({ k with xfers := k.xfers.filter (· != t) } : CtxCore).modPage t.bs t.vpn clean).takeFrame c t.frame t.want

/-- The address of a checkpoint area: false A, true B. -/
def Ckpt.area (c : Ckpt) (b : Bool) : Nat := if b then c.areaB else c.areaA

/-- The state with `f` done to bank `x` as the image of its last committed cut holds it, with the core's frames as they were then; none
of it where the context has no such image (R324, R325). -/
def State.inImage (s : State) (x : Nat) (f : State → State) : State :=
  let c := (s.ctxAt x).ckpt
  match c.last with
  | none => s
  | some b =>
    match (if c.on then tfind s.images (c.area b) else none) with
    | none => s
    | some i =>
      let t := f (i.cores.foldl (fun t e => t.modPhys (t.physOf x e.1) fun p => { p with frames := memOf e.2.img }) (s.setCtx x i))
      let j := t.ctxAt x
      let cores := j.cores.map fun (e : Nat × CtxCore) => (e.1, { e.2 with img := (t.coreAt (t.physOf x e.1)).frames })
      { s with images := tput (c.area b) { j with cores := cores } s.images }

/-- The transfer's bytes: at the port, or in its frame. -/
def State.xferBytes (s : State) (x c : Nat) (t : Xfer) : List Byte :=
  t.data.getD (memRead (s.coreAt (s.physOf x c)).frames (frameAddr t.frame 0) pageSize)

/-- A page's bytes leave for their backing address, and the write is acknowledged. One that was held over the last committed cut is done in
that cut's image too, so that no rollback sends it again (R325). -/
def State.pageOut (s : State) (x c pa : Nat) (t : Xfer) (ac : Bool) : State :=
  let s := (s.backWrite x c pa (t.port.getD (s.ctxAt x).ckpt.intv) (s.xferBytes x c t) ac).writtenOut x c t
  if t.port.isSome then s.inImage x fun s => s.writtenOut x c t else s

/-- WRITE_OUT_ACK: the victim's bytes are at their backing address (R183, R184). A write to the host or another package is held
at its port for its forced boundary (R325); one to a line that the host holds waits for its back-invalidation (R346). -/
def execWriteOutAck (x c bs vpn : Nat) (s : State) : Out :=
  match ((s.ctxAt x).coreAt c).xfers.find? fun t => t.out && t.bs == bs && t.vpn == vpn with
  | none => .next s
  | some t =>
    let e := ((s.ctxAt x).coreAt (t.home.getD c)).page bs vpn
    if t.tag.isSome then .next s
    else
      match s.xFixer x c e.baddr true with
      | (.ok s' pa _ ac, _) =>
        if !s'.portFree x pa t.port then
          let n := t.port.getD (s.ctxAt x).ckpt.intv
          .next ((s.modCore x c fun k => { k with xfers := k.xfers.map fun u => if u == t then { u with port := some n } else u }).askBoundary x n)
        else
          match s'.claimAll (linesOf pa pageSize) with
          | (s', false) => .next s'
          | (s', true) => .next (s'.pageOut x c pa t ac)
      | (.wait s', _) => .next s'
      | r => .next (s.xferStop x c t r e.baddr)

end Sys2Proof.Machine
end

