-- ==== Sys2Proof/Machine/Access.lean ====
section
/-! DEFINITION. Sys2Proof/Machine/Access.lean: global accesses: translation for a thread, the L1 and the write-combining
buffer, loads, stores, atomics, fences, the completion of accesses in flight (R191, R206 to R208, R219, R222 to R233,
R325, R339 to R341). -/

namespace Sys2Proof.Machine

/-! ## Translation for a thread (R195, R200, R340) -/

/-- Translates for a thread (R195, R200). On a control core a fault record is the page-fault trap (R26), that of the
inner translation of a Herbor leaf of this package too (log 88). -/
def State.xThread (s : State) (t : Tid) (q : XReq) (va : Dword) : XRes × Option Nat :=
  match t with
  | .ctl n =>
    let c := s.ctlAt n
    let root := if c.pl = .user then c.uroot else c.kroot
    match State.viaHerbor { q with die := n / 5, root, core := some (512 + n) } va (s.xCtl n q va) with
    | (.flt _ _ _, v) => (.trap (pfCause q), v)
    | r => r
  | .cmp x c _ =>
    let q := { q with die := s.dieOf x c, root := (s.ctxAt x).root, user := true, core := some (s.physOf x c) }
    State.viaHerbor q va (s.translate q va)

/-- The slice that serves die `die` may be a replica of the line (R334). -/
def repOk (die pa : Nat) (cc : BitVec 2) (via : Option Nat) : Bool :=
  cc != 0 && (regionOf pa == some .hbm || regionOf pa == some .second) && via.isNone && homeDie pa != die

/-! ## L1 and write-combining buffer (R177, R191, R201, R230, R231, R345) -/

/-- A store of a compute thread stands in the write-combining buffer of its core: not yet acknowledged, and translated. -/
def InFlight.buffered (f : InFlight) : Bool :=
  f.pa.isSome && (match f.op with
   | .st _ _ _ _ _ _ => true
   | _ => false) &&
  match f.phase with
  | .issued | .own | .held | .applied _ => true
  | _ => false

/-- The bytes of a store that are not yet applied, with their place in it (R219). -/
def InFlight.todo (f : InFlight) : Nat × List Byte :=
  match f.phase with
  | .applied _ => (0, [])
  | _ => if f.half then (8, f.data.drop 8) else (0, f.data)

/-- The bytes of a store that have been applied, from its address on. -/
def InFlight.done (f : InFlight) : List Byte :=
  match f.phase with
  | .applied _ => f.data
  | _ => if f.half then f.data.take 8 else []

/-- An access in flight with its bank and number. -/
abbrev Flight := Nat × Nat × InFlight

/-- `e` comes after `l` in the program of one thread (R219). -/
def comesAfter (l e : Flight) : Bool :=
  l.1 == e.1 && decide (l.2.1 < e.2.1) && l.2.2.core == e.2.2.core && l.2.2.slot == e.2.2.slot

/-- The buffered stores of a compute core, of both banks, oldest first. -/
def State.wcb (s : State) (core : Nat) : List Flight :=
  s.ctxs.flatMap fun e =>
    (e.2.infl.filter fun f => f.2.buffered && s.physOf e.1 f.2.core == core).map fun f => (e.1, f)

/-- Bytes at `pa` with the given part of each of the core's buffered stores laid over them, but for the stores that follow the load
`own` in its thread. -/
def State.wcbLay (s : State) (part : InFlight → Nat × List Byte) (core pa : Nat) (b : List Byte) (own : Option Flight) : List Byte :=
  (s.wcb core).foldl (fun b e =>
    match e.2.2.pa, own with
    | some (fp, _), none => overlay (part e.2.2).2 (fp + (part e.2.2).1) pa b
    | some (fp, _), some l => if comesAfter l e then b else overlay (part e.2.2).2 (fp + (part e.2.2).1) pa b
    | none, _ => b) b

/-- Bytes at `pa`, as the L1 or a slice serves them, with those of the core's stores laid over them that are not yet applied: until
then the buffer alone gives them; with no `own`, what a fill installs in the L1 (R219, R231, R233). -/
def State.wcbOver (s : State) (core pa : Nat) (b : List Byte) (own : Option Flight := none) : List Byte :=
  s.wcbLay InFlight.todo core pa b own

/-- A slice no longer serves what a store of the core wrote there, whose acknowledgement is still to come: a later write stands
there, and a load waits for the acknowledgement, so that it returns neither an older value than that write (R219) nor another
than the store's before it (R231, log 89). -/
def State.awaitsAck (s : State) (core pa : Nat) (b : List Byte) (own : Option Flight) : Bool :=
  s.wcbLay (fun f => (0, f.done)) core pa b own != b

/-- Two byte ranges touch a common aligned 8-byte word (R219). -/
def wordsMeet (a n b m : Nat) : Bool := decide (a / 8 ≤ (b + m - 1) / 8) && decide (b / 8 ≤ (a + n - 1) / 8)

/-- Two accesses touch a common aligned word of global memory, by their virtual addresses or, once both are translated, by
their physical ones (R208, R219). -/
def InFlight.meets (e f : InFlight) : Bool :=
  wordsMeet e.ea.toNat e.size f.ea.toNat f.size ||
  match e.pa, f.pa with
  | some (a, _), some (b, _) => wordsMeet a e.size b f.size
  | _, _ => false

/-- A buffered store that comes after the load in its thread touches its words (R219). -/
def State.overtaken (s : State) (core : Nat) (l : Flight) : Bool :=
  (s.wcb core).any fun e => comesAfter l e && e.2.2.meets l.2.2

/-- The virtual line of an address (R191). -/
def vline (va : Dword) : Nat := va.toNat % 2 ^ 57 / lineSize

/-- The bytes an L1 returns: the sector is present, filled through the same virtual line, and valid at the core's
logical time (R230). -/
def State.l1Hit (s : State) (core : Nat) (va : Dword) (pa n : Nat) : Option (List Byte) :=
  let c := s.coreAt core
  (tfind c.l1 (pa / 32)).bind fun e =>
    if e.vl == vline va && tle c.lt e.fin then some ((e.data.drop (pa % 32)).take n) else none

/-- A core's L1 may hold the line: a line of CC 00 in the L1s of its home die only, a line of the host range in those of die
0; nothing served over Herbor (R201, R340, R345). -/
def l1May (core pa : Nat) (cc : BitVec 2) (via : Option Nat) : Bool :=
  via.isNone && ((cc != 0 && regionOf pa != some .host) || dieOfPhys core == homeDie pa)

/-- The lines that a core's L1 holds: 768 KiB less the scratchpad; a control core has no scratchpad (R177, R178, log 71). -/
def State.l1Lines (s : State) (core : Nat) : Nat :=
  if 512 ≤ core then 6144
  else
    match s.parts.findSome? fun e => e.2.cfg.bind fun g => if g.first ≤ core ∧ core < g.first + g.count then some g.s else none with
    | some sc => 5120 - 1024 * sc
    | none => 5120

/-- A sector enters a core's L1: a new line, where the L1 is full, takes the place of one of the hardware's choice (R177,
R191, log 18). -/
def State.l1Put (s : State) (core k : Nat) (sec : Sector) : State :=
  let lines := ((s.coreAt core).l1.map fun e => e.1 / 4).eraseDups
  let s :=
    if lines.contains (k / 4) || lines.length < s.l1Lines core then s
    else
      match s.pick lines with
      | (some v, s) => s.modPhys core fun c => { c with l1 := c.l1.filter fun e => e.1 / 4 != v }
      | (none, s) => s
  s.modPhys core fun c => { c with l1 := tput k sec c.l1 }

/-- A store updates the sector the L1 holds, whatever its lease; with CACHE 3 it drops it (R191, R231). -/
def CorePhys.l1Store (c : CorePhys) (pa : Nat) (b : List Byte) (cache : Nat) : CorePhys :=
  match tfind c.l1 (pa / 32) with
  | none => c
  | some e =>
    if cache = 3 then { c with l1 := tdel (pa / 32) c.l1 }
    else { c with l1 := tput (pa / 32) { e with data := overlay b (pa % 32) 0 e.data } c.l1 }

/-- Drops every sector of a line from the L1 (R227, R251). -/
def CorePhys.l1Drop (c : CorePhys) (ln : Nat) : CorePhys := { c with l1 := c.l1.filter fun e => e.1 / 4 != ln }

/-- The time that an access to another package's line brings a core: that package keeps the line's times, so it is open, and not before
the core's own (R229, R341, log 14). -/
def State.farTime (s : State) (core : Nat) : State × BitVec 24 :=
  let (v, s) := s.takeFree
  (s, later (s.coreAt core).lt (v.extractLsb' 0 24))

/-- A read of global memory by a core: from its L1, or by a fill at the slice that serves its die, which grants a lease
and may install the sector; from another package's memory; no bytes when it must wait (R229 to R233, R334, R340). -/
def State.coreLoad (s : State) (core : Nat) (va : Dword) (pa : Nat) (cc : BitVec 2) (via : Option Nat) (ac : Bool) (p lease : Nat) (l1 : Bool)
    (n : Nat) (own : Option Flight := none) : State × Option (List Byte) :=
  if regionOf pa == some .herbor then
    let b := s.wcbOver core pa (s.farRead pa n) own
    let (s, w) := s.farTime core
    if !s.jumpOk core w then (s, none) else (s.raiseLt core w, some b)
  else
    let l1 := l1 && l1May core pa cc via && !(match own with
      | some l => s.overtaken core l
      | none => false)
    match (if l1 then s.l1Hit core va pa n else none) with
    | some b => (s, some (s.wcbOver core pa b own))
    | none =>
      let die := dieOfPhys core
      let ln := pa / lineSize
      let rep := repOk die pa cc via
      match s.prepLoad die ln rep p ac with
      | (s, false) => (s, none)
      | (s, true) =>
        let (w, r) := s.slTimes die ln rep
        let raw := s.slRead die rep (pa / 32 * 32) 32
        if !s.jumpOk core w || s.awaitsAck core (pa / 32 * 32) raw own then (s, none)
        else
          let fin := leaseEnd w r (s.coreAt core).lt (if regionOf pa == some .host then min lease 4 else lease)
          let s := (s.setTimes die ln rep w fin).raiseLt core w
          let got := s.wcbOver core (pa / 32 * 32) raw own
          let s := if l1 then s.l1Put core (pa / 32) { data := s.wcbOver core (pa / 32 * 32) raw, fin, vl := vline va } else s
          (s, some ((got.drop (pa % 32)).take n))

/-! ## Order among the accesses of a thread (R150, R208, R219) -/

/-- The access is a write counted by the block's counter (R222). -/
def InFlight.counted (f : InFlight) : Bool :=
  match f.op with
  | .st _ _ _ _ _ _ | .atom _ _ _ _ _ _ => true
  | _ => false

/-- An access in flight that a younger load of its thread to its words waits for: all but a buffered store, and but an
atomic that has been performed (R208, R219). -/
def InFlight.blocksLoad (f : InFlight) : Bool :=
  match f.phase with
  | .page => false
  | .applied _ => (match f.op with
    | .rel _ _ _ _ => true
    | _ => false)
  | .logged _ | .replay => true
  | _ => !f.buffered

/-- The access `e` comes before what thread `slot` of core `c` does at number `id`: an earlier one of its thread, or one that the thread which spawned its block
made before the SPAWN (R150, R219). -/
def Ctx.beforeOf (k : Ctx) (id c slot : Nat) (e : Nat × InFlight) : Bool :=
  decide (e.1 < id) && e.2.core == c && (e.2.slot == slot ||
    (match ((k.coreAt c).blkAt ((k.coreAt c).thrAt slot).par.blk).parent with
     | some (u, m) => e.2.slot == u && decide (e.1 < m) && e.2.counted
     | none => false))

/-- As Ctx.beforeOf, for an access `f` in flight. -/
def Ctx.before (k : Ctx) (id : Nat) (f : InFlight) (e : Nat × InFlight) : Bool := k.beforeOf id f.core f.slot e

/-- An older access of the thread that touches the words of `f` and satisfies `bad`. -/
def Ctx.olderMeets (k : Ctx) (id : Nat) (f : InFlight) (bad : InFlight → Bool) : Bool :=
  k.infl.any fun e => k.before id f e && e.2.phase != .page && e.2.meets f && bad e.2

/-- An older buffered store of the core, of any thread, that touches the words of `f` and is not yet applied: the buffer keeps the
order of stores to a word (R219, R231). An atomic waits until it is acknowledged (R227, R231). -/
def Ctx.olderBuffered (k : Ctx) (id : Nat) (f : InFlight) : Bool :=
  let atomic := match f.op with
    | .atom _ _ _ _ _ _ => true
    | _ => false
  k.infl.any fun e => decide (e.1 < id) && e.2.core == f.core && e.2.buffered &&
    (match e.2.phase with
     | .applied _ => atomic
     | _ => true) &&
    match e.2.pa, f.pa with
    | some (a, _), some (b, _) => wordsMeet a e.2.size b f.size
    | _, _ => false

/-- A write of the core has reached the scope point of R226: 0 thread to 5 system. At die scope its acknowledgement has raised
the core's logical time; a wider point is the one at which the access ends. A scratchpad access has been performed (R228). -/
def State.reached (s : State) (core : Nat) (f : InFlight) (sc : Nat) : Bool :=
  match sc with
  | 0 => true
  | 1 => match f.phase with
    | .logged _ | .replay | .page => false
    | .applied _ => true
    | _ => f.buffered
  | 2 => match f.phase with
    | .applied w => tle w (s.coreAt core).lt
    | _ => false
  | _ => false

/-- The access writes memory, or is one of the scratchpad that waits for its page: what a release covers (R152, R228). -/
def InFlight.released (f : InFlight) : Bool :=
  f.counted || f.phase == .page || (match f.op with
    | .rel _ _ _ _ => true
    | _ => false)

/-- Every write in flight that `who` selects has reached a scope point (R226). -/
def State.writesReached (s : State) (x : Nat) (who : InFlight → Bool) (sc : Nat) : Bool :=
  (s.ctxAt x).infl.all fun e => !(who e.2 && e.2.released) || s.reached (s.physOf x e.2.core) e.2 sc

/-- The access is of thread `slot` of core `c`. -/
def InFlight.ofThread (c slot : Nat) (f : InFlight) : Bool := f.core == c && f.slot == slot

/-- The access is of a block. -/
def State.ofBlock (s : State) (x c bs : Nat) (f : InFlight) : Bool :=
  f.core == c && (((s.ctxAt x).coreAt c).thrAt f.slot).par.blk == bs

/-- A thread's earlier writes are released at a scope (R152, R159, R160, R162); on a control core, whose stores are applied as
they are made, once every snoop they sent is answered. -/
def State.released (s : State) (t : Tid) (sc : Nat) : Bool :=
  match t with
  | .ctl n => decide (sc < 3) || (s.ctlAt n).wb.isEmpty
  | .cmp x c slot => s.writesReached x (fun f => f.ofThread c slot) sc

/-- An access of the thread that reads registers or memory into it and has not returned (R226). -/
def InFlight.loads (f : InFlight) : Bool :=
  match f.op with
  | .st _ _ _ _ _ _ | .rel _ _ _ _ => false
  | .illegalInstruction _ => false
  | _ => match f.phase with
    | .applied _ => false
    | _ => true

/-! ## Registers of an access in flight -/

/-- The destination registers of an access (R238, R242, R248, R160). -/
def dests : Instr → List Nat
  | .ld _ d _ _ sz _ | .lds _ d _ _ sz _ => szRegs sz d.toNat
  | .atom _ d _ o _ _ | .atoms _ d _ o _ => atomDst o d.toNat
  | .acq _ g _ _ => [g.toNat, g.toNat + 1]
  | .launch _ d _ => [d.toNat]
  | _ => []

/-- The state without bank `x`'s access `id`. -/
def State.delInfl (s : State) (x id : Nat) : State := s.modCtx x fun k => { k with infl := tdel id k.infl }

/-- The state with a new access in flight, its destinations pending (R16). -/
def State.addInfl (s : State) (x : Nat) (f : InFlight) : State :=
  let k := s.ctxAt x
  (s.setCtx x { k with infl := tput k.nextId f k.infl, nextId := k.nextId + 1 }).modThr (.cmp x f.core f.slot)
    (·.hang ((dests f.op).map PReg.g))

/-- Entries of the operand log of a core's context bank (R207). -/
def Ctx.logUsed (k : Ctx) (c : Nat) : Nat :=
  (k.infl.filter fun e => e.2.core == c && match e.2.phase with
    | .logged _ | .replay => (match e.2.op with
      | .illegalInstruction _ => false
      | _ => true)
    | _ => false).length

/-! ## Queues of records (R160, R164) -/

/-- Enters a record in a hardware queue; none when it is full or not configured (R160, R164). -/
def Ctx.enter (k : Ctx) (q : Nat) (r : QRec) : Option Ctx :=
  let u := tget {} k.queues q
  if !u.cfg || decide (256 ≤ u.recs.length) then none
  else some { k with queues := tput q { u with recs := u.recs ++ [{ r with fired := if u.recs.isEmpty then k.zeroEv else 0 }] } k.queues }

/-- LAUNCH with the word at the record's address + 16: the status, and the record entered (R160). -/
def State.launchNow (s : State) (x core : Nat) (addr : Dword) (w : List Byte) : State × Nat :=
  let q := leVal w / 2 ^ 20 % 64
  match (s.ctxAt x).enter q { addr, time := some (s.coreAt core).lt } with
  | some k => (s.setCtx x k, 0)
  | none => (s, 1)

/-! ## Translating an access of a compute thread -/

/-- A fault of a compute thread's access: its record, and the access in the operand log (R206, R207, R211). -/
def State.logAccess (s : State) (x : Nat) (f : InFlight) (q : XReq) (kind level size : Nat) (herbor : Bool) (acc : Acc) :
    State × InFlight :=
  let core := s.physOf x f.core
  let (s, tag) := s.addFault (x / 2) (s.ctxAt x).root.sid kind level (if herbor then .herbor else acc) f.ea q.die
    (if herbor then 0x1FF else core % 128) size
  (s, { f with phase := .logged tag })

/-- Gives a translated access its physical address, and what the L1 does at issue: a valid copy decides a load; a store
updates the copy (R230, R231). -/
def State.place (s : State) (x : Nat) (f : InFlight) (id : Nat) (pa : Nat) (cc : BitVec 2) (via : Option Nat) (ac : Bool) : State × InFlight :=
  let core := s.physOf x f.core
  let f := { f with pa := some (pa, cc), via, ac, phase := .issued, time := (s.coreAt core).lt, epoch := (s.ctxAt x).ckpt.intv }
  match f.op with
  | .ld _ _ _ _ _ _ =>
    if f.hints.cache = 3 || !l1May core pa cc via || (s.ctxAt x).olderMeets id f InFlight.blocksLoad || s.overtaken core (x, id, f) then (s, f)
    else (s, { f with got := (s.l1Hit core f.ea pa f.size).map (s.wcbOver core pa) })
  | .st _ _ _ _ _ _ => (s.modPhys core fun c => c.l1Store pa f.data f.hints.cache, f)
  | _ => (s, f)

/-- The request of an access to its translation. -/
def xreqOf (op : Instr) : XReq :=
  let q : XReq := { die := 0, root := {}, user := true }
  let sc := fun (c : Scope) => match c with
    | .thr | .blk | .die => 0
    | .pkg => 1
    | .dom => 2
    | .sys => 3
  match op with
  | .st _ _ _ _ _ _ => { q with wr := true }
  | .atom _ _ _ _ _ a => { q with rd := true, wr := true, scope := some (match a with
      | .die => 0
      | .pkg => 1
      | .dom => 2
      | .sys => 3) }
  | .acq _ _ _ c => { q with rd := true, scope := some (sc c) }
  | .rel _ _ _ c => { q with wr := true, scope := some (sc c) }
  | _ => { q with rd := true }

/-- The ACCESS code of an access's fault record (R211). -/
def accOf : Instr → Acc
  | .st _ _ _ _ _ _ | .rel _ _ _ _ => .store
  | .atom _ _ _ _ _ _ => .atomic
  | .illegalInstruction _ => .fetch
  | _ => .load

/-- An older access of the thread that touches the words of `f` waits in the operand log (R208). -/
def Ctx.olderLogged (k : Ctx) (id : Nat) (f : InFlight) : Bool :=
  k.olderMeets id f fun e => match e.phase with
    | .logged _ | .replay => true
    | _ => false

/-- The access may enter the operand log of its core's bank: it stands in it, or a place is free (R207). -/
def Ctx.logRoom (k : Ctx) (f : InFlight) : Bool := f.phase == .replay || decide (k.logUsed f.core < 256)

/-- Translates an access again: it faults into the operand log, where that has room, traps, or goes on as at its issue
(R207). -/
def State.translateAgain (s : State) (x id : Nat) (f : InFlight) : State :=
  match s.xThread (.cmp x f.core f.slot) (xreqOf f.op) f.ea with
  | (.trap c, _) => s.unitTrap x f.core f.slot 0 f.pc c f.ea
  | (.flt kind level size, via) =>
    if !(s.ctxAt x).logRoom f then s
    else
      let (s, f) := s.logAccess x f { xreqOf f.op with die := s.dieOf x f.core } kind level size via.isSome (accOf f.op)
      s.setInfl x id f
  | (.wait s, _) => s
  | (.ok s pa cc ac, via) =>
    let (s, f) := s.place x f id pa cc via ac
    s.setInfl x id f

/-- An access that waits behind its thread's logged one has no translation yet; it translates once the replay has completed
(R208). -/
def State.afterLogged (s : State) (x id : Nat) (f : InFlight) : State :=
  if (s.ctxAt x).olderLogged id f || !s.runs x then s else s.translateAgain x id f

/-! ## Completing accesses in flight -/

/-- Writes an access's result to its thread and ends it. -/
def State.landed (s : State) (x id : Nat) (f : InFlight) (d : Nat) (ws : List Word) : State :=
  (s.delInfl x id).modThr (.cmp x f.core f.slot) (·.land d ws)

/-- The 64 bytes of a descriptor as stored (R257). -/
def descOf (b : List Byte) : BitVec 512 := BitVec.ofNat 512 (leVal b)

/-- What the returned bytes of a load do: registers, a descriptor, or a LAUNCH's queue (R160, R238, R279). -/
def State.returnLoad (s : State) (x id : Nat) (f : InFlight) (b : List Byte) : State :=
  match f.op with
  | .ld _ d _ _ sz _ => s.landed x id f d.toNat (loadWords sz b)
  | .tdld _ h _ => (s.delInfl x id).modCtx x fun k => { k with td := tput h.toNat (descOf b) k.td }
  | .launch _ d _ =>
    let (s, r) := s.launchNow x (s.physOf x f.core) (f.ea - 16) b
    s.landed x id f d.toNat [BitVec.ofNat 32 r]
  | _ => s

/-- A load reads its next aligned 8-byte word, which is whole; each word of a wider access stands alone, and the last one
completes it (R219, R230, R238). TDLD uses no L1 (R278). -/
def State.loadWord (s : State) (x id : Nat) (f : InFlight) (pa : Nat) (cc : BitVec 2) : State :=
  let have' := f.got.getD []
  let l1 := f.hints.cache != 3 && (match f.op with
    | .tdld _ _ _ => false
    | _ => true)
  let at' := have'.length
  match s.coreLoad (s.physOf x f.core) (f.ea + BitVec.ofNat 64 at') (pa + at') cc f.via f.ac (x / 2) f.lease l1
      (min 8 (f.size - at')) (some (x, id, f)) with
  | (s, none) => s
  | (s, some b) =>
    if f.size ≤ at' + b.length then s.returnLoad x id f (have' ++ b) else s.setInfl x id { f with got := some (have' ++ b) }

/-- A load in flight goes on, once no older access of its thread to the words stands before it: its data returns and writes its
destinations (R219, R230, R239). -/
def State.loadGo (s : State) (x id : Nat) : State :=
  match tfind (s.ctxAt x).infl id with
  | none => s
  | some f =>
    match f.op, f.phase, f.pa with
    | .ld _ _ _ _ _ _, .issued, some (pa, cc) | .tdld _ _ _, .issued, some (pa, cc) | .launch _ _ _, .issued, some (pa, cc) =>
      if (s.ctxAt x).olderMeets id f InFlight.blocksLoad then s
      else if f.size ≤ (f.got.getD []).length then s.returnLoad x id f (f.got.getD [])
      else s.loadWord x id f pa cc
    | .ld _ _ _ _ _ _, .issued, none | .tdld _ _ _, .issued, none | .launch _ _ _, .issued, none => s.afterLogged x id f
    | _, _, _ => s

/-- The loads of a bundle's word that one request to the L1 serves: those of one line (R132). -/
def Ctx.request (k : Ctx) (id : Nat) (f : InFlight) : List Nat :=
  match f.req with
  | none => [id]
  | some n => (k.infl.filter fun e => e.1 == id || (e.2.req == some n && e.2.core == f.core && e.2.ea.toNat / lineSize == f.ea.toNat / lineSize)).map
      Prod.fst

/-- LOAD_RETURN: the loads of a request to the L1 return (R132, R230, R239, log 91). -/
def execLoadReturn (x id : Nat) (s : State) : Out :=
  match tfind (s.ctxAt x).infl id with
  | none => .next s
  | some f => .next (((s.ctxAt x).request id f).foldl (fun s i => s.loadGo x i) s)

/-- A write leaves the package or goes to host memory: it makes a forced boundary of a checkpointed context (R325, R341). -/
def InFlight.outbound (f : InFlight) (pa : Nat) : Bool :=
  regionOf pa == some .herbor || regionOf pa == some .host || (f.via.isSome && regionOf pa == some .herbor)

/-- The write is acknowledged: the block's counter drops, and the core's logical time rises to `w` (R222, R229). -/
def State.ackWrite (s : State) (x id : Nat) (f : InFlight) (w : Option (BitVec 24)) : State :=
  let s := (s.raiseOpt (s.physOf x f.core) w).delInfl x id
  if f.counted then s.modBlk x f.core (((s.ctxAt x).coreAt f.core).thrAt f.slot).par.blk
    (fun b => { b with unack := b.unack - 1 }) else s

/-- An atomic that stood at its port over the last committed cut returns its old value to the image of that cut too, in which the
thread stands past it (R324, R325). -/
def State.landImage (s : State) (x : Nat) (f : InFlight) (d : Nat) (ws : List Word) : State :=
  if (s.ctxAt x).ckpt.done ≤ f.epoch then s
  else s.inImage x fun s => s.modThr (.cmp x f.core f.slot) (·.land d ws)

/-- Performs a store, REL or atomic at its slice (R223, R226, R227, R229, R337). -/
def State.applyWrite (s : State) (x id : Nat) (f : InFlight) (pa : Nat) (die : Nat) (rep : Bool) : State :=
  match f.op with
  | .atom _ d _ o _ _ =>
    let old := leVal (s.curRead pa (atomSize o))
    let new := atomNew o old (bytesWords 4 f.data)
    let (s, w) := s.applyStore (.bank x f.epoch) die rep f.time pa (leBytes new (atomSize o))
    let s := s.modPhys (s.physOf x f.core) fun c => c.l1Drop (pa / lineSize)
    let s := s.landImage x f d.toNat (oldWords o old)
    (s.modThr (.cmp x f.core f.slot) (·.land d.toNat (oldWords o old))).setInfl x id { f with phase := .applied w }
  | _ => s.applyPart x id f pa die rep

/-- A write to another package: its memory takes it, of a 16-byte store one of its two words, and it is acknowledged when that package has
applied it, with the line's time there (R219, R229, R340, R341, log 14). -/
def State.remoteWrite (s : State) (x id : Nat) (f : InFlight) (pa : Nat) : State :=
  let core := s.physOf x f.core
  let (s, w) := s.farTime core
  if !s.jumpOk core w then s
  else
    match f.op with
    | .atom _ d _ o _ _ =>
      let old := leVal (s.farRead pa (atomSize o))
      let s := s.farWrite pa (leBytes (atomNew o old (bytesWords 4 f.data)) (atomSize o))
      let s := s.landImage x f d.toNat (oldWords o old)
      (s.modThr (.cmp x f.core f.slot) (·.land d.toNat (oldWords o old))).ackWrite x id f (some w)
    | _ =>
      if f.size = 16 ∧ f.half = false then (s.farWrite pa (f.data.take 8)).setInfl x id { f with half := true, phase := .issued }
      else (s.farWrite (pa + f.todo.1) f.todo.2).ackWrite x id f (some w)

/-- A write that has been applied: with snoops of its line outstanding it has reached the die point, and its acknowledgement
there raises the core's logical time; else it has reached the point of its page, and ends (R222, R226, R229, R338). -/
def State.ackApplied (s : State) (x id : Nat) (f : InFlight) (pa : Nat) (cc : BitVec 2) (w : BitVec 24) : State :=
  let core := s.physOf x f.core
  if !s.jumpOk core w then s
  else if cc != 0 && s.invOut (pa / lineSize) then s.raiseLt core w
  else s.ackWrite x id f (some w)

/-- A write held at its port stays so while its partition is halted, or until the checkpoint it waits for has committed; one
that leaves the package is first held there (R311, R325). -/
def State.portHeld (s : State) (x : Nat) (f : InFlight) (pa : Nat) : Bool :=
  let k := s.ctxAt x
  f.outbound pa && ((f.phase == .held && k.halt.isSome) || (k.ckpt.on && decide (k.ckpt.done ≤ f.epoch)))

/-- STORE_ACKNOWLEDGE: a store, REL or atomic in flight goes on: it is applied at its point of application, once the
older accesses it must follow have been performed and its slice may take it; and it is acknowledged once every snoop is
answered (R219, R222, R226, R229, R325, R336, R338). -/
def execStoreAcknowledge (x id : Nat) (s : State) : Out :=
  match tfind (s.ctxAt x).infl id with
  | none => .next s
  | some f =>
    match f.phase, f.pa with
    | .applied w, some (pa, cc) => .next (s.ackApplied x id f pa cc w)
    | .issued, some (pa, cc) | .held, some (pa, cc) | .own, some (pa, cc) =>
      match f.op with
      | .st _ _ _ _ _ _ | .atom _ _ _ _ _ _ | .rel _ _ _ _ =>
        let k := s.ctxAt x
        let late := fun (e : InFlight) => !e.buffered && (match e.phase with
          | .applied _ => false
          | _ => true)
        if k.olderMeets id f late || k.olderBuffered id f then .next s
        else if s.portHeld x f pa then
          .next ((s.setInfl x id { f with phase := .held }).modCtx x fun k => { k with ckpt := { k.ckpt with due := k.ckpt.due || decide (k.ckpt.intv ≤ f.epoch) } })
        else if regionOf pa == some .herbor then .next (s.remoteWrite x id f pa)
        else
          let die := dieOfPhys (s.physOf x f.core)
          let rep := repOk die pa cc f.via && (match f.op with
            | .atom _ _ _ _ _ _ => false
            | _ => true)
          match s.prepStore die (pa / lineSize) rep (x / 2) f.ac with
          | (s, true) => .next (s.applyWrite x id f pa die rep)
          | (s, false) => if rep then .next (s.setInfl x id { f with phase := .own }) else .next s
      | _ => .next s
    | .issued, none =>
      match f.op with
      | .st _ _ _ _ _ _ | .atom _ _ _ _ _ _ | .rel _ _ _ _ => .next (s.afterLogged x id f)
      | _ => .next s
    | _, _ => .next s

/-! ## Issuing accesses of compute threads -/

/-- Issues a global access of a compute thread: a trap, the operand log, or in flight; none of it when the log is full
(R206, R207, R240). One that touches the words of a logged access of its thread waits for the replay untranslated (R208).
`up` is the rest of the word's effect on the thread. -/
def State.issueAccess (s : State) (x : Nat) (f : InFlight) (up : Thread → Thread) : Res :=
  let t := Tid.cmp x f.core f.slot
  let q := xreqOf f.op
  let fin := fun (s : State) (f : InFlight) =>
    let s := (s.modThr t up).addInfl x f
    Res.next (if f.counted then s.modBlk x f.core (s.thr t).par.blk (fun b => { b with unack := b.unack + 1 }) else s)
  match s.xThread t q f.ea with
  | (.trap c, _) => .trap c f.ea false
  | (.flt kind level size, via) =>
    if !(s.ctxAt x).logRoom f then .hold s
    else
      let (s, f) := s.logAccess x f { q with die := s.dieOf x f.core } kind level size via.isSome (accOf f.op)
      fin s f
  | (.wait s, _) => .hold s
  | (.ok s pa cc ac, via) =>
    if (s.ctxAt x).olderLogged (s.ctxAt x).nextId f then fin s f
    else
      let (s, f) := s.place x f (s.ctxAt x).nextId pa cc via ac
      fin s f

end Sys2Proof.Machine
end

