-- ==== Sys2Proof/Machine/Blocks.lean ====
section
/-! DEFINITION. Sys2Proof/Machine/Blocks.lean: blocks and their threads, the pond, bundles and the regrouper, join slots
and barriers (R115, R116, R120 to R131, R133, R134, R137, R138, R149, R152 to R156). -/

namespace Sys2Proof.Machine

/-! ## Threads of a block -/

/-- WIDTH (R1, R68). -/
abbrev width : Nat := 32

/-- The threads of a block slot, with their thread slots. -/
def CtxCore.ofBlk (k : CtxCore) (bs : Nat) : List (Nat × Thread) := k.threads.filter fun e => e.2.par.blk == bs

/-- A thread that has started and not exited (R135). -/
def Thread.live (th : Thread) : Bool := th.par.place != .exited

/-- The live threads of a block slot. -/
def CtxCore.liveOf (k : CtxCore) (bs : Nat) : List (Nat × Thread) := (k.ofBlk bs).filter fun e => e.2.live

/-- The core with `f` applied to every thread `p` selects. -/
def CtxCore.mapThr (k : CtxCore) (p : Thread → Bool) (f : Thread → Thread) : CtxCore :=
  { k with threads := k.threads.map fun e => if p e.2 then (e.1, f e.2) else e }

/-- The thread enters the pond at clock `now`, released after `hold` clocks (R125, R127). -/
def Thread.pondAt (th : Thread) (now hold : Nat) (packed : Bool) : Thread :=
  { th with par := { th.par with place := .pond now (now + hold) packed, held := none } }

/-- A parked thread goes on at its next word, not held (R134, R152, R155). -/
def Thread.wake (th : Thread) (now : Nat) : Thread := th.past.pondAt now 0 false

/-- The thread parks. -/
def Thread.park (th : Thread) (w : Park) : Thread := { th with par := { th.par with place := .parked w, held := none } }

/-- The thread is parked for `w`. -/
def Thread.parkedAt (th : Thread) (w : Park) : Bool := th.par.place == .parked w

/-- The executing compute thread's bank, core and slot. -/
def State.here (s : State) : Nat × Nat × Nat :=
  match s.cur with
  | .cmp x c i => (x, c, i)
  | .ctl _ => (0, 0, 0)

/-! ## New blocks (R9, R116, R138, R168, R170, R181) -/

/-- The least `n` numbers from 0 that are not among `used`: fuel, number, count. -/
def firstFree (used : List Nat) : Nat → Nat → Nat → List Nat
  | 0, _, _ => []
  | f + 1, i, n => if n = 0 then [] else if used.contains i then firstFree used f (i + 1) n else i :: firstFree used f (i + 1) (n - 1)

/-- Block slots in use. -/
def CtxCore.usedBlks (k : CtxCore) : List Nat := k.blocks.map Prod.fst

/-- Thread slots in use. -/
def CtxCore.usedThrs (k : CtxCore) : List Nat := k.threads.map Prod.fst

/-- g-registers in use in a register bank: 4,096 in all (R8, R170). -/
def CtxCore.bankRegs (k : CtxCore) (b : Nat) : Nat :=
  (k.threads.filter fun e => e.2.par.tidx % width == b).foldl (fun n e => n + e.2.alloc) 0

/-- Registers for `n` more threads of `regs` registers fit in every bank (R170). -/
def CtxCore.regsFit (k : CtxCore) (n regs : Nat) : Bool :=
  (List.range width).all fun b => decide (k.bankRegs b + regs * ((n + width - 1 - b) / width) ≤ 4096)

/-- A thread at its start (R9, R168): `ini` fills its first g-registers. -/
def newThread (bs tidx : Nat) (pc : BitVec 57) (regs now : Nat) (ini : List Word) (a6 : Dword) (seed gang : Word) : Thread :=
  { (({ pc, alloc := regs, srseed := seed, gang } : Thread).setGs 0 ini).setA 6 a6 with
    par := { blk := bs, tidx, place := .pond now now false } }

/-- The core with a block in slot `bs` whose thread `i` is `mk i`. -/
def CtxCore.addBlock (k : CtxCore) (bs : Nat) (b : Block) (mk : Nat → Thread) : CtxCore :=
  let slots := firstFree k.usedThrs 1024 0 b.nthr
  { k with blocks := tput bs b k.blocks, threads := (slots.zip (List.range b.nthr)).foldl (fun t e => tput e.1 (mk e.2) t) k.threads }

/-! ## Join slots (R133, R134) -/

/-- The release check of join slot `j` of a block: every thread of a non-empty waiting set has arrived (R134). -/
def CtxCore.joinCheck (k : CtxCore) (bs j now : Nat) : CtxCore :=
  let ws := (k.liveOf bs).filter fun e => e.2.par.armed.getLsbD j
  if ws.isEmpty || !ws.all (fun e => e.2.par.arrived.getLsbD j) then k
  else
    let off := ~~~(BitVec.ofNat 16 (2 ^ j))
    k.mapThr (fun th => th.live && th.par.blk == bs && th.par.armed.getLsbD j) fun th =>
      let th := { th with par := { th.par with armed := th.par.armed &&& off, arrived := th.par.arrived &&& off } }
      if th.parkedAt (.join j) then th.wake now else th

/-- The thread's bits of slot `j` (R133). -/
def Thread.joinBits (th : Thread) (j : Nat) (armed arrived : Bool) : Thread :=
  let put := fun (v : BitVec 16) (b : Bool) => if b then v ||| BitVec.ofNat 16 (2 ^ j) else v &&& ~~~(BitVec.ofNat 16 (2 ^ j))
  { th with par := { th.par with armed := put th.par.armed armed, arrived := put th.par.arrived arrived } }

/-! ## Block barriers (R152) -/

/-- Completes barrier `b` when every live thread of the block has arrived: arrived bits clear, the phase inverts, and
the threads parked at BAR b, and those at AWAIT b whose phase it was, go on (R152). -/
def CtxCore.barCheck (k : CtxCore) (bs b now : Nat) : CtxCore :=
  let l := k.liveOf bs
  if l.isEmpty || !l.all (fun e => e.2.par.barArr.getLsbD b) then k
  else
    let off := ~~~(BitVec.ofNat 16 (2 ^ b))
    let k := k.setBlk bs { k.blkAt bs with phase := (k.blkAt bs).phase ^^^ BitVec.ofNat 16 (2 ^ b) }
    k.mapThr (fun th => th.live && th.par.blk == bs) fun th =>
      let th := { th with par := { th.par with barArr := th.par.barArr &&& off } }
      if th.parkedAt (.bar b) || th.parkedAt (.await b) then th.wake now else th

/-- The thread arrives at barrier `b` in phase `ph` (R152). -/
def Thread.barArrive (th : Thread) (b : Nat) (ph : BitVec 16) : Thread :=
  let bit := BitVec.ofNat 16 (2 ^ b)
  { th with par := { th.par with barArr := th.par.barArr ||| bit, barEver := th.par.barEver ||| bit,
                                 barPh := (th.par.barPh &&& ~~~bit) ||| (ph &&& bit) } }

/-! ## SYNCT (R155) -/

/-- The threads of team `t` of a block, live. -/
def CtxCore.teamLive (k : CtxCore) (bs t : Nat) : List (Nat × Thread) :=
  (k.liveOf bs).filter fun e => e.2.par.tidx / width == t

/-- Releases the SYNCT instance of team `t` when every thread its mask names has arrived or is not live (R155); a broken
instance releases none (R156). -/
def CtxCore.synctCheck (k : CtxCore) (bs t now : Nat) : CtxCore :=
  match tfind (k.blkAt bs).synct t with
  | none => k
  | some i =>
    let named := (k.teamLive bs t).filter fun e => i.mask.getLsbD (e.2.par.tidx % width)
    if i.broken || !named.all (fun e => e.2.parkedAt .synct) then k
    else
      (k.setBlk bs { k.blkAt bs with synct := tdel t (k.blkAt bs).synct }).mapThr
        (fun th => th.par.blk == bs && th.par.tidx / width == t && th.parkedAt .synct) fun th => th.wake now

/-! ## Group barriers (R117, R118, R154) -/

/-- KIND of a group-table entry (R117). -/
def grpKind (e : BitVec 128) : Nat := (e.extractLsb' 124 4).toNat
/-- LIST of a group-table entry. -/
def grpList (e : BitVec 128) : Bool := e.getLsbD 123
/-- COUNT of a group-table entry. -/
def grpCount (e : BitVec 128) : Nat := (e.extractLsb' 64 32).toNat
/-- STRIDE, or the high half of the list's address. -/
def grpStride (e : BitVec 128) : Nat := (e.extractLsb' 32 32).toNat
/-- FIRST, or the low half of the list's address. -/
def grpFirst (e : BitVec 128) : Nat := (e.extractLsb' 0 32).toNat

/-- Block `b` is a member of the entry (R117). -/
def grpHas (e : BitVec 128) (list : List Nat) (b : Nat) : Bool :=
  grpKind e != 0 && (if grpList e then list.contains b
    else decide (grpFirst e ≤ b) && (b - grpFirst e) % (max 1 (grpStride e)) == 0 &&
      decide ((b - grpFirst e) / (max 1 (grpStride e)) < grpCount e))

/-- The greatest member of an entry. -/
def grpLast (e : BitVec 128) (list : List Nat) : Nat :=
  if grpList e then list.getLastD 0 else grpFirst e + (grpCount e - 1) * grpStride e

/-- The blocks of a bank that belong to entry `n`: core and slot. -/
def Ctx.members (k : Ctx) (n : Nat) : List (Nat × Nat) :=
  k.cores.flatMap fun e => (e.2.blocks.filter fun b => b.2.groups.contains n).map fun b => (e.1, b.1)

/-- Completes the instance of group barrier `n` of a launch: every member has been dispatched, and every live thread of
every resident member has arrived (R154). The threads go on, and their cores' logical times rise to the publication's. -/
def State.bargCheck (s : State) (x n l : Nat) : State :=
  let k := s.ctxAt x
  let lc := tget {} k.launches l
  let e := tget 0 lc.grp n
  let ms := (k.members n).filter fun m => ((k.coreAt m.1).blkAt m.2).launch == l
  if decide (lc.next ≤ grpLast e (tget [] lc.lists n)) || ms.all (fun m => ((k.coreAt m.1).liveOf m.2).isEmpty) ||
      !ms.all (fun m => ((k.coreAt m.1).liveOf m.2).all fun t => t.2.par.barg == some n) then s
  else
    let t := tfind lc.bargT n
    let s := ms.foldl (fun s m =>
      let s := s.raiseOpt (s.physOf x m.1) t
      s.modCore x m.1 fun c => c.mapThr (fun th => th.par.blk == m.2 && th.par.barg == some n) fun th =>
        let th := { th with par := { th.par with barg := none } }
        if th.parkedAt (.barg n) then th.wake s.clock else th) s
    s.modCtx x fun k =>
      let lc := tget {} k.launches l
      { k with launches := tput l { lc with bargT := tdel n lc.bargT } k.launches }

/-- The checks that an exit, a retirement or a RESUME makes on a block: join slots, barriers, SYNCT instances, group
barriers (R91, R134, R152, R154, R155, R319). -/
def State.blockChecks (s : State) (x c bs : Nat) : State :=
  let s := s.modCore x c fun k =>
    let k := (List.range 16).foldl (fun k j => (k.joinCheck bs j s.clock).barCheck bs j s.clock) k
    (List.range 32).foldl (fun k t => k.synctCheck bs t s.clock) k
  let b := ((s.ctxAt x).coreAt c).blkAt bs
  b.groups.foldl (fun s n => s.bargCheck x n b.launch) s

/-! ## Bundles (R120 to R124, R137) -/

/-- The bundle `b` of a core. -/
def CtxCore.bundleAt (k : CtxCore) (b : Nat) : Bundle := tget {} k.bundles b

/-- The core with bundle `b` at `v`; an empty one is gone. -/
def CtxCore.setBundle (k : CtxCore) (b : Nat) (v : Bundle) : CtxCore :=
  { k with bundles := if v.lanes.isEmpty then tdel b k.bundles else tput b v k.bundles }

/-- How a thread of a dissolving bundle enters the pond: a taken backward branch arrives held (R122, R127). -/
def Issued.pond (i : Issued) (th : Thread) (now : Nat) : Thread :=
  match i with
  | .branch true _ _ true hold packed => th.pondAt now hold packed
  | _ => th.pondAt now 0 false

/-- The words of a bundle's threads make it dissolve, and whether the branch that does so is conditional or indirect
(R90, R122, R123, R137). -/
def dissolves (n : Nat) (l : List Issued) (guarded : Bool) : Bool × Bool :=
  let br := l.filterMap fun i => match i with
    | .branch t ind tgt back _ _ => some (t, ind, tgt, back)
    | _ => none
  let differ := match br with
    | [] => false
    | e :: r => r.any fun f => f.1 != e.1 || (e.1 && e.2.2.1 != f.2.2.1)
  let back := decide (n < width) && !br.isEmpty && br.all fun e => e.1 && e.2.2.2
  let cond := guarded || br.any fun e => e.2.1
  (l.contains .dissolve || differ || back, (differ || back) && cond)

/-- Ends the round of a bundle whose every thread has executed its word: it dissolves into the pond, or goes on. -/
def CtxCore.closeBundle (k : CtxCore) (b now : Nat) (guarded : Bool) : CtxCore :=
  let u := k.bundleAt b
  if !u.lanes.all (fun e => (u.did.map Prod.fst).contains e.1) then k
  else
    let (gone, unkey) := dissolves u.lanes.length (u.did.map Prod.snd) guarded
    if !gone then k.setBundle b { u with op := none, did := [], waits := [] }
    else
      let k := u.lanes.foldl (fun k e =>
        let th := ((tget Issued.plain u.did e.1).pond (k.thrAt e.1) now)
        k.setThr e.1 (if unkey then { th with par := { th.par with key := none } } else th)) k
      k.setBundle b {}

/-- The bundle waits on some threads more, since now or since it first did (R124). -/
def Bundle.waitsOn (u : Bundle) (l : List Nat) (now : Nat) : Bundle :=
  { u with waits := l.foldl (fun w i => tput i ((tfind w i).getD now) w) u.waits }

/-- Bookkeeping after a word of thread `slot` that stood in bundle `b`: the thread has executed `i`, and may have left.
A word that waited marks the bundle as waiting (R122 to R124). -/
def CtxCore.afterWord (k : CtxCore) (slot b now : Nat) (i : Issued) (guarded waits : Bool) : CtxCore :=
  let u := k.bundleAt b
  if waits then k.setBundle b (u.waitsOn [slot] now)
  else
    let stays := (k.thrAt slot).par.place == .bundle b
    let u := { u with did := (slot, i) :: u.did, lanes := if stays then u.lanes else u.lanes.filter fun e => e.1 != slot }
    (k.setBundle b u).closeBundle b now guarded

/-- A thread leaves its bundle without executing its word (R124). -/
def CtxCore.leave (k : CtxCore) (slot now : Nat) : CtxCore :=
  match (k.thrAt slot).par.place with
  | .bundle b =>
    let u := k.bundleAt b
    (k.setBundle b { u with lanes := u.lanes.filter fun e => e.1 != slot, waits := tdel slot u.waits }).closeBundle b now false
  | _ => k

/-- THREAD_SPLIT: a thread not ready 64 clocks after its bundle first waited on it leaves it, with the word that it waits at, and enters the
pond when its dependence resolves (R124). -/
def execThreadSplit (t : Tid) (s : State) : Out :=
  match t with
  | .ctl _ => .next s
  | .cmp x c slot =>
    let k := (s.ctxAt x).coreAt c
    match (k.thrAt slot).par.place with
    | .bundle b =>
      let u := k.bundleAt b
      match tfind u.waits slot with
      | none => .next s
      | some w =>
        if s.clock < w + 64 || (u.did.map Prod.fst).contains slot then .next s
        else .next (s.modCore x c fun k =>
          let th := k.thrAt slot
          (k.leave slot s.clock).setThr slot { th with iss := th.iss.or u.op, par := { th.par with place := .parked .split } })
    | _ => .next s

/-! ## The formation cycle (R125, R126, R128, R129, R131) -/

/-- A pond group: block slot, program counter, key, and its threads in ascending TIDX. -/
structure PondGroup where
  blk  : Nat
  pc   : BitVec 57
  key  : Option Word
  thrs : List (Nat × Thread)

/-- Inserts before the first element that `lt` puts after it. -/
def insertBy {α : Type} (lt : α → α → Bool) (a : α) : List α → List α
  | [] => [a]
  | b :: r => if lt a b then a :: b :: r else b :: insertBy lt a r

/-- The list in ascending order. -/
def sortBy {α : Type} (lt : α → α → Bool) (l : List α) : List α := l.foldl (fun r a => insertBy lt a r) []

/-- The group list with a thread added to its group. -/
def addToGroup (slot : Nat) (th : Thread) : List PondGroup → List PondGroup
  | [] => [{ blk := th.par.blk, pc := th.pc, key := th.par.key, thrs := [(slot, th)] }]
  | g :: r =>
    if g.blk = th.par.blk ∧ g.pc = th.pc ∧ g.key = th.par.key then
      { g with thrs := insertBy (fun a b => decide (a.2.par.tidx < b.2.par.tidx)) (slot, th) g.thrs } :: r
    else g :: addToGroup slot th r

/-- Arrival time of a thread in the pond. -/
def Thread.arrival (th : Thread) : Nat :=
  match th.par.place with
  | .pond a _ _ => a
  | _ => 0

/-- Release time of a thread in the pond. -/
def Thread.releaseAt (th : Thread) : Nat :=
  match th.par.place with
  | .pond _ r _ => r
  | _ => 0

/-- The thread's arrival asks for packed bundles (R127). -/
def Thread.packs (th : Thread) : Bool :=
  match th.par.place with
  | .pond _ _ p => p
  | _ => false

/-- The earliest of some times. -/
def earliest (l : List Nat) : Nat := l.min?.getD 0

/-- The group forms in packed mode (R131). -/
def PondGroup.packed (g : PondGroup) : Bool :=
  g.thrs.any (fun e => e.2.packs) || (match g.thrs with
    | e :: _ => e.2.regmode.getLsbD 0
    | [] => false)

/-- The group can fill a bundle in its mode (R128, R129). -/
def PondGroup.fills (g : PondGroup) : Bool :=
  if g.packed then decide (width ≤ g.thrs.length)
  else (List.range width).all fun l => g.thrs.any fun e => e.2.par.tidx % width == l

/-- Puts a thread into the first bundle whose home lane for it is free, or into a new one while `room` allows (R128). -/
def putClean (slot lane : Nat) : Nat → List (List (Nat × Nat)) → List (List (Nat × Nat))
  | 0, [] => []
  | _ + 1, [] => [[(slot, lane)]]
  | room, b :: r =>
    if b.any (fun e => e.2 == lane) then b :: putClean slot lane (room - 1) r else (b ++ [(slot, lane)]) :: r

/-- The lanes of a run of at most WIDTH threads in packed mode: first every home lane that no lower thread took, then
the free lanes in order (R129). -/
def packRun (l : List (Nat × Thread)) : List (Nat × Nat) :=
  let (home, rest) := l.foldl (fun (q : List (Nat × Nat) × List Nat) e =>
    let h := e.2.par.tidx % width
    if q.1.any (fun f => f.2 == h) then (q.1, q.2 ++ [e.1]) else (q.1 ++ [(e.1, h)], q.2)) ([], [])
  let free := (List.range width).filter fun n => !home.any fun e => e.2 == n
  home ++ rest.zip free

/-- A group's threads cut into runs of WIDTH, at most `room` of them. -/
def packRuns : Nat → List (Nat × Thread) → List (List (Nat × Nat))
  | 0, _ => []
  | _ + 1, [] => []
  | room + 1, l => packRun (l.take width) :: packRuns room (l.drop width)

/-- The bundles a group forms, at most `room` (R128, R129). -/
def PondGroup.bundles (g : PondGroup) (room : Nat) : List (List (Nat × Nat)) :=
  if g.packed then packRuns room g.thrs
  else g.thrs.foldl (fun l e => putClean e.1 (e.2.par.tidx % width) room l) []

/-- The core with a new bundle of the given lanes. -/
def CtxCore.newBundle (k : CtxCore) (lanes : List (Nat × Nat)) : CtxCore :=
  let b := (firstFree (k.bundles.map Prod.fst) 1025 0 1).headD 0
  let k := lanes.foldl (fun k e =>
    let th := k.thrAt e.1
    k.setThr e.1 { th with par := { th.par with place := .bundle b, held := none } }) k
  k.setBundle b { lanes }

/-- One formation cycle at clock `now`: at most four bundles (R126). Groups that differ in their key alone come in the order of
the thread table (log 72). -/
def CtxCore.form (k : CtxCore) (now : Nat) : CtxCore :=
  let able := k.threads.filter fun e => match e.2.par.place with
    | .pond a _ _ => decide (a < now)
    | _ => false
  let old := fun (g : PondGroup) => earliest (g.thrs.map fun e => e.2.arrival)
  let before := fun (g h : PondGroup) =>
    decide (old g < old h) || (old g == old h && (decide (g.blk < h.blk) || (g.blk == h.blk && decide (g.pc.toNat < h.pc.toNat))))
  let groups := sortBy before (able.foldl (fun l e => addToGroup e.1 e.2 l) [])
  (groups.foldl (fun (q : CtxCore × Nat) g =>
    if q.2 = 0 || !(g.fills || decide (earliest (g.thrs.map fun e => e.2.releaseAt) ≤ now)) then q
    else
      let bs := g.bundles q.2
      (bs.foldl CtxCore.newBundle q.1, q.2 - bs.length)) (k, 4)).1

/-- The context of bank `x` is on its cores, and its units have not stopped (R311, R320). -/
def State.going (s : State) (x : Nat) : Bool :=
  (s.partAt (x / 2)).active == some (x % 2) &&
  !(s.ctxAt x).ckpt.roll &&
  match (s.ctxAt x).halt with
  | some h => !h.stopped
  | none => true

/-- The formation cycle of a core, once in an even clock, where its bank is active and not stopped (R126, R311). -/
def State.formNow (s : State) (x c : Nat) : State :=
  if s.clock % 2 != 0 || !s.going x || ((s.ctxAt x).coreAt c).formed == some s.clock then s
  else s.modCore x c fun k => { k.form s.clock with formed := some s.clock }

/-- FORMATION_CYCLE (R126, R311). -/
def execFormationCycle (x c : Nat) (s : State) : Out := .next (s.formNow x c)

/-- Every core runs the formation cycle of an even clock before the clock ends (R126). -/
def State.regroup (s : State) : State :=
  if s.clock % 2 != 0 then s
  else s.ctxs.foldl (fun s e => e.2.cores.foldl (fun s c => s.formNow e.1 c.1) s) s

/-- SLEEP_EXPIRY: a sleeping thread's count has run out; it enters the pond at its next word, not held (R149). A halt
freezes the count. -/
def execSleepExpiry (t : Tid) (s : State) : Out :=
  match t with
  | .ctl n => .next (s.modCtl n fun c => match c.sleep with
    | some w => if w ≤ s.clock then { c with sleep := none } else c
    | none => c)
  | .cmp x c slot =>
    let k := (s.ctxAt x).coreAt c
    match (k.thrAt slot).par.place with
    | .parked (.sleep w) =>
      if s.clock < w || (s.ctxAt x).halt.isSome then .next s
      else .next (s.modCore x c fun k => k.setThr slot ((k.thrAt slot).pondAt s.clock 0 false))
    | _ => .next s

end Sys2Proof.Machine
end

