-- ==== Sys2Proof/Machine/Bx4.lean ====
section
/-! DEFINITION. Sys2Proof/Machine/Bx4.lean: the two-level scaled BX4 format: band scales, block scales, elements (R36 to
R38). -/

namespace Sys2Proof.Machine

/-- An E3M5 block scale as n * 2^e (R37). -/
def e3m5 (code : Nat) : Nat × Int :=
  let e := code / 32 % 8
  let m := code % 32
  if e = 0 then (m, -7) else (32 + m, (e : Int) - 8)

/-- n * 2^e <= m * 2^g. -/
def leMag (n : Nat) (e : Int) (m : Nat) (g : Int) : Bool :=
  let q := min e g
  decide (n * 2 ^ (e - q).toNat ≤ m * 2 ^ (g - q).toNat)

/-- The larger magnitude of two finite ones. -/
def maxMag (x y : Nat × Int) : Nat × Int := if leMag x.1 x.2 y.1 y.2 then y else x

/-- The largest finite magnitude of a list of values; zero when there is none. -/
def largest (vs : List FV) : Nat × Int :=
  vs.foldl (fun m v => match v with
    | .fin _ n e => maxMag m (n, e)
    | _ => m) (0, 0)

/-- The exponent of the band scale for a largest magnitude n * 2^e: 1.0 for zero, else the smallest power of two with
the magnitude at most 189 times it, held to what BF16 holds (R38). -/
def bandExp (n : Nat) (e : Int) : Int :=
  if n = 0 then 0
  else
    let k := e + bitLen n - 8
    let k := if leMag n e 189 k then k else k + 1
    max (-126) (min k 127)

/-- The BF16 bits of 2^k. -/
def bf16Pow (k : Int) : Nat := (k + 127).toNat * 128

/-- The block scale's code for a block of values under band scale bn * 2^be (R38). -/
def blockScale (vs : List FV) (bn : Nat) (be : Int) : Nat :=
  if vs.any (fun v => match v with
    | .inf _ => true
    | _ => false) then 255
  else
    let b := largest vs
    if b.1 = 0 then 0
    else if !leMag b.1 b.2 (189 * bn) be then 255
    else ((List.range 256).find? fun c =>
      let s := e3m5 c
      leMag b.1 b.2 (6 * s.1 * bn) (s.2 + be)).getD 255

/-- x divided by a positive finite value: it rounds as the exact quotient does. -/
def FV.divBy (x : FV) (m : Nat) (g : Int) : FV :=
  match x with
  | .fin s n e =>
    let (q, k) := divFin n m
    .fin s q (k + e - g)
  | v => v

/-- An element of a block quantised to E2M1 (R38): a quotient above 6 in magnitude is delivered as ±6 and records OVF,
whatever it would round to (log 64). -/
def quantElem (x : FV) (sc : Nat) (bn : Nat) (be : Int) (rm : RM) (draw : Nat) : Narrow :=
  match x with
  | .nan _ => ⟨0, false, true, false⟩
  | .inf s => ⟨if s then 15 else 7, true, false, false⟩
  | .fin _ _ _ =>
    let s := e3m5 sc
    if s.1 = 0 then ⟨0, false, false, false⟩
    else
      match x.divBy (s.1 * bn) (s.2 + be) with
      | .fin t n e => if leMag n e 6 0 then e2m1.narrow rm draw (.fin t n e) else ⟨e2m1.maxCode t, true, false, true⟩
      | v => e2m1.narrow rm draw v

/-- The value of a BX4 element: E2M1 code times block scale times a finite band scale (R37). -/
def bx4Value (code sc : Nat) (bneg : Bool) (bn : Nat) (be : Int) : FV :=
  match e2m1.dec code with
  | .fin s n e =>
    let t := e3m5 sc
    .fin (s != bneg) (n * t.1 * bn) (e + t.2 + be)
  | v => v

end Sys2Proof.Machine
end

