-- ==== Sys2Proof/Machine/Flags.lean ====
section
/-! DEFINITION. Sys2Proof/Machine/Flags.lean: FPMODE as instructions capture it, the floating-point flags and their trap
(R45, R52 to R55, R98). -/

namespace Sys2Proof.Machine

/-- FPMODE.DAZ. -/
def fpDaz (m : Word) : Bool := m.getLsbD 3

/-- FPMODE.FTZ. -/
def fpFtz (m : Word) : Bool := m.getLsbD 4

/-- FPMODE.RM. -/
def fpRm (m : Word) : RM := RM.ofCode (m.extractLsb' 0 3).toNat

/-- FPMODE.FTRAP, at the places of FPFLAGS [4:0]. -/
def fpTrap (m : Word) : Nat := (m.extractLsb' 8 5).toNat

/-- FPMODE.PTRAP, at the places of the cause mask (R49, R52). -/
def fpPtrap (m : Word) : Nat := (m.extractLsb' 13 5).toNat

/-- SR where the destination does not take it rounds as RNE (R45). -/
def noSr (rm : RM) : RM := if rm = .sr then .rne else rm

/-- The rounding mode of an instruction: HM RND when pending, else `dflt` (R45, R98). -/
def rndMode (h : Hints) (dflt : RM) : RM := if h.rnd = 0 then dflt else RM.ofCode (h.rnd - 1)

/-- How a floating instruction that never rounds stochastically delivers its result (R98). -/
def fpDeliver (th : Thread) : Deliver :=
  { rm := rndMode th.hints (noSr (fpRm th.fpmode)), sat := th.hints.sat, ftz := fpFtz th.fpmode }

/-- Completes a floating instruction with its flags: an enabled flag raises cause 0x0E with the enabled flags raised,
and nothing is written; else the flags join FPFLAGS (R54, R98). -/
def fpRes (s : State) (fl : Nat) (f : Thread → Thread) : Res :=
  let en := (fl % 32) &&& fpTrap s.me.fpmode
  if en ≠ 0 then .trap 0x0E (BitVec.ofNat 64 en) false
  else .next (s.modMe fun th => f { th with fpflags := th.fpflags ||| BitVec.ofNat 32 fl })

end Sys2Proof.Machine
end

