-- ==== Sys2Proof/Machine/Convert.lean ====
section
/-! DEFINITION. Sys2Proof/Machine/Convert.lean: CVT (R109 to R114). -/

namespace Sys2Proof.Machine

/-- The destination takes stochastic rounding (R45, R109). -/
def cvtSr (c : CvtCode) : Bool :=
  match c with
  | .bf16x2OfF32 | .f16x2OfF32 | .e4m3x4OfF32 | .e5m2x4OfF32 | .e4m3x4OfBf16x2 | .e5m2x4OfBf16x2 | .bx4blkOfF32 => true
  | _ => false

/-- How many elements a stochastic conversion draws for (R46, R114). -/
def cvtDraws (c : CvtCode) : Nat :=
  match c with
  | .bf16x2OfF32 | .f16x2OfF32 => 2
  | .e4m3x4OfF32 | .e5m2x4OfF32 | .e4m3x4OfBf16x2 | .e5m2x4OfBf16x2 => 4
  | .bx4blkOfF32 => 8
  | _ => 0

/-- The mode a conversion rounds by: HM RND, FPMODE.RM when DYN, else the field (R109). -/
def cvtMode (th : Thread) (c : CvtCode) (y : BitVec 1) (f : BitVec 2) : RM :=
  let rm := rndMode th.hints (if y = 1 then fpRm th.fpmode else RM.ofCode f.toNat)
  if cvtSr c then rm else noSr rm

/-- The states of the generator after 0, 1, ... n draws. -/
def srStates : Nat → Word → List Word
  | 0, x => [x]
  | n + 1, x => x :: srStates n (srNext x)

/-- A conversion between IEEE formats of one element (R111). -/
def cvtIeee (src dst : Fmt) (daz : Bool) (d : Deliver) (bits : Nat) : BF :=
  let v := src.decDaz (daz && src.w != 64) bits
  let (r, g) := dst.deliver { d with ftz := d.ftz && dst.w != 64 } v
  (r, g ||| (if v.isSig then flNV else 0))

/-- The flags of a narrow element (R113). -/
def narrowFlags (v : FV) (r : Narrow) : Nat :=
  (if r.ovf then flNSAT else 0) ||| (if r.inv then flNNAN else 0) ||| (if v.isSig then flNV else 0) |||
  (if r.inex then flNX else 0)

/-- Narrow elements packed `w` bits each, lowest first, with their flags. -/
def packNarrow (w : Nat) (vs : List FV) (f : Nat → FV → Narrow) : BF :=
  ((vs.zipIdx).map fun (v, i) => let r := f i v; (r.code * 2 ^ (w * i), narrowFlags v r)).foldl
    (fun x y => (x.1 + y.1, x.2 ||| y.2)) (0, 0)

/-- A value converted to an integer range, as a number mod 2^64 (R112). -/
def cvtInt (rm : RM) (lo hi : Int) (v : FV) : Int × Nat :=
  match v with
  | .nan _ => (0, flNV)
  | .inf s => (if s then lo else hi, flNV)
  | .fin s n e =>
    let (k, ix) := toIntegral rm s n e
    if hi < k then (hi, flNV) else if k < lo then (lo, flNV) else (k, if ix then flNX else 0)

/-- The registers CVT reads from A, and writes from D (R110). -/
def cvtRegs (c : CvtCode) : Nat × Nat :=
  match c with
  | .f32OfF64 => (2, 1)
  | .f64OfF32 => (1, 2)
  | .bf16x2OfF32 | .f16x2OfF32 => (2, 1)
  | .f32OfBf16x2 | .f32OfF16x2 => (1, 2)
  | .e4m3x4OfF32 | .e5m2x4OfF32 => (4, 1)
  | .f32OfE4m3x4 | .f32OfE5m2x4 => (1, 4)
  | .e2m1x8OfF32 => (8, 1)
  | .f32OfE2m1x8 => (1, 8)
  | .e4m3x4OfBf16x2 | .e5m2x4OfBf16x2 => (2, 1)
  | .bxbandOfF32 => (1, 1)
  | .bx4blkOfF32 => (8, 2)
  | .f32OfBx4blk => (2, 8)
  | .i32OfF32 | .u32OfF32 | .f32OfI32 | .f32OfU32 => (1, 1)
  | .i32OfF64 | .u32OfF64 => (2, 1)
  | .f64OfI32 | .f64OfU32 => (1, 2)
  | .i64OfF64 | .u64OfF64 | .f64OfI64 | .f64OfU64 => (2, 2)

/-- Words of a list of results, with joined flags. -/
def joinBF (l : List BF) : List Word × Nat :=
  (l.map fun x => BitVec.ofNat 32 x.1, l.foldl (fun g x => g ||| x.2) 0)

/-- A 64-bit result as two words. -/
def two (r : BF) : List Word × Nat :=
  ([BitVec.ofNat 32 r.1, BitVec.ofNat 32 (r.1 / 2 ^ 32)], r.2)

/-- CVT.BX4BLK.F32 on the eight source values and the second destination register (R114). The band scale is read at its
exact value, DAZ or not (log 67). -/
def cvtBlk (rm : RM) (draws : List Word) (vs : List FV) (hi : Word) : List Word × Nat :=
  match bf16.dec (hi.toNat / 65536) with
  | .fin false (n + 1) e =>
    let sc := blockScale vs (n + 1) e
    let r := packNarrow 4 vs fun i v => quantElem v sc (n + 1) e rm (srDraw (draws.getD i 0))
    ([BitVec.ofNat 32 r.1, BitVec.ofNat 32 (hi.toNat / 65536 * 65536 + sc)], r.2)
  | _ => ([0, BitVec.ofNat 32 (hi.toNat / 65536 * 65536)], flNV)

/-- CVT.F32.BX4BLK (R114); the band scale as in cvtBlk (log 67). -/
def cvtUnblk (d : Deliver) (lo hi : Word) : List Word × Nat :=
  match bf16.dec (hi.toNat / 65536) with
  | .fin s n e => joinBF ((List.range 8).map fun i =>
      fp32.deliver d (bx4Value (lo.toNat / 16 ^ i % 16) (hi.toNat % 256) s n e))
  | _ => (List.replicate 8 0, flNV)

/-- The destination words and flags of a conversion (R111 to R114). -/
def cvtWords (th : Thread) (c : CvtCode) (rm : RM) (d a : Nat) : List Word × Nat :=
  let daz := fpDaz th.fpmode
  let draws := srStates 8 th.srseed
  let sat := match c with
    | .f32OfF64 | .bf16x2OfF32 | .f16x2OfF32 | .f32OfBx4blk | .f32OfI32 | .f32OfU32 => th.hints.sat
    | _ => false
  let dl := fun (i : Nat) => ({ rm, sat, ftz := fpFtz th.fpmode, draw := srDraw (draws.getD i 0) } : Deliver)
  let g := fun (i : Nat) => (th.gr (a + i)).toNat
  let f32s := fun (n : Nat) => (List.range n).map fun i => fp32.decDaz daz (g i)
  let x64 := (th.pair a).toNat
  let narrow := fun (f : Fmt) (vs : List FV) =>
    let r := packNarrow f.w vs fun i v => f.narrow rm (srDraw (draws.getD i 0)) v
    ([BitVec.ofNat 32 r.1], r.2)
  let widen := fun (f : Fmt) (n : Nat) =>
    joinBF ((List.range n).map fun i => fp32.deliver {} (f.dec (g 0 / 2 ^ (f.w * i) % 2 ^ f.w)))
  let bfs := (List.range 4).map fun i => bf16.decDaz daz (g (i / 2) / 65536 ^ (i % 2) % 65536)
  let ofI := fun (f : Fmt) (v : Int) => f.deliver { dl 0 with ftz := false } (.ofInt v)
  let int := fun (lo hi : Int) (v : FV) => let (k, fl) := cvtInt rm lo hi v; ((k % 2 ^ 64).toNat, fl)
  match c with
  | .f32OfF64 => joinBF [cvtIeee fp64 fp32 daz (dl 0) x64]
  | .f64OfF32 => two (cvtIeee fp32 fp64 daz (dl 0) (g 0))
  | .bf16x2OfF32 =>
    let x := cvtIeee fp32 bf16 daz (dl 0) (g 0)
    let y := cvtIeee fp32 bf16 daz (dl 1) (g 1)
    joinBF [(x.1 + y.1 * 65536, x.2 ||| y.2)]
  | .f16x2OfF32 =>
    let x := cvtIeee fp32 fp16 daz (dl 0) (g 0)
    let y := cvtIeee fp32 fp16 daz (dl 1) (g 1)
    joinBF [(x.1 + y.1 * 65536, x.2 ||| y.2)]
  | .f32OfBf16x2 => joinBF ((List.range 2).map fun i => cvtIeee bf16 fp32 daz (dl 0) (g 0 / 65536 ^ i % 65536))
  | .f32OfF16x2 => joinBF ((List.range 2).map fun i => cvtIeee fp16 fp32 daz (dl 0) (g 0 / 65536 ^ i % 65536))
  | .e4m3x4OfF32 => narrow e4m3 (f32s 4)
  | .e5m2x4OfF32 => narrow e5m2 (f32s 4)
  | .e2m1x8OfF32 => narrow e2m1 (f32s 8)
  | .f32OfE4m3x4 => widen e4m3 4
  | .f32OfE5m2x4 => widen e5m2 4
  | .f32OfE2m1x8 => widen e2m1 8
  | .e4m3x4OfBf16x2 => narrow e4m3 bfs
  | .e5m2x4OfBf16x2 => narrow e5m2 bfs
  | .bxbandOfF32 =>
    match fp32.decDaz daz (g 0) with
    | .fin _ n e => ([BitVec.ofNat 32 (bf16Pow (bandExp n e) * 65536)], 0)
    | _ => ([BitVec.ofNat 32 (bf16Pow 127 * 65536)], flNV)
  | .bx4blkOfF32 => cvtBlk rm draws (f32s 8) (th.gr (d + 1))
  | .f32OfBx4blk => cvtUnblk (dl 0) (th.gr a) (th.gr (a + 1))
  | .i32OfF32 => joinBF [int (-2147483648) 2147483647 (fp32.decDaz daz (g 0))]
  | .u32OfF32 => joinBF [int 0 4294967295 (fp32.decDaz daz (g 0))]
  | .f32OfI32 => joinBF [ofI fp32 (th.gr a).toInt]
  | .f32OfU32 => joinBF [ofI fp32 (g 0)]
  | .i32OfF64 => joinBF [int (-2147483648) 2147483647 (fp64.dec x64)]
  | .u32OfF64 => joinBF [int 0 4294967295 (fp64.dec x64)]
  | .f64OfI32 => two (ofI fp64 (th.gr a).toInt)
  | .f64OfU32 => two (ofI fp64 (g 0))
  | .i64OfF64 => two (int (-(2 ^ 63)) (2 ^ 63 - 1) (fp64.dec x64))
  | .u64OfF64 => two (int 0 (2 ^ 64 - 1) (fp64.dec x64))
  | .f64OfI64 => two (ofI fp64 (th.pair a).toInt)
  | .f64OfU64 => two (ofI fp64 x64)

/-- CVT (R109 to R114): sources are read whole before any destination is written; SRSEED moves by one draw per element
when the mode is SR. -/
def execCvt (pg : BitVec 3) (d a : BitVec 7) (y : BitVec 1) (c : CvtCode) (f : BitVec 2) (s : State) : Out :=
  let th := s.me
  let rm := cvtMode th c y f
  let r := cvtWords th c rm d.toNat a.toNat
  let seed := if rm = .sr then (srStates (cvtDraws c) th.srseed).getLastD th.srseed else th.srseed
  runWord { i := .cvt pg d a y c f, pg,
            gs := (List.range (cvtRegs c).1).map (a.toNat + ·) ++ (List.range (cvtRegs c).2).map (d.toNat + ·),
            hu := { sat := true, rnd := true, rnd5 := cvtSr c } } s
    (fpRes s r.2 fun t => { t with srseed := seed }.setGs d.toNat r.1)

end Sys2Proof.Machine
end

