-- ==== Sys2Proof/Machine/Special.lean ====
section
/-! DEFINITION. Sys2Proof/Machine/Special.lean: the special functions of R107. The approximate ones deliver the free
value Config.sfu names where it lies within the bound of R107, and else the value nearest the function's (log 10).
Bounds are judged with fixed-point numbers of 160 fraction bits. -/

namespace Sys2Proof.Machine

/-! ## Fixed-point functions: an integer x stands for x / 2^160 -/

/-- Fraction bits. -/
def fxP : Nat := 160

/-- One. -/
def fxOne : Int := 2 ^ 160

/-- A product. -/
def fxMul (x y : Int) : Int := x * y / fxOne

/-- A quotient. -/
def fxDiv (x y : Int) : Int := x * fxOne / y

/-- A finite value as a fixed-point number. -/
def fxOf (s : Bool) (n : Nat) (e : Int) : Int :=
  let k := e + fxP
  let m : Int := if 0 ≤ k then (n : Int) * 2 ^ k.toNat else (n : Int) / 2 ^ (-k).toNat
  if s then -m else m

/-- The sum of t, t*z/(i), ... : a power series whose term is multiplied by `z` and divided by `den i`. -/
def fxSeries (z : Int) (den : Nat → Int) : Nat → Nat → Int → Int → Int
  | 0, _, _, acc => acc
  | k + 1, i, t, acc =>
    let t' := fxMul t z / den i
    fxSeries z den k (i + 1) t' (acc + t')

/-- e^z for |z| < 1. -/
def fxExp (z : Int) : Int := fxSeries z (fun i => (i : Int)) 48 1 fxOne fxOne

/-- The sum over odd i of z^i / i, from powers; sign s each step (1 for atanh, -1 for atan). -/
def fxAtan (sgn : Int) (z : Int) : Nat → Nat → Int → Int → Int
  | 0, _, _, acc => acc
  | k + 1, i, p, acc => fxAtan sgn z k (i + 2) (sgn * fxMul (fxMul p z) z) (acc + p / (i : Int))

/-- atanh z for |z| <= 1/3. -/
def fxAtanh (z : Int) : Int := fxAtan 1 z 60 1 z 0

/-- ln 2 = 2 atanh (1/3). -/
def fxLn2 : Int := 2 * fxAtanh (fxOne / 3)

/-- Pi by Machin's formula. -/
def fxPi : Int := 4 * (4 * fxAtan (-1) (fxOne / 5) 60 1 (fxOne / 5) 0 - fxAtan (-1) (fxOne / 239) 60 1 (fxOne / 239) 0)

/-- 2^x for a fixed-point x: a fixed-point factor in [1, 2) and a power of two. -/
def fxExp2 (x : Int) : Int × Int := (fxExp (fxMul (x % fxOne) fxLn2), x / fxOne)

/-- e^x as a fixed-point number, for x <= 0. -/
def fxExpNeg (x : Int) : Int :=
  let (m, k) := fxExp2 (fxDiv x fxLn2)
  if 0 ≤ k then m * 2 ^ k.toNat else m / 2 ^ (-k).toNat

/-- log2 of n * 2^e, n not 0. -/
def fxLog2 (n : Nat) (e : Int) : Int :=
  let k := bitLen n - 1
  let m : Int := (n : Int) * fxOne / 2 ^ k
  fxDiv (2 * fxAtanh (fxDiv (m - fxOne) (m + fxOne))) fxLn2 + (k + e) * fxOne

/-- sin x, by its series after reduction by 2 pi. -/
def fxSin (x : Int) : Int :=
  let t := 2 * fxPi
  let r := x - (x / t) * t - (if fxPi < x - (x / t) * t then t else 0)
  fxSeries (-(fxMul r r)) (fun i => (2 * (i : Int)) * (2 * i + 1)) 40 1 r r

/-- cos x. -/
def fxCos (x : Int) : Int := fxSin (x + fxPi / 2)

/-! ## Free values within a bound -/

/-- The slack left for the error of the fixed-point evaluation itself, by which a free value must lie within its bound (log 10). -/
def fxSlack : Int := 2 ^ 40

/-- A fixed-point number as a value. -/
def fxVal (v : Int) : FV := .fin (decide (v < 0)) v.natAbs (-160)

/-- One unit in the last place of FP32 at a fixed-point value, in fixed point. -/
def fxUlp (v : Int) : Int := 2 ^ (max 11 (bitLen v.natAbs : Int) - 24).toNat

/-- FP32 bits with a result below 2^-126 in magnitude delivered as zero of its sign (R107). -/
def flushTiny (b : Nat) : Nat := if b / 2 ^ 23 % 256 = 0 then b / 2 ^ 31 * 2 ^ 31 else b

/-- The approximate result for the exact value `v` (times 2^k), within `bound` (in the same scale): the free value of
code `code` at source `x` when it meets the bound, else the nearest FP32 value (R107, R108, log 10). -/
def sfuPick (code : Nat) (x : BitVec 32) (v bound : Int) (k : Int) : Nat :=
  let c := (Config.sfu code x).toNat
  let ok := match fp32.dec c with
    | .fin s n e =>
      let y := fxOf s n (e - k)
      decide ((y - v).natAbs ≤ (bound - fxSlack).natAbs)
    | _ => false
  let b := if ok then c else
    match fxVal v with
    | .fin s n e => (fp32.deliver {} (.fin s n (e + k))).1
    | _ => 0
  flushTiny b

/-- A faithful result: the exact value when it is representable, else one of its two FP32 neighbours, chosen by the
free value (R107, log 10). -/
def sfuFaithful (code : Nat) (x : BitVec 32) (s : Bool) (n : Nat) (e : Int) : Nat :=
  let lo := (fp32.deliver { rm := .rz } (.fin s n e)).1
  let hi := (fp32.deliver { rm := if s then .rdn else .rup } (.fin s n e)).1
  flushTiny (if (Config.sfu code x).toNat % 2 = 0 then lo else hi)

/-! ## The FP32 functions (R107); `x` are the source bits as read, after DAZ -/

/-- FRCP. -/
def sfFrcp (code : Nat) (x : BitVec 32) : BF :=
  match fp32.dec x.toNat with
  | .nan g => (fp32.qnan, if g then flNV else 0)
  | .inf s => (fp32.sign s, 0)
  | .fin s n e =>
    if n = 0 then (fp32.infinity s, flDZ)
    else
      let (q, k) := divFin 1 n
      (sfuFaithful code x s q (k - e), 0)

/-- FRSQ. -/
def sfFrsq (code : Nat) (x : BitVec 32) : BF :=
  match fp32.dec x.toNat with
  | .nan g => (fp32.qnan, if g then flNV else 0)
  | .inf s => if s then (fp32.qnan, flNV) else (0, 0)
  | .fin s n e =>
    if n = 0 then (fp32.infinity s, flDZ)
    else if s then (fp32.qnan, flNV)
    else
      let (q, k) := divFin 1 n
      let (r, j) := sqrtFin q (k - e)
      (sfuFaithful code x false r j, 0)

/-- FEXP2: exact at every integer from -126 to 127; overflow from 128. -/
def sfFexp2 (code : Nat) (x : BitVec 32) : BF :=
  match fp32.dec x.toNat with
  | .nan g => (fp32.qnan, if g then flNV else 0)
  | .inf s => (if s then 0 else fp32.infinity false, 0)
  | .fin s n e =>
    let v := fxOf s n e
    if 128 * fxOne ≤ v then (fp32.infinity false, flOF)
    else if v < -(200 * fxOne) then (0, 0)
    else
      let (m, k) := fxExp2 v
      if v % fxOne = 0 ∧ -126 ≤ k then ((fp32.deliver {} (.fin false 1 k)).1, 0)
      else (sfuPick code x m (2 * fxUlp m) k, 0)

/-- FLOG2: exact at every power of two. -/
def sfFlog2 (code : Nat) (x : BitVec 32) : BF :=
  match fp32.dec x.toNat with
  | .nan g => (fp32.qnan, if g then flNV else 0)
  | .inf s => if s then (fp32.qnan, flNV) else (fp32.infinity false, 0)
  | .fin s n e =>
    if n = 0 then (fp32.infinity true, flDZ)
    else if s then (fp32.qnan, flNV)
    else if n = 2 ^ (bitLen n - 1) then ((fp32.deliver {} (.ofInt (e + bitLen n - 1))).1, 0)
    else
      let v := fxLog2 n e
      let y := fxOf false n e
      let near := decide (fxOne / 2 ≤ y) && decide (y ≤ 2 * fxOne)
      (sfuPick code x v (if near then 2 ^ 138 else 2 * fxUlp v) 0, 0)

/-- FSIN and FCOS outside |x| <= 1,024 pi: a value in [-1, 1]. -/
def sfuUnit (code : Nat) (x : BitVec 32) : Nat := sfuPick code x 0 (fxOne + fxSlack) 0

/-- FSIN. -/
def sfFsin (code : Nat) (x : BitVec 32) : BF :=
  match fp32.dec x.toNat with
  | .nan g => (fp32.qnan, if g then flNV else 0)
  | .inf _ => (fp32.qnan, flNV)
  | .fin s n e =>
    if n = 0 then (fp32.sign s, 0)
    else
      let v := fxOf s n e
      if 1024 * fxPi < v.natAbs then (sfuUnit code x, 0) else (sfuPick code x (fxSin v) (2 ^ 139) 0, 0)

/-- FCOS. -/
def sfFcos (code : Nat) (x : BitVec 32) : BF :=
  match fp32.dec x.toNat with
  | .nan g => (fp32.qnan, if g then flNV else 0)
  | .inf _ => (fp32.qnan, flNV)
  | .fin s n e =>
    if n = 0 then (0x3F800000, 0)
    else
      let v := fxOf s n e
      if 1024 * fxPi < v.natAbs then (sfuUnit code x, 0) else (sfuPick code x (fxCos v) (2 ^ 139) 0, 0)

/-- FTANH. -/
def sfFtanh (code : Nat) (x : BitVec 32) : BF :=
  match fp32.dec x.toNat with
  | .nan g => (fp32.qnan, if g then flNV else 0)
  | .inf s => (fp32.sign s + 0x3F800000, 0)
  | .fin s n e =>
    if n = 0 then (fp32.sign s, 0)
    else
      let v := fxOf false n e
      if 10 * fxOne ≤ v then (fp32.sign s + 0x3F800000, 0)
      else
        let t := fxExpNeg (-(2 * v))
        let r := fxDiv (fxOne - t) (fxOne + t)
        (sfuPick code x (if s then -r else r) (2 ^ 139) 0, 0)

/-- FSIGM. -/
def sfFsigm (code : Nat) (x : BitVec 32) : BF :=
  match fp32.dec x.toNat with
  | .nan g => (fp32.qnan, if g then flNV else 0)
  | .inf s => (if s then 0 else 0x3F800000, 0)
  | .fin s n e =>
    if n = 0 then (0x3F000000, 0)
    else
      let v := fxOf s n e
      if 18 * fxOne ≤ v then (0x3F800000, 0)
      else if v ≤ -(104 * fxOne) then (0, 0)
      else
        let t := fxExpNeg (if s then v else -v)
        let r := if s then fxDiv t (fxOne + t) else fxDiv fxOne (fxOne + t)
        (sfuPick code x r (2 ^ 138) 0, 0)

/-! ## The exact functions, in any IEEE format (R107) -/

/-- FSQRT. -/
def exSqrt (f : Fmt) (d : Deliver) (v : FV) : BF :=
  match v with
  | .nan g => (f.qnan, if g then flNV else 0)
  | .inf s => if s then (f.qnan, flNV) else (f.infinity false, 0)
  | .fin s n e =>
    if n = 0 then (f.sign s, 0)
    else if s then (f.qnan, flNV)
    else
      let (r, j) := sqrtFin n e
      f.deliver d (.fin false r j)

/-- FRND: rounded to an integral value, sign kept, no NX. -/
def exRnd (f : Fmt) (d : Deliver) (v : FV) : BF :=
  match v with
  | .nan g => (f.qnan, if g then flNV else 0)
  | .inf s => (f.infinity s, 0)
  | .fin s n e =>
    let (m, _) := toIntegral d.rm s n e
    ((f.deliver {} (.fin s m.natAbs 0)).1, 0)

/-- FABS and FNEG: the sign bit chosen by `g`; FTZ flushes a subnormal result (R33, R107). -/
def exSign (f : Fmt) (d : Deliver) (g : Bool → Bool) (v : FV) : BF :=
  match v with
  | .nan x => (f.qnan, if x then flNV else 0)
  | .inf s => (f.infinity (g s), 0)
  | .fin s n e => f.deliver d (.fin (g s) n e)

/-- FCLASS: one bit of ten (R107). -/
def exClass (f : Fmt) (bits : Nat) : Nat :=
  match f.dec bits with
  | .nan g => if g then 2 ^ 8 else 2 ^ 9
  | .inf s => if s then 2 ^ 0 else 2 ^ 7
  | .fin s n _ =>
    if n = 0 then (if s then 2 ^ 3 else 2 ^ 4)
    else if n < 2 ^ f.fb then (if s then 2 ^ 2 else 2 ^ 5)
    else if s then 2 ^ 1 else 2 ^ 6

/-! ## Seeds (R103) -/

/-- A value rounded by RNE to 12 significant bits over an unbounded exponent range, then ranged to normal FP64. -/
def seed12 (s : Bool) (n : Nat) (e : Int) : BF :=
  let q := e + bitLen n - 12
  let (m, _) := roundAt .rne s n e q 0
  let top := q + bitLen m - 1
  if 1024 ≤ top then (fp64.infinity s, flOF)
  else if top < -1022 then (fp64.sign s, flUF)
  else ((fp64.deliver {} (.fin s m q)).1, 0)

/-- DRCPA (R103). -/
def exDrcpa (bits : Nat) : BF :=
  match fp64.dec bits with
  | .nan g => (fp64.qnan, if g then flNV else 0)
  | .inf s => (fp64.sign s, 0)
  | .fin s n e =>
    if n = 0 then (fp64.infinity s, flDZ)
    else
      let (q, k) := divFin 1 n
      seed12 s q (k - e)

/-- DRSQA (R103). -/
def exDrsqa (bits : Nat) : BF :=
  match fp64.dec bits with
  | .nan g => (fp64.qnan, if g then flNV else 0)
  | .inf s => if s then (fp64.qnan, flNV) else (0, 0)
  | .fin s n e =>
    if n = 0 then (fp64.infinity s, flDZ)
    else if s then (fp64.qnan, flNV)
    else
      let (q, k) := divFin 1 n
      let (r, j) := sqrtFin q (k - e)
      seed12 false r j

end Sys2Proof.Machine
end

