-- ==== Sys2Proof/Machine/Float.lean ====
section
/-! DEFINITION. Sys2Proof/Machine/Float.lean: floating-point arithmetic, comparison and special functions (R98 to R107). -/

namespace Sys2Proof.Machine

/-! ## Results on decoded values -/

/-- An operation of R99 in a format: sources decoded under DAZ, one exact result, one rounding. -/
def fpOp (f : Fmt) (th : Thread) (op : Bool → FV → FV → FV → FV × Nat) (a b c : Nat) : BF :=
  let d := fpDeliver th
  let rd := fun x => f.decDaz (fpDaz th.fpmode && f.w != 64) x
  let (v, g) := op (d.rm = .rdn) (rd a) (rd b) (rd c)
  let (r, h) := f.deliver { d with ftz := d.ftz && f.w != 64 } v
  (r, g ||| h)

/-- The exact operations of R99: RDN, then the operands at A, B and D. -/
def opAdd (rdn : Bool) (x y _z : FV) : FV × Nat := x.add rdn y
/-- The difference. -/
def opSub (rdn : Bool) (x y _z : FV) : FV × Nat := x.add rdn y.neg
/-- The product. -/
def opMul (_rdn : Bool) (x y _z : FV) : FV × Nat := x.mul y
/-- The product plus the addend. -/
def opFma (rdn : Bool) (x y z : FV) : FV × Nat := x.fma rdn y z
/-- The product minus the addend. -/
def opFms (rdn : Bool) (x y z : FV) : FV × Nat := x.fma rdn y z.neg

/-- Selection of R100: the operands as read, bit for bit; `le` says whether the first is taken. -/
def fpSelect (f : Fmt) (daz : Bool) (mx : Bool) (a b : Nat) : BF :=
  let asRead := fun (x : Nat) =>
    match f.dec x with
    | .fin s n _ => if daz && decide (n < 2 ^ f.fb) then f.sign s else x
    | _ => x
  let x := f.dec (asRead a)
  let y := f.dec (asRead b)
  let nv := if x.isSig || y.isSig then flNV else 0
  if x.isNan && y.isNan then (f.qnan, nv)
  else if x.isNan then (asRead b, nv)
  else if y.isNan then (asRead a, nv)
  else if (if mx then y.leSigned x else x.leSigned y) then (asRead a, nv)
  else (asRead b, nv)

/-- FCPYS (R101). -/
def fcpysW (a b : Nat) : BF :=
  match fp32.dec a with
  | .nan g => (fp32.qnan, if g then flNV else 0)
  | _ => (a % 2 ^ 31 + b / 2 ^ 31 * 2 ^ 31, 0)

/-- FSETP's condition and its flag (R105). -/
def fcond (c : FCond) (x y : FV) : Bool × Nat :=
  let un := x.isNan || y.isNan
  let sig := if x.isSig || y.isSig then flNV else 0
  let any := if un then flNV else 0
  let o := x.cmp y
  match c with
  | .eq => (!un && o == .eq, sig)
  | .ne => (un || o != .eq, sig)
  | .lt => (!un && o == .lt, any)
  | .le => (!un && o != .gt, any)
  | .gt => (!un && o == .gt, any)
  | .ge => (!un && o != .lt, any)
  | .num => (!un, sig)
  | .nan => (un, sig)

/-- Two 16-bit elements from an element function (R104): results packed, flags joined. -/
def packed2 (f : Nat → BF) : BF :=
  let (x, g) := f 0
  let (y, h) := f 1
  (x + y * 65536, g ||| h)

/-- Element `e` of a packed register. -/
def elem16 (v : Word) (e : Nat) : Nat := v.toNat / 65536 ^ e % 65536

/-! ## Word shapes -/

/-- A floating word on three single registers, the destination read too. -/
def fp3 (i : Instr) (pg : BitVec 3) (d a b : BitVec 7) (s : State) (hu : HintUse)
    (f : Thread → Word → Word → Word → BF) : Out :=
  let th := s.me
  let r := f th (th.gr a.toNat) (th.gr b.toNat) (th.gr d.toNat)
  runWord { i, pg, gs := [d.toNat, a.toNat, b.toNat], hu } s
    (fpRes s r.2 (·.setG d.toNat (BitVec.ofNat 32 r.1)))

/-- A floating word on three pairs, the destination read too. -/
def fp3d (i : Instr) (pg : BitVec 3) (d a b : BitVec 7) (s : State) (hu : HintUse)
    (f : Thread → Dword → Dword → Dword → BF) : Out :=
  let th := s.me
  let r := f th (th.pair a.toNat) (th.pair b.toNat) (th.pair d.toNat)
  runWord { i, pg, gs := [d.toNat, d.toNat + 1, a.toNat, a.toNat + 1, b.toNat, b.toNat + 1], hu } s
    (fpRes s r.2 (·.setPair d.toNat (BitVec.ofNat 64 r.1)))

/-- The hints of the rounding instructions of R99 (R61). -/
def huRound : HintUse := { sat := true, rnd := true }

/-! ## FP32 arithmetic (R99 to R101) -/

/-- FADD (R99). -/
def execFadd (pg : BitVec 3) (d a b : BitVec 7) (s : State) : Out :=
  fp3 (.fadd pg d a b) pg d a b s huRound fun th x y z => fpOp fp32 th opAdd x.toNat y.toNat z.toNat

/-- FSUB (R99). -/
def execFsub (pg : BitVec 3) (d a b : BitVec 7) (s : State) : Out :=
  fp3 (.fsub pg d a b) pg d a b s huRound fun th x y z => fpOp fp32 th opSub x.toNat y.toNat z.toNat

/-- FMUL (R99). -/
def execFmul (pg : BitVec 3) (d a b : BitVec 7) (s : State) : Out :=
  fp3 (.fmul pg d a b) pg d a b s huRound fun th x y z => fpOp fp32 th opMul x.toNat y.toNat z.toNat

/-- FFMA (R99). -/
def execFfma (pg : BitVec 3) (d a b : BitVec 7) (s : State) : Out :=
  fp3 (.ffma pg d a b) pg d a b s huRound fun th x y z => fpOp fp32 th opFma x.toNat y.toNat z.toNat

/-- FFMS (R99). -/
def execFfms (pg : BitVec 3) (d a b : BitVec 7) (s : State) : Out :=
  fp3 (.ffms pg d a b) pg d a b s huRound fun th x y z => fpOp fp32 th opFms x.toNat y.toNat z.toNat

/-- FMIN (R100). -/
def execFmin (pg : BitVec 3) (d a b : BitVec 7) (s : State) : Out :=
  fp3 (.fmin pg d a b) pg d a b s {} fun th x y _ => fpSelect fp32 (fpDaz th.fpmode) false x.toNat y.toNat

/-- FMAX (R100). -/
def execFmax (pg : BitVec 3) (d a b : BitVec 7) (s : State) : Out :=
  fp3 (.fmax pg d a b) pg d a b s {} fun th x y _ => fpSelect fp32 (fpDaz th.fpmode) true x.toNat y.toNat

/-- FCPYS (R101): a finite or infinite ga gives its magnitude with gb's sign. DAZ reads a subnormal ga as zero. -/
def execFcpys (pg : BitVec 3) (d a b : BitVec 7) (s : State) : Out :=
  fp3 (.fcpys pg d a b) pg d a b s {} fun th x y _ =>
    let x' := match fp32.dec x.toNat with
      | .fin g n _ => if fpDaz th.fpmode && decide (n < 2 ^ 23) then fp32.sign g else x.toNat
      | _ => x.toNat
    fcpysW x' y.toNat

/-! ## FP64 arithmetic (R102, R103) -/

/-- DADD (R102). -/
def execDadd (pg : BitVec 3) (d a b : BitVec 7) (s : State) : Out :=
  fp3d (.dadd pg d a b) pg d a b s huRound fun th x y z => fpOp fp64 th opAdd x.toNat y.toNat z.toNat

/-- DSUB (R102). -/
def execDsub (pg : BitVec 3) (d a b : BitVec 7) (s : State) : Out :=
  fp3d (.dsub pg d a b) pg d a b s huRound fun th x y z => fpOp fp64 th opSub x.toNat y.toNat z.toNat

/-- DMUL (R102). -/
def execDmul (pg : BitVec 3) (d a b : BitVec 7) (s : State) : Out :=
  fp3d (.dmul pg d a b) pg d a b s huRound fun th x y z => fpOp fp64 th opMul x.toNat y.toNat z.toNat

/-- DFMA (R102). -/
def execDfma (pg : BitVec 3) (d a b : BitVec 7) (s : State) : Out :=
  fp3d (.dfma pg d a b) pg d a b s huRound fun th x y z => fpOp fp64 th opFma x.toNat y.toNat z.toNat

/-- DMIN (R102). -/
def execDmin (pg : BitVec 3) (d a b : BitVec 7) (s : State) : Out :=
  fp3d (.dmin pg d a b) pg d a b s {} fun _ x y _ => fpSelect fp64 false false x.toNat y.toNat

/-- DMAX (R102). -/
def execDmax (pg : BitVec 3) (d a b : BitVec 7) (s : State) : Out :=
  fp3d (.dmax pg d a b) pg d a b s {} fun _ x y _ => fpSelect fp64 false true x.toNat y.toNat

/-- A floating word on two pairs. -/
def fp2d (i : Instr) (pg : BitVec 3) (d a : BitVec 7) (s : State) (f : Nat → BF) : Out :=
  let r := f (s.me.pair a.toNat).toNat
  runWord { i, pg, gs := [d.toNat, d.toNat + 1, a.toNat, a.toNat + 1] } s
    (fpRes s r.2 (·.setPair d.toNat (BitVec.ofNat 64 r.1)))

/-- DRCPA (R103). -/
def execDrcpa (pg : BitVec 3) (d a : BitVec 7) (s : State) : Out := fp2d (.drcpa pg d a) pg d a s exDrcpa

/-- DRSQA (R103). -/
def execDrsqa (pg : BitVec 3) (d a : BitVec 7) (s : State) : Out := fp2d (.drsqa pg d a) pg d a s exDrsqa

/-! ## Packed BF16 and FP16 (R104) -/

/-- A packed operation of R104 on both elements. -/
def packedOp (f : Fmt) (op : Bool → FV → FV → FV → FV × Nat) (th : Thread) (x y z : Word) : BF :=
  packed2 fun e => fpOp f th op (elem16 x e) (elem16 y e) (elem16 z e)

/-- A packed maximum. -/
def packedMax (f : Fmt) (th : Thread) (x y : Word) : BF :=
  packed2 fun e => fpSelect f (fpDaz th.fpmode) true (elem16 x e) (elem16 y e)

/-- BADD2 (R104). -/
def execBadd2 (pg : BitVec 3) (d a b : BitVec 7) (s : State) : Out :=
  fp3 (.badd2 pg d a b) pg d a b s huRound (packedOp bf16 opAdd)

/-- BMUL2 (R104). -/
def execBmul2 (pg : BitVec 3) (d a b : BitVec 7) (s : State) : Out :=
  fp3 (.bmul2 pg d a b) pg d a b s huRound (packedOp bf16 opMul)

/-- BFMA2 (R104). -/
def execBfma2 (pg : BitVec 3) (d a b : BitVec 7) (s : State) : Out :=
  fp3 (.bfma2 pg d a b) pg d a b s huRound (packedOp bf16 opFma)

/-- BMAX2 (R104). -/
def execBmax2 (pg : BitVec 3) (d a b : BitVec 7) (s : State) : Out :=
  fp3 (.bmax2 pg d a b) pg d a b s {} fun th x y _ => packedMax bf16 th x y

/-- HADD2 (R104). -/
def execHadd2 (pg : BitVec 3) (d a b : BitVec 7) (s : State) : Out :=
  fp3 (.hadd2 pg d a b) pg d a b s huRound (packedOp fp16 opAdd)

/-- HMUL2 (R104). -/
def execHmul2 (pg : BitVec 3) (d a b : BitVec 7) (s : State) : Out :=
  fp3 (.hmul2 pg d a b) pg d a b s huRound (packedOp fp16 opMul)

/-- HFMA2 (R104). -/
def execHfma2 (pg : BitVec 3) (d a b : BitVec 7) (s : State) : Out :=
  fp3 (.hfma2 pg d a b) pg d a b s huRound (packedOp fp16 opFma)

/-- HMAX2 (R104). -/
def execHmax2 (pg : BitVec 3) (d a b : BitVec 7) (s : State) : Out :=
  fp3 (.hmax2 pg d a b) pg d a b s {} fun th x y _ => packedMax fp16 th x y

/-! ## Comparison (R105) -/

/-- FSETP on FP32 registers (type 0) or FP64 pairs (type 1) (R105). -/
def execFsetp (pg q : BitVec 3) (c : FCond) (a b : BitVec 7) (t : BitVec 1) (s : State) : Out :=
  let th := s.me
  let r :=
    if t = 1 then fcond c (fp64.dec (th.pair a.toNat).toNat) (fp64.dec (th.pair b.toNat).toNat)
    else
      let daz := fpDaz th.fpmode
      fcond c (fp32.decDaz daz (th.gr a.toNat).toNat) (fp32.decDaz daz (th.gr b.toNat).toNat)
  runWord { i := .fsetp pg q c a b t, pg,
            gs := if t = 1 then [a.toNat, a.toNat + 1, b.toNat, b.toNat + 1] else [a.toNat, b.toNat],
            rs := [.p q.toNat] } s
    (fpRes s r.2 (·.setP q.toNat r.1))

/-! ## Special functions (R106, R107) -/

/-- A source read under DAZ, as bits. -/
def asRead (f : Fmt) (daz : Bool) (x : Nat) : Nat :=
  match f.dec x with
  | .fin s n _ => if daz && decide (n < 2 ^ f.fb) then f.sign s else x
  | _ => x

/-- An approximate function of FP32 bits in FP32 or BF16x2 form (R107): a BF16 element is widened, and the FP32 function's
own result rounded by RNE. A zero read under DAZ in place of a subnormal raises the zero's DZ (log 69). -/
def approxFn (f : Nat → BitVec 32 → BF) (code : Nat) (th : Thread) (t : FElt) (x : Word) : BF :=
  let daz := fpDaz th.fpmode
  match t with
  | .bf16x2 => packed2 fun e =>
      let (r, g) := f code (BitVec.ofNat 32 (asRead bf16 daz (elem16 x e) * 65536))
      ((bf16.deliver {} (fp32.dec r)).1, g)
  | _ => f code (BitVec.ofNat 32 (asRead fp32 daz x.toNat))

/-- A special-function word on single registers. -/
def sfWord (i : Instr) (pg : BitVec 3) (d a : BitVec 7) (s : State) (hu : HintUse) (f : Thread → Word → BF) : Out :=
  let r := f s.me (s.me.gr a.toNat)
  runWord { i, pg, gs := [d.toNat, a.toNat], hu } s (fpRes s r.2 (·.setG d.toNat (BitVec.ofNat 32 r.1)))

/-- A function of R107 that is exact in each type: FP32, two BF16 elements, or an FP64 pair. -/
def exactFn (i : Instr) (pg : BitVec 3) (d a : BitVec 7) (t : FElt) (s : State) (hu : HintUse)
    (f : Fmt → Deliver → FV → BF) : Out :=
  let dl := fpDeliver s.me
  let daz := fpDaz s.me.fpmode
  match t with
  | .f32 => sfWord i pg d a s hu fun _ x => f fp32 dl (fp32.decDaz daz x.toNat)
  | .bf16x2 => sfWord i pg d a s hu fun _ x => packed2 fun e => f bf16 dl (bf16.decDaz daz (elem16 x e))
  | .f64 =>
    let r := f fp64 { dl with ftz := false } (fp64.dec (s.me.pair a.toNat).toNat)
    runWord { i, pg, gs := [d.toNat, d.toNat + 1, a.toNat, a.toNat + 1], hu } s
      (fpRes s r.2 (·.setPair d.toNat (BitVec.ofNat 64 r.1)))

/-- FRCP (R107). -/
def execFrcp (pg : BitVec 3) (d a : BitVec 7) (t : FElt) (s : State) : Out :=
  sfWord (.frcp pg d a t) pg d a s {} fun th x => approxFn sfFrcp 0 th t x

/-- FRSQ (R107). -/
def execFrsq (pg : BitVec 3) (d a : BitVec 7) (t : FElt) (s : State) : Out :=
  sfWord (.frsq pg d a t) pg d a s {} fun th x => approxFn sfFrsq 1 th t x

/-- FSQRT (R107). -/
def execFsqrt (pg : BitVec 3) (d a : BitVec 7) (t : FElt) (s : State) : Out :=
  exactFn (.fsqrt pg d a t) pg d a t s { rnd := true } exSqrt

/-- FEXP2 (R107). -/
def execFexp2 (pg : BitVec 3) (d a : BitVec 7) (t : FElt) (s : State) : Out :=
  sfWord (.fexp2 pg d a t) pg d a s {} fun th x => approxFn sfFexp2 3 th t x

/-- FLOG2 (R107). -/
def execFlog2 (pg : BitVec 3) (d a : BitVec 7) (t : FElt) (s : State) : Out :=
  sfWord (.flog2 pg d a t) pg d a s {} fun th x => approxFn sfFlog2 4 th t x

/-- FSIN (R107). -/
def execFsin (pg : BitVec 3) (d a : BitVec 7) (t : FElt) (s : State) : Out :=
  sfWord (.fsin pg d a t) pg d a s {} fun th x => approxFn sfFsin 5 th t x

/-- FCOS (R107). -/
def execFcos (pg : BitVec 3) (d a : BitVec 7) (t : FElt) (s : State) : Out :=
  sfWord (.fcos pg d a t) pg d a s {} fun th x => approxFn sfFcos 6 th t x

/-- FTANH (R107). -/
def execFtanh (pg : BitVec 3) (d a : BitVec 7) (t : FElt) (s : State) : Out :=
  sfWord (.ftanh pg d a t) pg d a s {} fun th x => approxFn sfFtanh 7 th t x

/-- FSIGM (R107). -/
def execFsigm (pg : BitVec 3) (d a : BitVec 7) (t : FElt) (s : State) : Out :=
  sfWord (.fsigm pg d a t) pg d a s {} fun th x => approxFn sfFsigm 8 th t x

/-- FABS (R107). -/
def execFabs (pg : BitVec 3) (d a : BitVec 7) (t : FElt) (s : State) : Out :=
  exactFn (.fabs pg d a t) pg d a t s {} fun f dl v => exSign f dl (fun _ => false) v

/-- FNEG (R107). -/
def execFneg (pg : BitVec 3) (d a : BitVec 7) (t : FElt) (s : State) : Out :=
  exactFn (.fneg pg d a t) pg d a t s {} fun f dl v => exSign f dl (fun g => !g) v

/-- FRND (R107). -/
def execFrnd (pg : BitVec 3) (d a : BitVec 7) (t : FElt) (s : State) : Out :=
  exactFn (.frnd pg d a t) pg d a t s { rnd := true } exRnd

/-- FCLASS: no flags, DAZ not applied (R107). -/
def execFclass (pg : BitVec 3) (d a : BitVec 7) (t : FElt) (s : State) : Out :=
  let x := s.me.gr a.toNat
  let r : Nat := match t with
    | .f32 => exClass fp32 x.toNat
    | .bf16x2 => exClass bf16 (elem16 x 0) + exClass bf16 (elem16 x 1) * 65536
    | .f64 => exClass fp64 (s.me.pair a.toNat).toNat
  runWord { i := .fclass pg d a t, pg,
            gs := if t = .f64 then [d.toNat, a.toNat, a.toNat + 1] else [d.toNat, a.toNat] } s
    (.next (s.modMe (·.setG d.toNat (BitVec.ofNat 32 r))))

end Sys2Proof.Machine
end

