-- ==== Sys2Proof/Machine/MemInstr.lean ====
section
/-! DEFINITION. Sys2Proof/Machine/MemInstr.lean: loads, stores, atomics, ordering and cache instructions, and the replay
of the operand log (R207, R236 to R251). -/

namespace Sys2Proof.Machine

/-! ## Accesses of control cores, performed at once (log 12) -/

/-- The control core's word waits with its store: what it is to write, and where (R325, R336, R345). -/
def State.ctlHold (s : State) (n : Nat) (q : CtlStore) : State := s.modCtl n fun c => { c with store := some q }

/-- The interval in which the waiting word of a control core was first held at its port (R325). -/
def Ctl.portOf (c : Ctl) : Option Nat := if c.t.iss.isSome then c.port else none

/-- The control core's write may leave its port: no forced boundary, or the checkpoint it waits for has committed
(R325). Else the state in which it is held. -/
def State.portOpen (s : State) (n pa : Nat) : State × Bool :=
  match s.ctlBank n with
  | none => (s, true)
  | some x =>
    let k := s.ctxAt x
    if !(regionOf pa == some .herbor || regionOf pa == some .host) || !k.ckpt.on then (s, true)
    else
      match (s.ctlAt n).portOf with
      | some e => if e < k.ckpt.done then (s, true) else (s.askBoundary x e, false)
      | none =>
        ((s.modCtl n fun c => { c with port := some k.ckpt.intv }).modCtx x
          fun k => { k with ckpt := { k.ckpt with due := true } }, false)

/-- The partition whose context a control core's access is counted for (R215). -/
def State.ctlPart (s : State) (n : Nat) : Nat := ((s.ctlBank n).getD 0) / 2

/-- A write of a control core has been applied, with the wts `w`: its acknowledgement at die scope raises the core's logical time, and
with snoops outstanding the one at the package point is still to come (R226, R231, R338). -/
def State.ctlDone (s : State) (n pa : Nat) (cc : BitVec 2) (cache : Nat) (atom : Bool) (data : List Byte) (w : BitVec 24) : State :=
  let core := 512 + n
  let ln := pa / lineSize
  let s := if atom then s.modPhys core fun c => c.l1Drop ln else s.modPhys core fun c => c.l1Store pa data cache
  (s.raiseLt core w).modCtl n fun c =>
    { c with store := none, port := none, wb := if cc != 0 && s.invOut ln then (ln, w) :: c.wb else c.wb }

/-- A write of a control core at its point of application; no bytes when it must wait. `f` gives the bytes from those there before. -/
def State.ctlWrite (s : State) (n : Nat) (pa : Nat) (cc : BitVec 2) (via : Option Nat) (ac : Bool) (cache size : Nat) (atom : Bool)
    (f : List Byte → List Byte) : State × Option (List Byte) :=
  let core := 512 + n
  let q : CtlStore := { pa, data := if atom then [] else f [] }
  match s.portOpen n pa with
  | (s, false) => (s.ctlHold n q, none)
  | (s, true) =>
    if s.hostOff pa then
      let (s, old) := s.freeList size
      (s, some old)
    else if regionOf pa == some .herbor then
      let old := s.farRead pa size
      let (s, w) := s.farTime core
      if !s.jumpOk core w then (s.ctlHold n q, none)
      else (((s.farWrite pa (f old)).raiseLt core w).modCtl n fun c => { c with store := none, port := none }, some old)
    else if regionOf pa == some .config then
      let d := homeDie pa
      let off := pa % 0x10000
      let old := leBytes (s.winRead d (off / 8 * 8)).toNat 8
      let b := (old.drop (off % 8)).take size
      if size = 8 then (s.winWrite d off (BitVec.ofNat 64 (leVal (f b))), some b) else (s, some b)
    else
      match (s.ctlAt n).waitingStore.bind (·.wts) with
      | some w => if !s.jumpOk core w then (s, none) else (s.ctlDone n pa cc cache atom q.data w, some [])
      | none =>
        let die := dieOfPhys core
        let ln := pa / lineSize
        let rep := repOk die pa cc via && !atom
        match s.prepStore die ln rep (s.ctlPart n) ac with
        | (s, false) => (s.ctlHold n { q with own := rep }, none)
        | (s, true) =>
          let t := (s.coreAt core).lt
          let (_, r) := s.slTimes die ln rep
          if !s.jumpOk core (later t (r + 1)) then (s.ctlHold n q, none)
          else
            let old := s.curRead pa size
            let (s, w) := s.applyStore (s.ctlWho n) die rep t pa (f old)
            (s.ctlDone n pa cc cache atom (f old) w, some old)

/-- A read of a control core; no bytes when it must wait. -/
def State.ctlRead (s : State) (n : Nat) (va : Dword) (pa : Nat) (cc : BitVec 2) (via : Option Nat) (ac : Bool)
    (cache size : Nat) : State × Option (List Byte) :=
  if regionOf pa == some .config then
    (s, some (((leBytes (s.winRead (homeDie pa) (pa % 0x10000 / 8 * 8)).toNat 8).drop (pa % 8)).take size))
  else if s.hostOff pa then
    let (s, b) := s.freeList size
    (s, some b)
  else s.coreLoad (512 + n) va pa cc via ac (s.ctlPart n) (s.ctlAt n).t.lease.toNat (cache != 3) size

/-- The bytes of the first word that a control core's waiting 16-byte access has read; its second word is still to come (R219, R238). -/
def Ctl.half (c : Ctl) : Option (List Byte) := if c.t.iss.isSome then c.part else none

/-- A load of a control core: one of 16 bytes reads its two words at two acts (R219, R238). -/
def State.ctlLoad (s : State) (n : Nat) (va : Dword) (pa : Nat) (cc : BitVec 2) (via : Option Nat) (ac : Bool)
    (cache size : Nat) : State × Option (List Byte) :=
  if size != 16 then s.ctlRead n va pa cc via ac cache size
  else
    match (s.ctlAt n).half with
    | none =>
      match s.ctlRead n va pa cc via ac cache 8 with
      | (s, none) => (s, none)
      | (s, some b) => (s.modCtl n fun c => { c with part := some b }, none)
    | some b =>
      match s.ctlRead n (va + 8) (pa + 8) cc via ac cache 8 with
      | (s, none) => (s, none)
      | (s, some r) => (s.modCtl n fun c => { c with part := none }, some (b ++ r))

/-- A store of a control core: one of 16 bytes writes its two words at two acts (R219, R238). -/
def State.ctlStore (s : State) (n : Nat) (pa : Nat) (cc : BitVec 2) (via : Option Nat) (ac : Bool) (cache : Nat) (data : List Byte) :
    State × Bool :=
  let one := fun (s : State) (pa : Nat) (d : List Byte) => s.ctlWrite n pa cc via ac cache d.length false fun _ => d
  if data.length != 16 then
    match one s pa data with
    | (s, r) => (s, r.isSome)
  else
    match (s.ctlAt n).half with
    | none =>
      match one s pa (data.take 8) with
      | (s, none) => (s, false)
      | (s, some _) => (s.modCtl n fun c => { c with part := some [] }, false)
    | some _ =>
      match one s (pa + 8) (data.drop 8) with
      | (s, none) => (s, false)
      | (s, some _) => (s.modCtl n fun c => { c with part := none }, true)

/-! ## The checks of R240 -/

/-- The address checks of format M (R240): window, canonical address, alignment. -/
def addrCheck (th : Thread) (r : BitVec 3) (m : Am) (ea : Dword) (size : Nat) : Option (Nat × Dword) :=
  if m = .modulo && !winOk (th.mr r.toNat) size then some (0x0B, th.mr r.toNat)
  else if !canonical ea then some (0x04, ea)
  else if ea.toNat % size != 0 then some (0x03, ea)
  else none

/-- The word of an access in format M (R16, R61, R236). -/
def memW (i : Instr) (pg : BitVec 3) (ds : List Nat) (r : BitVec 3) (m : Am) (o : BitVec 8) (cache ctl : Bool) : W :=
  { i, pg, gs := ds ++ mIndex m o, rs := mRegs r m, hu := { hx := m != .indexed, cache }, onCtl := ctl }

/-- The thread waits for an ACQ of its own before it makes another access (R224). -/
def State.acqPending (s : State) (t : Tid) : Bool :=
  match t with
  | .ctl _ => false
  | .cmp x c slot => (s.ctxAt x).infl.any fun e => e.2.ofThread c slot && (match e.2.op with
    | .acq _ _ _ _ => true
    | _ => false)

/-- The instruction's accesses are coalesced with those of its bundle (R132). -/
def joins : Instr → Bool
  | .ld _ _ _ _ _ _ | .st _ _ _ _ _ _ | .atom _ _ _ _ _ _ => true
  | _ => false

/-- A new access in flight of the executing thread (R207), part of the request to the L1 that its bundle's word makes of its line (R132). -/
def State.newAccess (s : State) (op : Instr) (ea : Dword) (size : Nat) (data : List Byte) : InFlight :=
  match s.cur with
  | .cmp x c slot =>
    let k := (s.ctxAt x).coreAt c
    { op, pc := s.me.pc, core := c, slot, ea, size, data, hints := s.me.hints, lease := s.me.lease.toNat, fpmode := s.me.fpmode,
      req := if joins op && k.reqs.any (fun q => q.line == ea.toNat / lineSize) then some k.reqN else none }
  | .ctl _ => { op, pc := s.me.pc, core := 0, slot := 0, ea, size, data, hints := s.me.hints, lease := s.me.lease.toNat, fpmode := s.me.fpmode }

/-- The block of the executing thread has room in its counter of unacknowledged writes (R222). -/
def State.roomToWrite (s : State) : Bool := decide ((s.blkOf s.cur).unack < 65535)

/-! ## Loads and stores (R236 to R241) -/

/-- LD: on a compute thread in flight; on a control core at once (R237 to R241). -/
def execLd (pg : BitVec 3) (d : BitVec 7) (r : BitVec 3) (m : Am) (sz : Sz) (o : BitVec 8) (s : State) : Out :=
  let i := Instr.ld pg d r m sz o
  let th := s.me
  let size := szBytes sz
  let ea := effAddr th r m o size
  let up := fun (th : Thread) => postUpdate th r m o size
  runWord (memW i pg (szRegs sz d.toNat) r m o true true) s
    (match addrCheck th r m ea size with
     | some (c, v) => .trap c v false
     | none =>
       match s.cur with
       | .cmp x _ _ => if s.acqPending s.cur then .hold s else s.issueAccess x (s.newAccess i ea size []) up
       | .ctl n =>
         match s.xThread s.cur (xreqOf i) ea with
         | (.ok s pa cc ac, via) =>
           match s.ctlLoad n ea pa cc via ac th.hints.cache size with
           | (s, none) => .hold s
           | (s, some b) => .next (s.modMe fun th => (up th).setGs d.toNat (loadWords sz b))
         | (.wait s, _) => .hold s
         | (.trap c, _) => .trap c ea false
         | (.flt _ _ _, _) => .trap 0x06 ea false)

/-- ST: on a compute thread in flight; on a control core at once (R237 to R241). -/
def execSt (pg : BitVec 3) (d : BitVec 7) (r : BitVec 3) (m : Am) (sz : Sz) (o : BitVec 8) (s : State) : Out :=
  let i := Instr.st pg d r m sz o
  let th := s.me
  let size := szBytes sz
  let ea := effAddr th r m o size
  let up := fun (th : Thread) => postUpdate th r m o size
  let data := storeBytes th sz d.toNat
  runWord (memW i pg (szRegs sz d.toNat) r m o true true) s
    (match addrCheck th r m ea size with
     | some (c, v) => .trap c v false
     | none =>
       match s.cur with
       | .cmp x _ _ =>
         if s.acqPending s.cur || !s.roomToWrite then .hold s else s.issueAccess x (s.newAccess i ea size data) up
       | .ctl n =>
         match s.xThread s.cur (xreqOf i) ea with
         | (.ok s pa cc ac, via) =>
           match s.ctlStore n pa cc via ac th.hints.cache data with
           | (s, false) => .hold s
           | (s, true) => .next (s.modMe up)
         | (.wait s, _) => .hold s
         | (.trap c, _) => .trap c ea false
         | (.flt _ _ _, _) => .trap 0x07 ea false)

/-- The scratchpad checks of R179 and R240: window, alignment, bounds. -/
def spCheck (s : State) (r : BitVec 3) (m : Am) (ea : Dword) (size : Nat) : Option (Nat × Dword) :=
  if m = .modulo && !winOk (s.me.mr r.toNat) size then some (0x0B, s.me.mr r.toNat)
  else if (s.blkOf s.cur).spq * pageSize ≤ ea.toNat then some (0x23, ea)
  else if ea.toNat % size != 0 then some (0x03, ea)
  else none

/-- A scratchpad access of a compute thread once its checks pass (R182). -/
def spBody (s : State) (i : Instr) (ea : Dword) (size : Nat) (data : List Byte) (dst : List Nat) (up : Thread → Thread) : Res :=
  match s.cur with
  | .cmp x c slot =>
    if s.acqPending s.cur then .hold s
    else .next ((s.modMe up).spIssue x c s.me.par.blk slot i s.me.pc ea.toNat size data (dst.map PReg.g))
  | .ctl _ => .next s

/-- LDS (R179, R182, R239). -/
def execLds (pg : BitVec 3) (d : BitVec 7) (r : BitVec 3) (m : Am) (sz : Sz) (o : BitVec 8) (s : State) : Out :=
  let i := Instr.lds pg d r m sz o
  let size := szBytes sz
  let ea := effAddr s.me r m o size
  runWord (memW i pg (szRegs sz d.toNat) r m o false false) s
    (match spCheck s r m ea size with
     | some (c, v) => .trap c v false
     | none => spBody s i ea size [] (szRegs sz d.toNat) fun th => postUpdate th r m o size)

/-- STS (R179, R182, R239). -/
def execSts (pg : BitVec 3) (d : BitVec 7) (r : BitVec 3) (m : Am) (sz : Sz) (o : BitVec 8) (s : State) : Out :=
  let i := Instr.sts pg d r m sz o
  let size := szBytes sz
  let ea := effAddr s.me r m o size
  runWord (memW i pg (szRegs sz d.toNat) r m o false false) s
    (match spCheck s r m ea size with
     | some (c, v) => .trap c v false
     | none => spBody s i ea size (storeBytes s.me sz d.toNat) [] fun th => postUpdate th r m o size)

/-! ## Atomics (R242 to R245) -/

/-- The word of an atomic (R61, R242). -/
def atomW (i : Instr) (pg : BitVec 3) (d : BitVec 7) (r : BitVec 3) (o : AtomOp) (b : BitVec 7) (cache ctl : Bool) : W :=
  { i, pg, gs := atomDst o d.toNat ++ atomSrc o b.toNat, rs := [.a r.toNat], hu := { cache }, onCtl := ctl }

/-- ATOM (R227, R243, R244). -/
def execAtom (pg : BitVec 3) (d : BitVec 7) (r : BitVec 3) (o : AtomOp) (b : BitVec 7) (a : AScope) (s : State) : Out :=
  let i := Instr.atom pg d r o b a
  let th := s.me
  let size := atomSize o
  let ea := th.ar r.toNat
  let ops := (atomSrc o b.toNat).map th.gr
  runWord (atomW i pg d r o b true true) s
    (if !canonical ea then .trap 0x04 ea false
     else if ea.toNat % size != 0 then .trap 0x03 ea false
     else
       match s.cur with
       | .cmp x _ _ =>
         if s.acqPending s.cur || !s.roomToWrite then .hold s
         else s.issueAccess x (s.newAccess i ea size (wordsBytes ops)) id
       | .ctl n =>
         match s.xThread s.cur (xreqOf i) ea with
         | (.ok s pa cc ac, via) =>
           match s.ctlWrite n pa cc via ac 0 size true (fun old => leBytes (atomNew o (leVal old) ops) size) with
           | (s, none) => .hold s
           | (s, some old) => .next (s.modMe (·.setGs d.toNat (oldWords o (leVal old))))
         | (.wait s, _) => .hold s
         | (.trap c, _) => .trap c ea false
         | (.flt _ _ _, _) => .trap 0x07 ea false)

/-- ATOMS (R245). -/
def execAtoms (pg : BitVec 3) (d : BitVec 7) (r : BitVec 3) (o : AtomOp) (b : BitVec 7) (s : State) : Out :=
  let i := Instr.atoms pg d r o b
  let ea := s.me.ar r.toNat
  let size := atomSize o
  runWord (atomW i pg d r o b false false) s
    (match spCheck s r .offset ea size with
     | some (c, v) => .trap c v false
     | none => spBody s i ea size (wordsBytes ((atomSrc o b.toNat).map s.me.gr)) (atomDst o d.toNat) id)

/-! ## Ordering instructions (R246 to R249) -/

/-- The number of a scope (R217). -/
def scopeNum : Scope → Nat
  | .thr => 0
  | .blk => 1
  | .die => 2
  | .pkg => 3
  | .dom => 4
  | .sys => 5

/-- FENCE: waits until every older load of the thread has returned and, at a scope other than thread, the block's counter of
unacknowledged writes is 0; on a control core its own writes' acknowledgements take the counter's place (R226, R246). One that
left its bundle to wait is complete once that was so (R247). -/
def execFence (pg : BitVec 3) (sc : Scope) (s : State) : Out :=
  runWord { i := .fence pg sc, pg } s
    (match s.cur with
     | .ctl n => if sc == .thr || (s.ctlAt n).wb.isEmpty then .next s else .hold s
     | .cmp x c slot =>
       if s.me.met || (!(s.ctxAt x).infl.any (fun e => e.2.ofThread c slot && e.2.loads) &&
          (sc == .thr || (s.blkOf s.cur).unack == 0)) then .next s
       else .hold s)

/-- OBJ of a binding entry, as the object's address (R220). -/
def bindObj (b : BitVec 192) : Dword := ((b.extractLsb' 3 54 ++ 0#3).signExtend 64)

/-- A virtual line lies in the region of a binding entry (R221). -/
def inRegion (b : BitVec 192) (vl : Nat) : Bool :=
  let base := (b.extractLsb' 128 57).toNat / lineSize
  decide (base ≤ vl) && decide (vl < base + (b.extractLsb' 64 32).toNat)

/-- The L1 lines of a region are dropped from a core (R224). -/
def CorePhys.dropRegion (c : CorePhys) (b : BitVec 192) : CorePhys := { c with l1 := c.l1.filter fun e => !inRegion b e.2.vl }

/-- ACQ performed: the object word and its wts at the point of application, a lease by the fill rule, the core's logical
time, the L1 lines of the region dropped (R224). Of an object of another package the wts is open, since that package keeps it
(R341, log 14). No word when it must wait. -/
def State.acqNow (s : State) (core pa lease : Nat) (b : BitVec 192) (p : Nat) (ac : Bool) : State × Option Dword :=
  if regionOf pa == some .herbor then
    let (s, w) := s.farTime core
    if !s.jumpOk core w then (s, none)
    else ((s.raiseLt core w).modPhys core (·.dropRegion b), some (BitVec.ofNat 64 (leVal (s.farRead pa 8))))
  else
    let ln := pa / lineSize
    let s := s.ensureLine ln (dieOfPhys core) p ac
    let given := match (s.l2At ln).owner with
      | some o => s.awaits ln o
      | none => false
    if (s.l2At ln).busy || given then (s, none)
    else
      let s := s.settleWb ln
      let v := BitVec.ofNat 64 (leVal (s.curRead pa 8))
      let (die, rep) := match s.ownerRep ln with
        | some (d, q) => if q.st = .o then (lineHome ln, false) else (d, true)
        | none => (lineHome ln, false)
      let (w, r) := s.slTimes die ln rep
      if !s.jumpOk core w then (s, none)
      else
        let s := (s.setTimes die ln rep w (leaseEnd w r (s.coreAt core).lt lease)).raiseLt core w
        (s.modPhys core (·.dropRegion b), some v)

/-- The binding-table entry that an ACQ or REL reads at its issue: a wait keeps the one it read (R221, R248, R249). -/
def State.bindOf (s : State) (x : Nat) (e : BitVec 6) : BitVec 192 := s.me.entry.getD (tget 0 (s.ctxAt x).bind e.toNat)

/-- The state in which the thread's word has read the binding entry `b`. -/
def State.keepEntry (s : State) (b : BitVec 192) : State := s.modMe fun th => { th with entry := some b }

/-- What an ACQ of a compute thread does: traps, is logged, waits, or has read its word. -/
inductive AcqRes where
  | trap (cause : Nat) (v : Dword)
  | log (s : State) (f : InFlight)
  | hold (s : State)
  | got (s : State) (v : Dword)

/-- An ACQ of the current thread is performed, or waits for an access of its own before it (R221, R224, R248). -/
def State.acquire (s : State) (x c : Nat) (i : Instr) (e : BitVec 6) : AcqRes :=
  let b := s.bindOf x e
  let ea := bindObj b
  if !b.getLsbD 0 then .trap 0x25 (e.zeroExtend 64)
  else
    let f := { s.newAccess i ea 8 [] with bind := b }
    let s := s.keepEntry b
    if s.acqPending s.cur || (s.ctxAt x).olderMeets (s.ctxAt x).nextId f (fun _ => true) then .hold s
    else
      match s.xThread s.cur (xreqOf i) ea with
      | (.trap c, _) => .trap c ea
      | (.wait s, _) => .hold s
      | (.flt _ _ _, _) => .log s f
      | (.ok s pa _ ac, _) =>
        match s.acqNow (s.physOf x c) pa f.lease b (x / 2) ac with
        | (s, none) => .hold s
        | (s, some v) => .got s v

/-- ACQ; one that left its bundle has read its word when its wait ended (R221, R224, R247, R248). -/
def execAcq (pg : BitVec 3) (g : BitVec 7) (e : BitVec 6) (sc : Scope) (s : State) : Out :=
  let i := Instr.acq pg g e sc
  runWord { i, pg, gs := [g.toNat, g.toNat + 1], onCtl := false } s
    (match s.cur, s.me.acq with
     | .ctl _, _ => .next s
     | .cmp _ _ _, some v => .next (s.modMe (·.setPair g.toNat v))
     | .cmp x c _, none =>
       match s.acquire x c i e with
       | .trap c v => .trap c v false
       | .log s f => s.issueAccess x f id
       | .hold s => .hold s
       | .got s v => .next (s.modMe (·.setPair g.toNat v)))

/-- The wait of a thread that left its bundle at a word is over: an ACQ has read its word then, and completes when the thread is next formed
(R247, log 91). -/
def State.endWait (s : State) (t : Tid) (op : Instr) : State :=
  match t, op with
  | .cmp x c _, .acq pg _ e _ =>
    if (s.thr t).acq.isSome || !(s.thr t).guard pg then s
    else
      match ({ s with cur := t } : State).acquire x c op e with
      | .got u v => ({ u with cur := s.cur } : State).modThr t fun th => { th with acq := some v }
      | _ => s
  | _, _ => s

/-- REL: waits for the block's counter, then its store is in flight (R223, R248). -/
def execRel (pg : BitVec 3) (g : BitVec 7) (e : BitVec 6) (sc : Scope) (s : State) : Out :=
  let i := Instr.rel pg g e sc
  runWord { i, pg, gs := [g.toNat, g.toNat + 1], onCtl := false } s
    (match s.cur with
     | .ctl _ => .next s
     | .cmp x _ _ =>
       let b := s.bindOf x e
       if !b.getLsbD 0 then .trap 0x25 (e.zeroExtend 64) false
       else
         let s := s.keepEntry b
         if (!s.me.met && (s.blkOf s.cur).unack != 0) || s.acqPending s.cur then .hold s
         else s.issueAccess x { s.newAccess i (bindObj b) 8 (leBytes (s.me.pair g.toNat).toNat 8) with bind := b } id)

/-- A region of `len` lines from `base` stays canonical and in one half of the space (R249). -/
def regionOk (base : Dword) (len : Nat) : Bool :=
  canonical base && (len == 0 ||
    (decide (base.toNat % 2 ^ 56 + 128 * len ≤ 2 ^ 56)))

/-- BIND (R249). -/
def execBind (pg : BitVec 3) (g : BitVec 7) (r : BitVec 3) (e : BitVec 6) (s : State) : Out :=
  let th := s.me
  let obj := th.ar r.toNat
  let base := th.pair g.toNat
  let len := th.gr (g.toNat + 2)
  runWord { i := .bind pg g r e, pg, gs := [g.toNat, g.toNat + 1, g.toNat + 2], rs := [.a r.toNat], onCtl := false } s
    (if !canonical obj then .trap 0x04 obj false
     else if obj.extractLsb' 0 3 != 0 then .trap 0x03 obj false
     else if !regionOk base len.toNat then .trap 0x04 base false
     else if base.extractLsb' 0 7 != 0 then .trap 0x03 base false
     else
       match s.cur with
       | .cmp x _ _ =>
         let b : BitVec 192 := 0#7 ++ base.extractLsb' 0 57 ++ 0#32 ++ len ++ 0#7 ++ obj.extractLsb' 3 54 ++ 0#2 ++ 1#1
         .next (s.modCtx x fun k => { k with bind := tput e.toNat b k.bind })
       | .ctl _ => .next s)

/-- UNBIND (R249). -/
def execUnbind (pg : BitVec 3) (e : BitVec 6) (s : State) : Out :=
  runWord { i := .unbind pg e, pg, onCtl := false } s
    (match s.cur with
     | .cmp x _ _ => .next (s.modCtx x fun k => { k with bind := tput e.toNat 0 k.bind })
     | .ctl _ => .next s)

/-! ## Cache instructions (R250, R251) -/

/-- The probe of PREF, CINV and CWB: the physical address and class of the line, when a read is allowed, and the package it
lies in over Herbor (R251). -/
def State.probe (s : State) (t : Tid) (ea : Dword) : Option (Nat × BitVec 2 × Option Nat) :=
  match s.xThread t { die := 0, root := {}, user := true, rd := true, marks := false } ea with
  | (.ok _ pa cc _, via) => some (pa, cc, via)
  | _ => none

/-- Fills the sectors of a requested line that are still to be filled, last first, as a load fill would, till one must wait: the
state, and how many are left. -/
def State.prefLine (s : State) (core : Nat) (p : Pref) : Nat → State × Nat
  | 0 => (s, 0)
  | k + 1 =>
    match s.coreLoad core p.va (p.pa / lineSize * lineSize + 32 * k) p.cc none false 0 p.lease p.l1 32 with
    | (s, none) => (s, k + 1)
    | (s, some _) => s.prefLine core p k

/-- The lines that a core's PREFs have requested are filled as far as they can be (R251). -/
def State.prefetch (s : State) (core : Nat) : State :=
  let l := (s.coreAt core).prefs
  if l.isEmpty then s
  else
    l.foldl (fun s p =>
      match s.prefLine core p p.left with
      | (s, 0) => s
      | (s, n) => s.modPhys core fun c => { c with prefs := c.prefs ++ [{ p with left := n }] })
      (s.modPhys core fun c => { c with prefs := [] })

/-- PREF: requests its line and is complete; the fill proceeds alone (R250, R251). -/
def execPref (pg r : BitVec 3) (m : Am) (o : BitVec 8) (s : State) : Out :=
  let th := s.me
  let ea := effAddr th r m o 1
  runWord (memW (.pref pg r m o) pg [] r m o true true) s
    (if m = .modulo && !winOk (th.mr r.toNat) 1 then .next s
     else
       let s' := s.modMe fun th => postUpdate th r m o 1
       if !canonical ea then .next s'
       else
         match s.probe s.cur ea with
         | some (pa, cc, none) =>
           if regionOf pa == some .config || regionOf pa == some .herbor || s.hostOff pa then .next s'
           else
             let p : Pref := { va := ea, pa, cc, lease := th.lease.toNat, l1 := th.hints.cache != 3, left := 4 }
             .next ((s'.modPhys (s.phys s.cur) fun c => { c with prefs := c.prefs ++ [p] }).prefetch (s.phys s.cur))
         | _ => .next s')

/-- The address checks of CINV and CWB, and their register update: on a page that allows a read, `f` is done on the line, named
by its physical and its virtual number (R250). -/
def cacheWord (i : Instr) (pg r : BitVec 3) (m : Am) (o : BitVec 8) (s : State) (f : Nat → Nat → Res) (ok : State → Res) : Out :=
  let th := s.me
  let ea := effAddr th r m o 1
  runWord (memW i pg [] r m o false true) s
    (if m = .modulo && !winOk (th.mr r.toNat) 1 then .trap 0x0B (th.mr r.toNat) false
     else if !canonical ea then .trap 0x04 ea false
     else
       match s.probe s.cur ea with
       | none => ok s
       | some (pa, _, _) => f (pa / lineSize) (vline ea))

/-- CINV: waits for the thread's older loads of the line, then drops it from the core's L1 (R251). A load that has no
translation yet is known by its virtual line. -/
def execCinv (pg r : BitVec 3) (m : Am) (o : BitVec 8) (s : State) : Out :=
  let done := fun (s : State) => Res.next (s.modMe fun th => postUpdate th r m o 1)
  cacheWord (.cinv pg r m o) pg r m o s (fun ln vl =>
    let busy : Bool := match s.cur with
      | .ctl _ => false
      | .cmp x c slot => (s.ctxAt x).infl.any fun e => e.2.ofThread c slot && e.2.loads && e.2.phase != .page && (match e.2.pa with
        | some (a, _) => a / lineSize == ln
        | none => vline e.2.ea == vl)
    if busy then .hold s else done (s.modPhys (s.phys s.cur) fun c => c.l1Drop ln)) done

/-- CWB: waits until the buffered writes of the core to the line are applied (R251). -/
def execCwb (pg r : BitVec 3) (m : Am) (o : BitVec 8) (s : State) : Out :=
  let done := fun (s : State) => Res.next (s.modMe fun th => postUpdate th r m o 1)
  cacheWord (.cwb pg r m o) pg r m o s (fun ln _ =>
    let waits := (s.wcb (s.phys s.cur)).any fun e => (match e.2.2.phase with
      | .applied _ => false
      | _ => true) && (match e.2.2.pa with
      | some (a, _) => a / lineSize == ln
      | none => false)
    if waits then .hold s else done s) done

/-! ## Coalescing (R132) -/

/-- The address and size of the access that a word of LD, ST, ATOM, PREF, CINV or CWB makes in a thread. -/
def globalAddr (th : Thread) : Instr → Option (Nat × Nat)
  | .ld _ _ r m sz o | .st _ _ r m sz o => some ((effAddr th r m o (szBytes sz)).toNat, szBytes sz)
  | .atom _ _ r o _ _ => some ((th.ar r.toNat).toNat, atomSize o)
  | .pref _ r m o | .cinv _ r m o | .cwb _ r m o => some ((effAddr th r m o 1).toNat, 1)
  | _ => none

/-- The guard of such a word. -/
def globalGuard : Instr → BitVec 3
  | .ld pg _ _ _ _ _ | .st pg _ _ _ _ _ | .atom pg _ _ _ _ _ | .pref pg _ _ _ | .cinv pg _ _ _ | .cwb pg _ _ _ => pg
  | _ => 7

/-- A byte address joins its line's request: one per line, with the set of its 32-byte sectors. -/
def addReq (a : Nat) : List L1Req → List L1Req
  | [] => [{ line := a / lineSize, secs := BitVec.ofNat 4 (2 ^ (a / 32 % 4)) }]
  | q :: r => if q.line = a / lineSize then { q with secs := q.secs ||| BitVec.ofNat 4 (2 ^ (a / 32 % 4)) } :: r else q :: addReq a r

/-- The requests that accesses of some bytes make of the L1 (R132). -/
def coalesce (l : List (Nat × Nat)) : List L1Req := l.foldl (fun q e => addReq (e.1 + e.2 - 1) (addReq e.1 q)) []

/-- The count of a request: its distinct sectors (R132). -/
def L1Req.count (q : L1Req) : Nat := ((List.range 4).filter fun i => q.secs.getLsbD i).length

/-- The requests that a bundle's word sends to the L1: from the addresses of its threads whose guard is true (R132). -/
def reqsOf (i : Instr) (ths : List Thread) : List L1Req :=
  coalesce ((ths.filter fun th => th.guard (globalGuard i)).filterMap fun th => globalAddr th i)

/-! ## The operand log (R207, R241, R244, R248) -/

/-- OPERAND_LOG_REPLAY: a logged access whose record was answered translates again: it faults again, traps, or goes on
as at its issue; an ACQ is performed whole; a fetch is made again by its thread (R207). An older logged access to its bytes
replays first (R208). -/
def execOperandLogReplay (x id : Nat) (s : State) : Out :=
  match tfind (s.ctxAt x).infl id with
  | none => .next s
  | some f =>
    if f.phase != .replay || !s.runs x || (s.ctxAt x).olderLogged id f then .next s
    else
      match f.op with
      | .illegalInstruction _ => .next (s.delInfl x id)
      | .acq _ g _ _ =>
        let core := s.physOf x f.core
        match s.xThread (.cmp x f.core f.slot) (xreqOf f.op) f.ea with
        | (.ok s pa _ ac, _) =>
          match s.acqNow core pa f.lease f.bind (x / 2) ac with
          | (s, none) => .next s
          | (s, some v) => .next (s.landed x id f g.toNat [v.extractLsb' 0 32, v.extractLsb' 32 32])
        | _ => .next (s.translateAgain x id f)
      | _ => .next (s.translateAgain x id f)

end Sys2Proof.Machine
end

