-- ==== Sys2Proof/Machine/Work.lean ====
section
/-! DEFINITION. Sys2Proof/Machine/Work.lean: event counters, node bins, hardware queues and doorbells, launch records and
their checks, the work distributor, retirement and completion (R115 to R119, R158, R164 to R175, R178, R181). -/

namespace Sys2Proof.Machine

/-! ## Reads of the distributor (R167) -/

/-- What a read of the distributor answers: the bytes, a wait for the host's copy of a table entry's line, a page fault at an address, or a
page that forbids it. -/
inductive DRes where
  | ok (s : State) (b : List Byte)
  | wait (s : State)
  | flt (kind level size : Nat) (va : Dword)
  | bad

/-- The distributor's user-level request for bank `x` (R167). -/
def State.distReq (s : State) (x : Nat) : XReq :=
  { die := s.partDie (x / 2), root := (s.ctxAt x).root, user := true, rd := true }

/-- Reads `n` bytes at `va` for the distributor, page by page: fuel, address, bytes. -/
def State.distRead (s : State) (x : Nat) : Nat → Dword → Nat → DRes
  | 0, _, _ => .ok s []
  | f + 1, va, n =>
    if n = 0 then .ok s []
    else if !canonical va then .bad
    else
      let k := min n (4096 - va.toNat % 4096)
      let q := s.distReq x
      match State.viaHerbor q va (s.translate q va) with
      | (.trap _, _) => .bad
      | (.wait s, _) => .wait s
      | (.flt kind level size, _) => .flt kind level size va
      | (.ok s pa _ ac, _) =>
        let (s, b) := if regionOf pa == some .herbor then (s, s.farRead pa k)
          else
            let lines := (List.range ((pa + k - 1) / lineSize - pa / lineSize + 1)).map (pa / lineSize + ·)
            let s := lines.foldl (fun s ln => s.ensureLine ln q.die (x / 2) ac) s
            (s, s.curRead pa k)
        match s.distRead x f (va + BitVec.ofNat 64 k) (n - k) with
        | .ok s r => .ok s (b ++ r)
        | r => r

/-- Reads `n` bytes at `va` for the distributor. -/
def State.distBytes (s : State) (x : Nat) (va : Dword) (n : Nat) : DRes := s.distRead x (n / 4096 + 2) va n

/-- The fault record of a page the distributor found absent (R167, R211). -/
def State.distFault (s : State) (x : Nat) (kind level size : Nat) (va : Dword) : State × Nat :=
  s.addFault (x / 2) (s.ctxAt x).root.sid kind level .distributor va (s.partDie (x / 2)) 0x1FF size

/-! ## Node bins (R174, R175) -/

/-- V of a bin entry, unless the entry breaks a check of the map (R174). -/
def binOk (e : BitVec 128) : Bool :=
  e.getLsbD 127 && e.extractLsb' 122 5 == 0 && e.extractLsb' 57 28 == 0 && e.extractLsb' 0 6 == 0 &&
  decide (1 ≤ (e.extractLsb' 108 11).toNat) && decide ((e.extractLsb' 108 11).toNat ≤ 1024) &&
  e.extractLsb' 92 16 != 0 && (e.getLsbD 91 || e.extractLsb' 85 6 == 0)

/-- Words of a record of a bin. -/
def binWords (e : BitVec 128) : Nat := (e.extractLsb' 119 3).toNat + 1
/-- The clocks of a bin's timer: a µs is 1,800 arithmetic clocks (log 3). -/
def binClocks (e : BitVec 128) : Nat := 1800 * (e.extractLsb' 92 16).toNat
/-- The counter whose firing flushes the bin. -/
def binEvent (e : BitVec 128) : Option Nat := if e.getLsbD 91 then some (e.extractLsb' 85 6).toNat else none
/-- The template record's address. -/
def binTmpl (e : BitVec 128) : Dword := ((e.extractLsb' 6 51 ++ 0#6).signExtend 64)

/-- Bin `b` of a bank. -/
def Ctx.binAt (k : Ctx) (b : Nat) : Bin := tget {} k.bins b

/-- The state with `f` applied to a bin. -/
def State.modBin (s : State) (x b : Nat) (f : Bin → Bin) : State :=
  s.modCtx x fun k => { k with bins := tput b (f (k.binAt b)) k.bins }

/-- Launches the oldest records of a bin, at most COUNT; answers whether the launch was made. Where its template's queue is full, or the
template's page is absent and its fault record stands, the records stay, and the bin tries again; a template page that forbids the read
rejects the launch (R167, R175). -/
def State.flushOnce (s : State) (x b : Nat) : State × Bool :=
  let u := (s.ctxAt x).binAt b
  let n := min (binCount u.entry) u.recs.length
  let retry := fun (s : State) (tag : Option Nat) => s.modBin x b fun u => { u with retry := true, tag, timer := some (s.bankNow x) }
  if u.tag.isSome then (retry s u.tag, false)
  else
    match s.distBytes x (binTmpl u.entry + 16) 8 with
    | .ok s w =>
      match (s.ctxAt x).enter (leVal w / 2 ^ 20 % 64) { addr := binTmpl u.entry, bin := some (u.recs.take n), time := u.time } with
      | some k => ((s.setCtx x k).modBin x b (·.launched (s.bankNow x)), true)
      | none => (retry s none, false)
    | .bad => ((s.modBin x b (·.launched (s.bankNow x))).rejected (x / 2), true)
    | .flt kind level size va =>
      let (s, tag) := s.distFault x kind level size va
      (retry s (some tag), false)
    | .wait s => (retry s none, false)

/-- Launches the oldest records of a bin; one that then still holds COUNT records launches those too (R175). -/
def State.flushBin (s : State) (x b : Nat) : State × Bool :=
  match s.flushOnce x b with
  | (s, false) => (s, false)
  | (s, true) =>
    let u := (s.ctxAt x).binAt b
    if binCount u.entry ≤ u.recs.length then ((s.flushOnce x b).1, true) else (s, true)

/-- BIN_TIMER_EXPIRY: the timer of a bin has run out, and it launches its records (R175). A halt freezes it (R311); a bank that does
not run for another reason lets it run on (log 87). -/
def execBinTimerExpiry (x bin : Nat) (s : State) : Out :=
  let u := (s.ctxAt x).binAt bin
  match u.timer with
  | none => .next s
  | some t =>
    if s.clock < t + binClocks u.entry || (s.ctxAt x).halt.isSome || u.recs.isEmpty then .next s
    else .next (s.flushBin x bin).1

/-! ## Event counters (R158) -/

/-- Counter `n` of a bank. -/
def Ctx.evAt (k : Ctx) (n : Nat) : Word := tget 0 k.ev n

/-- A firing of counter `n`: bound launches at the head of their queues are satisfied, and bins flush (R158, R169,
R175). -/
def State.fire (s : State) (x n : Nat) : State :=
  let up := fun (e : Nat × Launch) => if e.2.r.evb == some n then (e.1, { e.2 with bound := true }) else e
  let mark := fun (e : Nat × HwQueue) => match e.2.recs with
    | r :: l => (e.1, { e.2 with recs := { r with fired := r.fired ||| BitVec.ofNat 64 (2 ^ n) } :: l })
    | [] => e
  let s := s.modCtx x fun k => { k with launches := k.launches.map up, queues := k.queues.map mark }
  let bins := (s.ctxAt x).bins.filter fun e => binOk e.2.entry && binEvent e.2.entry == some n && !e.2.recs.isEmpty
  bins.foldl (fun s e => (s.flushBin x e.1).1) s

/-- Decrements counter `n` by `v`, floor 0; a decrement from non-zero to 0 fires (R158). -/
def State.evSub (s : State) (x n : Nat) (v : Word) : State :=
  let c := (s.ctxAt x).evAt n
  let c' := if c.toNat ≤ v.toNat then 0 else c - v
  let s := s.modCtx x fun k => { k with ev := tput n c' k.ev }
  if c != 0 && c' == 0 then s.fire x n else s

/-! ## Queues (R164, R165) -/

/-- Queue `q` of a bank. -/
def Ctx.queueAt (k : Ctx) (q : Nat) : HwQueue := tget {} k.queues q

/-- DBSTAT of a queue (R165). -/
def HwQueue.dbstat (u : HwQueue) : BitVec 64 :=
  BitVec.ofNat 32 u.drops ++ 0#22 ++ BitVec.ofBool u.cfg ++ BitVec.ofNat 9 (if u.cfg then 256 - u.recs.length else 0)

/-- DOORBELL: the record enters its queue, or is dropped and counted, and the kernel is told (R165). Ignored in reduced
service (R350). -/
def execDoorbell (x q : Nat) (addr : BitVec 64) (s : State) : Out :=
  if s.boot.stage != .run then .next s
  else
    match (s.ctxAt x).enter q { addr } with
    | some k => .next (s.setCtx x k)
    | none =>
      .next ((s.modCtx x fun k =>
        let u := k.queueAt q
        { k with queues := tput q { u with drops := min (u.drops + 1) 0xFFFFFFFF } k.queues }).rejected (x / 2))

/-- QUEUE_CONFIGURATION: the kernel configures a queue; priorities are 0 to 11, queues 0 to 63 (R164, R165). A queue that was
configured keeps its records (log 74). -/
def execQueueConfiguration (x q prio : Nat) (s : State) : Out :=
  if s.boot.stage == .off || 11 < prio || 63 < q then .next s
  else .next (s.modCtx x fun k => { k with queues := tput q { cfg := true, prio, recs := (k.queueAt q).recs } k.queues })

/-! ## The launch record (R117, R167) -/

/-- Bits `[lo + n - 1 : lo]` of a record. -/
abbrev rb (r : BitVec 1024) (lo n : Nat) : Nat := (r.extractLsb' lo n).toNat

/-- An address field of a record: bits [56:lo] of an address, sign-extended (R11). -/
def recAddr (v lo : Nat) : Nat := ((BitVec.ofNat 57 (v * 2 ^ lo)).signExtend 64).toNat

/-- The fields of a record. -/
def LRec.ofBits (r : BitVec 1024) : LRec where
  entry := r.extractLsb' 0 57
  gx := rb r 64 32
  gy := rb r 96 32
  gz := rb r 160 32
  nthr := rb r 128 11
  regn := rb r 139 5
  queue := rb r 148 6
  cohort := r.getLsbD 158
  overlap := r.getLsbD 159
  spq := rb r 192 10
  seed := r.extractLsb' 224 32
  back := rb r 268 45
  gtab := recAddr (rb r 324 53) 4
  gn := rb r 384 9
  evd := if r.getLsbD 408 then some (rb r 402 6) else none
  evb := if r.getLsbD 415 then some (rb r 409 6) else none
  args := recAddr (rb r 450 55) 2
  narg := rb r 512 5
  rings := (List.range 4).map fun i =>
    if r.getLsbD (607 + 32 * i) then some (16 * rb r (580 + 32 * i) 16, rb r (576 + 32 * i) 4) else none

/-- The RSV fields, and the fields that are zero while their enable is 0 (R167). -/
def recZero (r : BitVec 1024) : Bool :=
  [(704, 320), (517, 59), (505, 7), (448, 2), (416, 32), (393, 9), (377, 7), (313, 11), (256, 12), (202, 22), (154, 4),
   (144, 4), (57, 7)].all (fun f => rb r f.1 f.2 == 0) &&
  (r.getLsbD 415 || rb r 409 6 == 0) && (r.getLsbD 408 || rb r 402 6 == 0) &&
  (List.range 4).all fun i => rb r (596 + 32 * i) 11 == 0

/-- Bytes of a ring (R161). -/
def ringBytes (l : Nat) : Nat := 16 + 16 * 2 ^ l

/-- The checks of the record's rings (R167). -/
def LRec.ringsOk (r : LRec) : Bool :=
  let on := r.rings.filterMap id
  on.all (fun g => decide (1 ≤ g.2) && decide (g.2 ≤ 12) && decide (g.1 + ringBytes g.2 ≤ pageSize * r.spq)) &&
  (List.range on.length).all fun i => (List.range i).all fun j =>
    match on[i]?, on[j]? with
    | some a, some b => !rangesMeet a.1 (ringBytes a.2) b.1 (ringBytes b.2)
    | _, _ => true

/-- Blocks of the grid. -/
def LRec.blocks (r : LRec) : Nat := r.gx * r.gy * r.gz

/-- The checks of the record's fields (R167). -/
def LRec.ok (r : LRec) : Bool :=
  decide (r.entry.extractLsb' 0 2 = 0) && decide (1 ≤ r.gx) && decide (1 ≤ r.gy) && decide (1 ≤ r.gz) &&
  decide (r.blocks ≤ 2 ^ 31) && decide (1 ≤ r.nthr) && decide (r.nthr ≤ 1024) && decide (2 ≤ r.regn) && decide (r.regn ≤ 16) &&
  decide (r.spq ≤ 512) && decide (r.narg ≤ 16) && decide (r.narg ≤ 8 * r.regn) && decide (r.gn ≤ 256) && r.ringsOk

/-- LIST 1: the list's address. -/
def grpAddr (e : BitVec 128) : Dword := e.extractLsb' 0 64

/-- The checks of a group-table entry for a grid of `n` blocks (R117). -/
def grpOk (e : BitVec 128) (n : Nat) : Bool :=
  match grpKind e with
  | 0 => e == 0
  | 1 | 2 =>
    e.extractLsb' 96 27 == 0 &&
    (if grpKind e = 1 then decide (1 ≤ grpCount e) && decide (grpCount e ≤ 2 ^ 31)
     else decide (2 ≤ grpCount e) && decide (grpCount e ≤ 6)) &&
    (if grpList e then canonical (grpAddr e) && (grpAddr e).extractLsb' 0 2 == 0
     else decide (1 ≤ grpStride e) && decide (grpFirst e + (grpCount e - 1) * grpStride e < n))
  | _ => false

/-- Group-table entries from their bytes. -/
def grpEntries (b : List Byte) : Nat → Nat → Tab Nat (BitVec 128)
  | _, 0 => []
  | i, n + 1 => (i, BitVec.ofNat 128 (leVal (b.take 16))) :: grpEntries (b.drop 16) (i + 1) n

/-! ## Room on a core (R170, R173) -/

/-- STT entries of a bank of a core: 1,024 (R180). -/
abbrev sttSize : Nat := 1024

/-- The resource check of a core for a block (R170). -/
def CtxCore.fits (k : CtxCore) (nthr regs spq : Nat) : Bool :=
  decide (k.blocks.length < 64) && decide (k.threads.length + nthr ≤ 1024) && k.regsFit nthr regs &&
  decide (k.stt.length + spq ≤ sttSize)

/-- The cores of a partition from `ptr` on, wrapping. -/
def ringFrom (count ptr : Nat) : List Nat := (List.range count).map fun i => (ptr + i) % count

/-- A stand-in for a block in the dry run: slots, registers and STT entries. -/
def CtxCore.reserve (k : CtxCore) (nthr regs spq : Nat) : CtxCore :=
  let bs := (firstFree k.usedBlks 64 0 1).headD 0
  let k := k.addBlock bs { nthr, regs, spq } fun i => newThread bs i 0 regs 0 [] 0 1 0
  { k with stt := k.stt ++ (List.range spq).map fun v => ((bs, v), ({} : SttE)) }

/-- The dry run of a cohort on the cores `on` allows: fuel blocks, from the pointer (R173). -/
def dryRun (on : Nat → Bool) (count nthr regs spq : Nat) : Nat → Nat → Ctx → Bool
  | 0, _, _ => true
  | n + 1, ptr, k =>
    match (ringFrom count ptr).find? fun c => on c && (k.coreAt c).fits nthr regs spq with
    | none => false
    | some c => dryRun on count nthr regs spq n ((c + 1) % count) (k.setCore c ((k.coreAt c).reserve nthr regs spq))

/-- A cohort's grid fits the cores of a bank that `on` allows; no grid of more than 64 blocks a core does. -/
def cohortFits (on : Nat → Bool) (r : LRec) (count ptr : Nat) (k : Ctx) : Bool :=
  decide (r.blocks ≤ 64 * count) && dryRun on count r.nthr (8 * r.regn) r.spq r.blocks ptr k

/-- Cores of a partition. -/
def State.coreCount (s : State) (p : Nat) : Nat :=
  match (s.partAt p).cfg with
  | some g => g.count
  | none => 0

/-- Core `c` of a bank's partition works: the self-test has not excluded it (R329). -/
def State.works (s : State) (x c : Nat) : Bool := !s.fenced.contains (s.physOf x c)

/-! ## Reading a record (R167) -/

/-- The state with the head record of a queue changed. -/
def State.modHead (s : State) (x q : Nat) (f : QRec → QRec) : State :=
  s.modCtx x fun k =>
    let u := k.queueAt q
    match u.recs with
    | r :: l => { k with queues := tput q { u with recs := f r :: l } k.queues }
    | [] => k

/-- The state without the head record of a queue. -/
def State.popHead (s : State) (x q : Nat) : State :=
  s.modCtx x fun k =>
    let u := k.queueAt q
    { k with queues := tput q (u.pop k.zeroEv) k.queues }

/-- The head record is rejected (R167). -/
def State.rejectHead (s : State) (x q : Nat) : State := (s.popHead x q).rejected (x / 2)

/-- The reading of the head record waits for a fault record (R167). -/
def State.headFault (s : State) (x q : Nat) (kind level size : Nat) (va : Dword) : State :=
  let (s, tag) := s.distFault x kind level size va
  s.modHead x q fun r => { r with tag := some tag }

/-- Words from bytes. -/
def argWords (b : List Byte) : Nat → List Word
  | 0 => []
  | n + 1 => BitVec.ofNat 32 (leVal (b.take 4)) :: argWords (b.drop 4) n

/-- A bin's launch as the template with its own grid, threads and record length (R175). -/
def LRec.forBin (r : LRec) (recs : List (List Word)) : LRec :=
  { r with gx := 1, gy := 1, gz := 1, nthr := recs.length, narg := (recs.headD []).length }

/-- LAUNCH_RECORD_READ: the distributor reads and checks the record at the head of a queue; it is rejected, waits for a
fault record, or becomes a launch (R117, R167, R169, R173). A doorbell's address that is not canonical or not 64-byte aligned
is rejected (log 75); a bin's launch reads no argument block (log 76). -/
def execLaunchRecordRead (x q : Nat) (s : State) : Out :=
  match ((s.ctxAt x).queueAt q).recs with
  | [] => .next s
  | h :: _ =>
    if !s.runs x || h.launch.isSome || h.tag.isSome then .next s
    else if !canonical h.addr || h.addr.extractLsb' 0 6 != 0 then .next (s.rejectHead x q)
    else
      match s.distBytes x h.addr 128 with
      | .bad => .next (s.rejectHead x q)
      | .wait s => .next s
      | .flt kind level size va => .next (s.headFault x q kind level size va)
      | .ok s b =>
        let bits := BitVec.ofNat 1024 (leVal b)
        let r := match h.bin with
          | some recs => (LRec.ofBits bits).forBin recs
          | none => LRec.ofBits bits
        let count := s.coreCount (x / 2)
        if !recZero bits || !r.ok || (r.cohort && !cohortFits (s.works x) r count 0 {}) then .next (s.rejectHead x q)
        else
          match s.distBytes x (BitVec.ofNat 64 r.args) (if h.bin.isSome then 0 else 4 * r.narg) with
          | .bad => .next (s.rejectHead x q)
          | .wait s => .next s
          | .flt kind level size va => .next (s.headFault x q kind level size va)
          | .ok s ab =>
            match s.distBytes x (BitVec.ofNat 64 r.gtab) (16 * r.gn) with
            | .bad => .next (s.rejectHead x q)
            | .wait s => .next s
            | .flt kind level size va => .next (s.headFault x q kind level size va)
            | .ok s gb =>
              let grp := grpEntries gb 0 r.gn
              if !grp.all (fun e => grpOk e.2 r.blocks) then .next (s.rejectHead x q)
              else
                let k := s.ctxAt x
                let bound := match r.evb with
                  | none => true
                  | some n => h.fired.getLsbD n
                let l : Launch := { r := { r with argw := argWords ab (if h.bin.isSome then 0 else r.narg) }, queue := q, bound,
                                    recs := h.bin.getD [], grp, time := h.time }
                let s := s.setCtx x { k with launches := tput k.nextId l k.launches, nextId := k.nextId + 1 }
                .next (s.modHead x q fun r => { r with launch := some k.nextId })

/-! ## Placing blocks (R118, R119, R166, R168 to R173, R181) -/

/-- Launch `l` of a bank. -/
def Ctx.launchAt (k : Ctx) (l : Nat) : Launch := tget {} k.launches l

/-- The state with `f` applied to a launch. -/
def State.modLaunch (s : State) (x l : Nat) (f : Launch → Launch) : State :=
  s.modCtx x fun k => { k with launches := tput l (f (k.launchAt l)) k.launches }

/-- What the reading of the LIST 1 lists answers (R118). -/
inductive ListRes where
  | ok (s : State) (lists : Tab Nat (List Nat))
  | wait (s : State)
  | bad (n : Nat)

/-- A list is strictly ascending and below `n`. -/
def ascending (n : Nat) : List Nat → Bool
  | [] => true
  | [a] => decide (a < n)
  | a :: b :: r => decide (a < b) && decide (a < n) && ascending n (b :: r)

/-- Reads and checks the LIST 1 lists of some entries, in ascending order; pages `denied` were answered with ERROR. -/
def State.readLists (s : State) (x q : Nat) (blocks : Nat) (denied : List Nat) : Tab Nat (BitVec 128) → ListRes
  | [] => .ok s []
  | (n, e) :: r =>
    if !(grpKind e != 0 && grpList e) then s.readLists x q blocks denied r
    else
      let va := grpAddr e
      let pages := (List.range ((4 * grpCount e + va.toNat % 4096 + 4095) / 4096)).map (va.toNat / 4096 + ·)
      if pages.any denied.contains then .bad n
      else
        match s.distBytes x va (4 * grpCount e) with
        | .bad => .bad n
        | .wait s => .wait s
        | .flt kind level size va => .wait (s.headFault x q kind level size va)
        | .ok s b =>
          let l := (argWords b (grpCount e)).map BitVec.toNat
          if !ascending blocks l then .bad n
          else
            match s.readLists x q blocks denied r with
            | .ok s ls => .ok s ((n, l) :: ls)
            | o => o

/-- The entries of a launch that hold block `b`, ascending (R117). -/
def Launch.groupsOf (l : Launch) (b : Nat) : List Nat :=
  (l.grp.filter fun e => grpHas e.2 (tget [] l.lists e.1) b).map Prod.fst

/-- Those of kind gang. -/
def Launch.gangsOf (l : Launch) (b : Nat) : List Nat := (l.groupsOf b).filter fun n => grpKind (tget 0 l.grp n) == 2

/-- The backing address field of page `v` of a block with backing index `k` (R181). -/
def backOf (r : LRec) (k v : Nat) : BitVec 46 := BitVec.ofNat 46 ((r.back * 4096 + (k * r.spq + v) * pageSize) / 2048)

/-- The lowest backing index no other resident block of the launch holds (R181). -/
def Ctx.freeBack (k : Ctx) (l : Nat) : Nat :=
  let used := k.cores.flatMap fun e => (e.2.blocks.filter fun b => b.2.launch == l && !b.2.spawned).map fun b => b.2.backK
  (firstFree used (used.length + 1) 0 1).headD 0

/-- SRSEED of a thread at its start (R46). -/
def startSeed (seed bidx : Word) (tidx : Nat) : Word :=
  let v := seed ^^^ (bidx <<< 10) ^^^ BitVec.ofNat 32 tidx
  if v = 0 then 0x9E3779B9 else v

/-- The next block of launch `l` starts on core `c` (R119, R161, R168, R181). -/
def State.startBlock (s : State) (x c l : Nat) : State :=
  let k := s.ctxAt x
  let la := k.launchAt l
  let r := la.r
  let bi := la.next
  let kc := k.coreAt c
  let bs := (firstFree kc.usedBlks 64 0 1).headD 0
  let kb := k.freeBack l
  let gang : Word := match la.gangsOf bi with
    | n :: _ => BitVec.ofNat 32 (256 + n)
    | [] => 0
  let rings := ((List.range 4).zip r.rings).filterMap fun e => e.2.map fun g => (e.1, ({ h := g.1, l := g.2 } : Ring))
  let blk : Block := { launch := l, bidx := BitVec.ofNat 32 bi, nthr := r.nthr, gx := BitVec.ofNat 32 r.gx, gy := BitVec.ofNat 32 r.gy,
                       gz := BitVec.ofNat 32 r.gz, regs := 8 * r.regn, spq := r.spq, backK := kb, groups := la.groupsOf bi, rings }
  let mk := fun (i : Nat) =>
    newThread bs i r.entry (8 * r.regn) s.clock (if la.recs.isEmpty then la.r.argw else la.recs.getD i [])
      (BitVec.ofNat 64 r.args) (startSeed r.seed (BitVec.ofNat 32 bi) i) gang
  let stt := (List.range r.spq).map fun v => ((bs, v), ({ baddr := backOf r kb v } : SttE))
  let s := s.setCtx x (k.setCore c { kc.addBlock bs blk mk with stt := kc.stt ++ stt })
  let s := (s.raiseOpt (s.physOf x c) la.time).modLaunch x l fun a =>
    { a with next := a.next + 1, live := a.live + 1, since := none, starved := false }
  let s := s.modPart (x / 2) fun p => { p with ptr := (c + 1) % (max 1 (s.coreCount (x / 2))), placed := some s.clock }
  if bi + 1 = r.blocks then s.popHead x la.queue else s

/-- A launch at the head of a queue: queue, priority, identifier. -/
structure Cand where
  q    : Nat
  prio : Nat
  l    : Nat
  deriving DecidableEq, Repr

/-- The launches that stand at the heads of their queues, not waiting for a list's page. -/
def Ctx.heads (k : Ctx) : List Cand :=
  k.queues.filterMap fun e => match e.2.recs with
    | h :: _ => if h.tag.isSome then none else h.launch.map fun l => { q := e.1, prio := e.2.prio, l }
    | [] => none

/-- The launch may dispatch as far as R166 and its binding go (R166, R169). -/
def Ctx.ready (k : Ctx) (c : Cand) : Bool :=
  let l := k.launchAt c.l
  l.bound && (l.next != 0 || l.r.overlap ||
    !k.launches.any fun e => e.1 != c.l && e.2.queue == c.q && decide (0 < e.2.live))

/-- The block has waited 14,400 clocks (R171). -/
def Launch.waited (l : Launch) (now : Nat) : Bool :=
  l.starved || (match l.since with
    | some t => decide (t + 14400 ≤ now)
    | none => false)

/-- The time to which R166 raises every core of the partition of bank `x`. -/
def State.launchTime (s : State) (x : Nat) : BitVec 24 :=
  ((List.range (s.coreCount (x / 2))).map fun c => s.coreAt (s.physOf x c)).foldl
    (fun t (c : CorePhys) => later (later t c.lt) (later c.lt c.engT)) (s.coreAt (s.physOf x 0)).lt

/-- Raises every core of the partition to the time of R166; none when a core may not jump there yet (R232). -/
def State.launchRaise (s : State) (x : Nat) : Option State :=
  let t := s.launchTime x
  let cs := (List.range (s.coreCount (x / 2))).map (s.physOf x ·)
  if cs.all fun c => s.jumpOk c t then some (cs.foldl (fun s c => s.raiseLt c t) s) else none

/-- The next block of a launch on core `c`: the checks of R118 before its first block, then those of the block; a trap,
a wait, or the block starts. -/
def State.dispatch (s : State) (x c : Nat) (d : Cand) : State :=
  let la := (s.ctxAt x).launchAt d.l
  let trap := fun (s : State) (n : Nat) => s.unitTrap x c 0 8 la.r.entry 0x22 (BitVec.ofNat 64 n)
  let go := fun (s : State) =>
    let la := (s.ctxAt x).launchAt d.l
    match (la.groupsOf la.next)[4]?, (la.gangsOf la.next)[1]? with
    | some n, _ => trap s n
    | none, some n => trap s n
    | none, none => s.startBlock x c d.l
  if la.listed then go s
  else
    let denied := match ((s.ctxAt x).queueAt d.q).recs with
      | h :: _ => h.denied
      | [] => []
    match s.readLists x d.q la.r.blocks denied la.grp with
    | .bad n => trap s n
    | .wait s => s
    | .ok s lists =>
      let s := s.modLaunch x d.l fun a => { a with listed := true, lists }
      go (s.modCtx x fun k => { k with grp := la.grp ++ k.grp.filter fun e => decide (la.r.gn ≤ e.1) })

/-- The block of a launch waits for room, since now unless it waited before (R171). -/
def State.waitRoom (s : State) (x : Nat) (d : Cand) : State :=
  s.modLaunch x d.l fun a => { a with since := some (a.since.getD s.clock) }

/-- Places the next block of the first launch of the list that can place one (R170, R171, R173). -/
def State.placeFrom (s : State) (x : Nat) : List Cand → State
  | [] => s
  | d :: r =>
    let k := s.ctxAt x
    let la := k.launchAt d.l
    let count := s.coreCount (x / 2)
    let ptr := (s.partAt (x / 2)).ptr
    let found := (ringFrom count ptr).find? fun c => s.works x c && (k.coreAt c).fits la.r.nthr (8 * la.r.regn) la.r.spq
    if la.r.cohort && la.next == 0 && !cohortFits (s.works x) la.r count ptr k then (s.waitRoom x d).placeFrom x r
    else
      match found with
      | none => (s.waitRoom x d).placeFrom x r
      | some c =>
        if !s.jumpOk (s.physOf x c) (la.time.getD (s.coreAt (s.physOf x c)).lt) then s.placeFrom x r
        else
          let go := fun (s : State) => (s.dispatch x c d).modCtx x fun k => { k with turn := tput d.prio d.q k.turn }
          if la.next == 0 && !la.r.overlap then
            match s.launchRaise x with
            | some s => go s
            | none => s.placeFrom x r
          else go s

/-- BLOCK_PLACE: the distributor of partition `p` places at most one block in a clock (R170 to R173). Where no queue of a
priority has had a turn, the lowest queue is first (log 73). -/
def execBlockPlace (p : Nat) (s : State) : Out :=
  match (s.partAt p).active with
  | none => .next s
  | some b =>
    let x := 2 * p + b
    let k := s.ctxAt x
    if !s.runs x || (s.partAt p).placed == some s.clock then .next s
    else
      let all := k.heads.filter k.ready
      let begun := all.filter fun d => (k.launchAt d.l).r.cohort && (k.launchAt d.l).next != 0
      let floor := (all.filter fun d => (k.launchAt d.l).waited s.clock).foldl (fun m d => max m d.prio) 0
      let key : Cand → Nat := fun d => match tfind k.turn d.prio with
        | some t => (d.q + 63 - t) % 64
        | none => d.q
      let before := fun (a b : Cand) => decide (b.prio < a.prio) || (a.prio == b.prio && decide (key a < key b))
      let list := if begun.isEmpty then sortBy before (all.filter fun d => decide (floor ≤ d.prio)) else begun
      .next (s.placeFrom x list)

/-- PRIORITY_WAIT_EXPIRY: a block of the launch at the head of a queue has waited 14,400 clocks: no block of a launch
with lower priority is placed before it (R171). -/
def execPriorityWaitExpiry (p q : Nat) (s : State) : Out :=
  match (s.partAt p).active with
  | none => .next s
  | some b =>
    let x := 2 * p + b
    match ((s.ctxAt x).queueAt q).recs with
    | { launch := some l, .. } :: _ =>
      if ((s.ctxAt x).launchAt l).waited s.clock then .next (s.modLaunch x l fun a => { a with starved := true }) else .next s
    | _ => .next s

/-! ## Retirement and completion (R172) -/

/-- Nothing of a block is still to complete: its threads have exited, its engine commands and copy batches are done, and
its accesses are acknowledged (R172). -/
def State.blockDone (s : State) (x c bs : Nat) : Bool :=
  let k := (s.ctxAt x).coreAt c
  (k.liveOf bs).isEmpty && (k.ofBlk bs).all (fun e => e.2.par.batches.isEmpty) &&
  ([EngQ.matrix, .copy, .chain, .scout].all fun q => (k.q q).all fun m => m.blk != bs) &&
  (k.blkAt bs).unack == 0 && !(s.ctxAt x).infl.any fun e => s.ofBlock x c bs e.2

/-- The bank without the times that a block slot's commands gave the event counters; `go` answers where the block goes (R159,
R189). -/
def Ctx.moveTimes (k : Ctx) (c bs : Nat) (go : Option (Nat × Nat)) : Ctx :=
  { k with evE := k.evE.filterMap fun e =>
      if e.1.2 = (c, bs) then go.map fun d => ((e.1.1, d), e.2) else some e }

/-- The core without a block: its threads, STT entries and page transfers go with it, and its tiles lose their owner. A transfer of a page
that has migrated is another core's block's (R189). -/
def CtxCore.dropBlock (k : CtxCore) (bs : Nat) : CtxCore :=
  { k with blocks := tdel bs k.blocks, threads := k.threads.filter (fun e => e.2.par.blk != bs),
           stt := k.stt.filter (fun e => e.1.1 != bs), want := k.want.filter (fun p => p.1 != bs),
           xfers := k.xfers.filter (fun t => t.bs != bs || t.home.isSome),
           tiles := k.tiles.map fun e => if e.2.owner = some bs then (e.1, { e.2 with owner := none }) else e }

/-- The bank without the write-outs, from frames of other cores, of the pages of a block of core `c` that retires (R172, R181,
R189). -/
def Ctx.dropMoved (k : Ctx) (c bs : Nat) : Ctx :=
  { k with cores := k.cores.map fun (e : Nat × CtxCore) => (e.1, { e.2 with xfers := e.2.xfers.filter fun t => !(t.bs == bs && t.home == some c) }) }

/-- The joint commands of a launch that wait in a gang's latch at an instance the block `b` has not joined: core and
command (R272). -/
def Ctx.latched (k : Ctx) (b : Block) : List (Nat × Cmd) :=
  k.cores.filterMap fun e => match e.2.matrix with
    | m :: _ =>
      match m.gang, m.inst with
      | some g, some n =>
        if b.groups.contains g && (e.2.blkAt m.blk).launch == b.launch && decide (b.joint ≤ n) && !m.freed then some (e.1, m) else none
      | _, _ => none
    | [] => none

/-- BLOCK_RETIRE: the block's resources are freed. A member that retires while an instance it has not joined holds others
breaks its gang (R172, R271, R272). -/
def execBlockRetire (x c bs : Nat) (s : State) : Out :=
  match tfind ((s.ctxAt x).coreAt c).blocks bs with
  | none => .next s
  | some b =>
    if !s.blockDone x c bs then .next s
    else
      let s := ((s.modCore x c (·.dropBlock bs)).modCtx x fun k => (k.moveTimes c bs none).dropMoved c bs).modLaunch x b.launch fun a =>
        { a with live := a.live - 1, gone := if b.spawned then b.bidx :: a.gone else a.gone }
      match (s.ctxAt x).latched b with
      | (c', m) :: _ => .next (s.unitTrap x c' m.slot 2 m.pc 0x2A (BitVec.ofNat 64 (m.gang.getD 0)))
      | [] => .next s

/-- LAUNCH_COMPLETE: every block of a launch has retired, and its completion counter loses 1 (R172). -/
def execLaunchComplete (x l : Nat) (s : State) : Out :=
  match tfind (s.ctxAt x).launches l with
  | none => .next s
  | some a =>
    if a.next != a.r.blocks || a.live != 0 then .next s
    else
      let s := s.modCtx x fun k => { k with launches := tdel l k.launches }
      match a.r.evd with
      | some n => .next (s.evSub x n 1)
      | none => .next s

/-! ## Partitions (R1, R178) -/

/-- A partition's cores are whole or half dies, and its size code is 0 to 4 (R1, R178). -/
def cfgOk (g : PartCfg) : Bool :=
  decide (g.s ≤ 4) && decide (0 < g.count) && decide (g.first + g.count ≤ 512) && g.first % 64 == 0 && g.count % 64 == 0 &&
  (g.count == 64 || (g.first % 128 == 0 && g.count % 128 == 0))

/-- The partitions can make up 1, 2, 4 or 8: those there are, with as many more as half dies are left (R1, log 77). -/
def cfgCount (l : List PartCfg) : Bool :=
  let free := 8 - (l.map fun g => g.count / 64).sum
  [1, 2, 4, 8].any fun m => decide (l.length ≤ m) && decide (m ≤ l.length + free)

/-- Two partitions have no core in common. -/
def cfgApart (g h : PartCfg) : Bool := decide (g.first + g.count ≤ h.first) || decide (h.first + h.count ≤ g.first)

/-- No block of either context is resident on a core of the partition (R178). -/
def State.idle (s : State) (p : Nat) : Bool :=
  [2 * p, 2 * p + 1].all fun x => (s.ctxAt x).cores.all fun e => e.2.blocks.isEmpty

/-- PARTITION_CONFIGURATION: S takes effect while no block is resident: the L1 lines of the partition's cores go, and the
clock hands start at frame 0 (R178, R184). Values 5 to 7 of S are refused, and no partition exists in reduced service
(R350). -/
def execPartitionConfiguration (p : Nat) (cfg : PartCfg) (s : State) : Out :=
  if s.boot.stage != .run || 7 < p || !cfgOk cfg || !s.idle p ||
      !cfgCount (cfg :: s.parts.filterMap fun e => if e.1 = p then none else e.2.cfg) ||
      s.parts.any (fun e => e.1 != p && (match e.2.cfg with
        | some h => !cfgApart cfg h
        | none => false)) then .next s
  else
    let s := s.modPart p fun q => { q with cfg := some cfg, ptr := 0 }
    .next ((List.range cfg.count).foldl (fun s c => s.modPhys (cfg.first + c) fun k => { k with l1 := [], hand := 0 }) s)

/-! ## Migration (R189, R190) -/

/-- The block may not move: a gang member, tile words issued, engine work or copy batches incomplete, or the destination
is full or on another die (R189). -/
def State.migrateRefused (s : State) (x c bs dst : Nat) : Bool :=
  let k := s.ctxAt x
  let b := (k.coreAt c).blkAt bs
  let la := k.launchAt b.launch
  b.groups.any (fun n => grpKind (tget 0 la.grp n) == 2) || b.tiles ||
  ([EngQ.matrix, .copy, .chain, .scout].any fun q => ((k.coreAt c).q q).any fun m => m.blk == bs) ||
  ((k.coreAt c).ofBlk bs).any (fun e => !e.2.par.batches.isEmpty) ||
  !(k.coreAt dst).fits b.nthr b.regs b.spq || !s.works x dst || c == dst || s.dieOf x c != s.dieOf x dst ||
  decide (s.coreCount (x / 2) ≤ dst)

/-- A write that a thread made before the SPAWN of a block of core `c`, and that the block's accesses follow (R150, log 90): of the block in slot
`bs`, or made by one of its threads and in flight to be moved with it. -/
def Ctx.spawnDebt (k : Ctx) (c bs : Nat) : Bool :=
  let kc := k.coreAt c
  kc.blocks.any fun b => match b.2.parent with
    | none => false
    | some (u, m) => (b.1 == bs || (kc.thrAt u).par.blk == bs) && k.infl.any fun e =>
        decide (e.1 < m) && e.2.core == c && e.2.slot == u && e.2.counted

/-- Every issued instruction of the block has completed or waits in the operand log, its threads stand in no bundle, and
no page of it is being written (R189); no write that a SPAWN has put before another block's accesses is still in flight (R150). -/
def State.settled (s : State) (x c bs : Nat) : Bool :=
  let k := s.ctxAt x
  k.infl.all (fun e => !s.ofBlock x c bs e.2 || (match e.2.phase with
    | .logged _ | .replay => true
    | _ => false)) &&
  !k.msgs.any (fun e => e.2.core == c && ((k.coreAt c).thrAt e.2.slot).par.blk == bs) &&
  !(k.coreAt c).stt.any (fun e => e.1.1 == bs && (e.2.infl || e.2.fix || e.2.pin != 0)) &&
  !((k.coreAt c).xfers.any fun t => t.bs == bs && t.home.isNone) && !k.spawnDebt c bs

/-- BLOCK_MIGRATE: the Fixer moves a block to another core of its die and partition; its pages stay where they are until
the destination faults on them (R189, R190). A thread in a bundle returns to the pond first. -/
def execBlockMigrate (x c bs dst : Nat) (s : State) : Out :=
  if (tfind ((s.ctxAt x).coreAt c).blocks bs).isNone || s.migrateRefused x c bs dst || !s.settled x c bs then .next s
  else
    let k := s.ctxAt x
    let src := k.coreAt c
    let thr := src.ofBlk bs
    let kd := k.coreAt dst
    let nb := (firstFree kd.usedBlks 64 0 1).headD 0
    let slots := firstFree kd.usedThrs 1024 0 thr.length
    let pond := fun (th : Thread) => match th.par.place with
      | .bundle _ => th.pondAt s.clock 0 false
      | _ => th
    let moved := (slots.zip thr).map fun e =>
      let th := pond e.2.2
      (e.1, { th with par := { th.par with blk := nb } })
    let stt := (src.stt.filter fun e => e.1.1 == bs).map fun e =>
      ((nb, e.1.2), if e.2.res then { e.2 with res := false, held := some (c, e.2.frame) } else e.2)
    let src' := thr.foldl (fun k e => k.leave e.1 s.clock) src
    let src' := src'.dropBlock bs
    let dst' := { kd with threads := kd.threads ++ moved, blocks := tput nb { src.blkAt bs with parent := none } kd.blocks, stt := kd.stt ++ stt }
    let newSlot := fun (n : Nat) => (slots.zip thr).findSome? fun e => if e.2.1 = n then some e.1 else none
    let infl := k.infl.map fun (e : Nat × InFlight) => if e.2.core = c then
      (match newSlot e.2.slot with
       | some n => (e.1, { e.2 with core := dst, slot := n })
       | none => e) else e
    let s := s.setCtx x ({ (k.setCore c src').setCore dst dst' with infl := infl }.moveTimes c bs (some (dst, nb)))
    let a := s.physOf x c
    .next (s.raiseLt (s.physOf x dst) (s.coreAt a).lt)

end Sys2Proof.Machine
end

