-- ==== Sys2Proof/Machine/Parallel.lean ====
section
/-! DEFINITION. Sys2Proof/Machine/Parallel.lean: EXIT, join, team, key, spawn, barrier, ticket, event, work and ring
instructions, and the events of team instances and messages (R91, R133 to R163). -/

namespace Sys2Proof.Machine

/-! ## Helpers -/

/-- Completes a word that may have been parked: the thread goes on at its next word, through the pond when it left its
bundle (R125). -/
def State.done (s : State) (f : Thread → Thread) : Res :=
  match s.me.par.place with
  | .parked _ => .placed (s.modMe fun th => (f th).wake s.clock)
  | _ => .next (s.modMe f)

/-- The bank on which event, launch and bin instructions act: the thread's own, or the one KCTX names, which is checked at the
word's issue and not again while it waits (R142). -/
def State.workBank (s : State) : Option Nat :=
  match s.cur with
  | .cmp x _ _ => some x
  | .ctl n =>
    let c := s.ctlAt n
    let x := 2 * c.kctxP.toNat + c.kctxB.toNat
    if c.t.iss.isSome || (c.kctxV && (s.partAt c.kctxP.toNat).cfg.isSome &&
        ((s.ctxAt x).st == .ready || (s.ctxAt x).st == .active)) then some x
    else none

/-- A control core's word waits, and the bank holds no context for now. -/
def State.bankGone (s : State) (x : Nat) : Bool :=
  isCtl s.cur && s.me.iss.isSome && ((s.ctxAt x).st == .free || (s.ctxAt x).st == .fill)

/-- A word of R142: illegal where KCTX names no context, which is one of the conditions of check 2 of R70, before its guard is read (log
86). `f` acts on the bank. -/
def workWord (w : W) (s : State) (f : Nat → Res) : Out :=
  runWord { w with bad := s.workBank.isNone } s (match s.workBank with
    | some x => if s.bankGone x then .hold s else f x
    | none => .next s)

/-- Every thread of the bundle with a lower TIDX has executed the word (R157, R262). -/
def State.matesFirst (s : State) : Bool :=
  match s.cur with
  | .ctl _ => true
  | .cmp x c slot =>
    let k := (s.ctxAt x).coreAt c
    match s.me.par.place with
    | .bundle b =>
      let u := k.bundleAt b
      u.lanes.all fun e => e.1 == slot || (u.did.map Prod.fst).contains e.1 ||
        decide (s.me.par.tidx < (k.thrAt e.1).par.tidx)
    | _ => true

/-- A publishing arrival or another release of the executing thread has been performed (R152, R208). -/
def State.mayPublish (s : State) (sc : Nat) : Bool := sc == 0 || s.released s.cur sc

/-- The number of a publish scope (R151): as for FENCE, 0 for none. -/
def pubNum : PScope → Nat
  | .none => 0
  | .blk => 1
  | .die => 2
  | .pkg => 3
  | .dom => 4
  | .sys => 5

/-! ## EXIT (R91) -/

/-- An older instruction of the thread has not completed: all but its buffered stores (R91). -/
def State.unfinished (s : State) (x c slot : Nat) : Bool :=
  (s.ctxAt x).infl.any (fun e => e.2.ofThread c slot && !(match e.2.op with
    | .st _ _ _ _ _ _ => e.2.buffered
    | .atom _ _ _ _ _ _ => (match e.2.phase with
      | .applied _ => true
      | _ => false)
    | _ => false)) ||
  (s.ctxAt x).msgs.any fun e => e.2.core == c && e.2.slot == slot

/-- The thread's open copy batch sealed with no token register (R91, R267). -/
def Thread.sealOpen (th : Thread) : Thread :=
  let close := fun (b : Batch) => if BitVec.ofNat 32 b.num = th.cpopen then { b with sealed := true } else b
  { th with par := { th.par with batches := th.par.batches.map close } }

/-- The state of an exited thread is discarded: what its registers hold is not stated (R91, log 37). They take the free values
from number `n` on, at most 256. -/
def Thread.discard (th : Thread) (n : Nat) : Thread :=
  let w := fun (i : Nat) => (Config.free64 (n + i)).extractLsb' 0 32
  let d := fun (i : Nat) => Config.free64 (n + i)
  { th with
    pc := (d 128).extractLsb' 0 57 &&& ~~~(3 : BitVec 57)
    g := (List.range th.alloc).map fun i => (i, w i)
    p := (List.range 7).map fun i => (i, (d (129 + i)).getLsbD 0)
    a := (List.range 8).map fun i => (i, d (136 + i))
    m := (List.range 8).map fun i => (i, d (144 + i))
    k := (List.range 8).map fun i => (i, d (152 + 4 * i) ++ d (153 + 4 * i) ++ d (154 + 4 * i) ++ d (155 + 4 * i))
    fpmode := w 184
    fpflags := w 185
    srseed := w 186
    regmode := w 187
    hold := w 188
    gang := w 189
    lease := w 190
    cpopen := w 191
    hints := {}
    iss := none
    entry := none
    met := false
    acq := none }

/-- EXIT (R91, R134, R152 to R155). -/
def execExit (pg : BitVec 3) (s : State) : Out :=
  runWord { i := .exit pg, pg, onCtl := false } s
    (match s.cur with
     | .ctl _ => .next s
     | .cmp x c slot =>
       if s.unfinished x c slot then .hold s
       else
         let s := { s.modMe fun th =>
           let th := th.sealOpen.discard s.fresh
           { th with par := { th.par with armed := 0, arrived := 0, place := .exited, held := none } } with fresh := s.fresh + 256 }
         .placed (s.blockChecks x c s.me.par.blk))

/-! ## Join slots (R133, R134, R143) -/

/-- JARM (R133). -/
def execJarm (pg : BitVec 3) (j : BitVec 4) (s : State) : Out :=
  runWord { i := .jarm pg j, pg, onCtl := false } s (.next (s.modMe (·.joinBits j.toNat true false)))

/-- JDIS (R133, R134). -/
def execJdis (pg : BitVec 3) (j : BitVec 4) (s : State) : Out :=
  let (x, c, _) := s.here
  runWord { i := .jdis pg j, pg, onCtl := false } s
    (.next ((s.modMe (·.joinBits j.toNat false false)).modCore x c fun k => k.joinCheck s.me.par.blk j.toNat s.clock))

/-- JOIN: the thread's key becomes absent; an armed thread with a true guard arrives and parks (R133, R134, R137). -/
def execJoin (pg : BitVec 3) (j : BitVec 4) (s : State) : Out :=
  let (x, c, _) := s.here
  let s' := s.modMe fun th => { th with par := { th.par with key := none } }
  runWord { i := .join pg j, pg, onCtl := false, acts := true } s
    (if s.me.guard pg && s.me.par.armed.getLsbD j.toNat then
       .placed ((s'.modMe fun th => (th.joinBits j.toNat true true).park (.join j.toNat)).modCore x c fun k =>
         k.joinCheck s.me.par.blk j.toNat s.clock)
     else .next s')

/-- JTEST (R143). -/
def execJtest (pg q : BitVec 3) (j : BitVec 4) (s : State) : Out :=
  runWord { i := .jtest pg q j, pg, rs := [.p q.toNat], onCtl := false } s
    (.next (s.modMe fun th => th.setP q.toNat (th.par.armed.getLsbD j.toNat)))

/-! ## Team instructions (R135, R136, R144 to R148) -/

/-- A team instruction reached by the executing thread: it arrives at its team's instance, under a true or false guard,
and parks; an arrival at another program counter is the team mismatch (R135). -/
def teamWord (w : W) (s : State) : Out :=
  let (x, c, _) := s.here
  let th := s.me
  let mates := (((s.ctxAt x).coreAt c).teamLive th.par.blk (th.par.tidx / width)).filter fun e => e.2.parkedAt .team
  runWord { w with onCtl := false, acts := true } s
    (match mates.find? fun e => e.2.pc != th.pc with
     | some e => .trap 0x20 (e.2.pc.zeroExtend 64) false
     | none =>
       .placed (s.modMe fun t =>
         { t.park .team with par := { (t.park .team).par with
             teamN := t.par.teamN + 1, team := some { op := w.i, guard := th.guard w.pg, fpmode := t.fpmode } } }))

/-- A contributing thread of an instance: its position and itself (R144). -/
abbrev Contrib := Nat × Thread

/-- The offset code of SHFL (R145). -/
def shflOff (o : BitVec 7) : Int :=
  if o.getLsbD 6 then (width / 2 ^ (o.extractLsb' 3 3).toNat : Nat) - (o.extractLsb' 0 3).toNat
  else (o.extractLsb' 0 6).toNat

/-- SHFL: the value of the thread at `src`, or the receiver's own (R145). -/
def shflFrom (l : List Contrib) (a : Nat) (th : Thread) (src : Int) : Word :=
  match l.find? fun e => (e.1 : Int) == src with
  | some e => e.2.gr a
  | none => th.gr a

/-- A team mask of the positions `f` selects (R144). -/
def teamMask (l : List Contrib) (f : Thread → Bool) : Word :=
  l.foldl (fun m e => if f e.2 then m ||| BitVec.ofNat 32 (2 ^ e.1) else m) 0

/-- Identities of R147. -/
def teamId : TeamOp → Word
  | .mins => 0x7FFFFFFF
  | .maxs => 0x80000000
  | .minu | .and => 0xFFFFFFFF
  | .fadd => 0x80000000
  | .fmin => 0x7F800000
  | .fmax => 0xFF800000
  | _ => 0

/-- The integer operations of R147. -/
def teamInt (o : TeamOp) (x y : Word) : Word :=
  match o with
  | .add => x + y
  | .mins => if x.toInt ≤ y.toInt then x else y
  | .maxs => if y.toInt ≤ x.toInt then x else y
  | .minu => if x.toNat ≤ y.toNat then x else y
  | .maxu => if y.toNat ≤ x.toNat then x else y
  | .and => x &&& y
  | .or => x ||| y
  | .xor => x ^^^ y
  | _ => x

/-- .FADD: the exact sum of the contributing values, rounded once; a NaN operand, or infinities of both signs, give the
canonical NaN and NV (R147). -/
def teamFadd (mode : Word) (l : List Word) : BF :=
  let rm := noSr (fpRm mode)
  let vs := l.map fun v => fp32.decDaz (fpDaz mode) v.toNat
  match vs with
  | [] => ((teamId .fadd).toNat, 0)
  | v :: r =>
    if vs.any FV.isNan || (vs.contains (.inf true) && vs.contains (.inf false)) then (fp32.qnan, flNV)
    else
      fp32.deliver { rm, sat := false, ftz := fpFtz mode } (r.foldl (fun a b => (a.add (rm == .rdn) b).1) v)

/-- An operation over contributing values; `fill` when a position of the range does not contribute (R144, R147). -/
def teamFold (o : TeamOp) (mode : Word) (l : List Word) (fill : Bool) : BF :=
  match o with
  | .fadd => teamFadd mode l
  | .fmin | .fmax =>
    let start := if fill then (teamId o).toNat else (l.headD (teamId o)).toNat
    l.foldl (fun a v =>
      let (r, f) := fpSelect fp32 (fpDaz mode) (o == .fmax) a.1 v.toNat
      (r, a.2 ||| f)) (start, 0)
  | _ => ((l.foldl (teamInt o) (teamId o)).toNat, 0)

/-- What a team instruction gives the thread at position `p`: a g-register or a predicate, and the flags. -/
inductive TeamOut where
  | g (d : Nat) (v : Word) (fl : Nat)
  | p (q : Nat) (v : Bool)

/-- The result of a team instruction in a contributing thread (R145 to R148). `mode` is the FPMODE of the lowest
contributing position. -/
def teamResult (op : Instr) (mode : Word) (l : List Contrib) (p : Nat) (th : Thread) : TeamOut :=
  let red := fun (d a : Nat) (o : TeamOp) (sel : Nat → Bool) (range : Nat) =>
    let vs := (l.filter fun e => sel e.1).map fun e => e.2.gr a
    let r := teamFold o mode vs (decide (vs.length < range))
    TeamOut.g d (BitVec.ofNat 32 r.1) r.2
  match op with
  | .shflIdx _ d a b => .g d.toNat (shflFrom l a.toNat th (th.gr b.toNat).toNat) 0
  | .shflUp _ d a o => .g d.toNat (shflFrom l a.toNat th (p - shflOff o)) 0
  | .shflDn _ d a o => .g d.toNat (shflFrom l a.toNat th (p + shflOff o)) 0
  | .shflXor _ d a o =>
    .g d.toNat (shflFrom l a.toNat th (if shflOff o < 0 then -1 else ((p ^^^ (shflOff o).toNat : Nat) : Int))) 0
  | .voteAll _ q s => .p q.toNat (l.all fun e => e.2.pr s.toNat)
  | .voteAny _ q s => .p q.toNat (l.any fun e => e.2.pr s.toNat)
  | .ballot _ d s => .g d.toNat (teamMask l fun t => t.pr s.toNat) 0
  | .matchg _ d a => .g d.toNat (teamMask l fun t => t.gr a.toNat == th.gr a.toNat) 0
  | .lred _ d a o => red d.toNat a.toNat o (fun _ => true) width
  | .lscan _ d a e o => if e = 1 then red d.toNat a.toNat o (fun q => decide (q < p)) p
    else red d.toNat a.toNat o (fun q => decide (q ≤ p)) (p + 1)
  | .lstep _ d a h o =>
    let head := ((l.filter fun e => decide (e.1 ≤ p) && e.2.pr h.toNat).map Prod.fst).foldl max 0
    red d.toNat a.toNat o (fun q => decide (head ≤ q) && decide (q ≤ p)) 0
  | .lrank _ d a m =>
    let eq := (l.filter fun e => decide (e.1 < p) && e.2.gr a.toNat == th.gr a.toNat).length
    let lt := (l.filter fun e => decide ((e.2.gr a.toNat).toNat < (th.gr a.toNat).toNat)).length
    .g d.toNat (BitVec.ofNat 32 (if m = 1 then lt + eq else eq)) 0
  | _ => .p 7 false

/-- The flags of a result. -/
def TeamOut.fl : TeamOut → Nat
  | .g _ _ f => f
  | .p _ _ => 0

/-- Writes a result. -/
def TeamOut.put (o : TeamOut) (th : Thread) : Thread :=
  match o with
  | .g d v f => { th.setG d v with fpflags := th.fpflags ||| BitVec.ofNat 32 f }
  | .p q v => th.setP q v

/-- TEAM_INSTANCE_EXECUTE: a complete instance executes as one clean bundle, of threads of any keys (log 86); an enabled floating-point flag withdraws every
arrival and halts the partition (R54, R136, R144, R147). -/
def execTeamInstanceExecute (x c blk team : Nat) (s : State) : Out :=
  let k := (s.ctxAt x).coreAt c
  let live := k.teamLive blk team
  if !s.going x || live.isEmpty || !live.all (fun e => e.2.parkedAt .team) then .next s
  else
    let arr := fun (th : Thread) => th.par.team.getD { op := .illegalInstruction 0, guard := false, fpmode := 0 }
    let sorted := sortBy (fun (a b : Nat × Thread) => decide (a.2.par.tidx < b.2.par.tidx)) live
    let cs := sorted.filter fun e => (arr e.2).guard
    let l : List Contrib := cs.map fun e => (e.2.par.tidx % width, e.2)
    match cs with
    | [] =>
      let k := live.foldl (fun k e => k.setThr e.1 { e.2.past with par := { e.2.past.par with team := none } }) k
      .next (s.modCore x c fun _ => k.newBundle (sorted.map fun e => (e.1, e.2.par.tidx % width)))
    | (slot, first) :: _ =>
      let op := (arr first).op
      let mode := (arr first).fpmode
      let res := cs.map fun e => (e, teamResult op mode l (e.2.par.tidx % width) e.2)
      let en := ((res.foldl (fun f r => f ||| r.2.fl) 0) % 32) &&& fpTrap mode
      if en ≠ 0 then
        let k := live.foldl (fun k e =>
          let th := e.2.pondAt s.clock 0 false
          k.setThr e.1 { th with par := { th.par with team := none, teamN := th.par.teamN - 1 } }) k
        .next ((s.modCore x c fun _ => k).unitTrap x c slot 0 first.pc 0x0E (BitVec.ofNat 64 en))
      else
        let k := res.foldl (fun k r => k.setThr r.1.1 (r.2.put r.1.2)) k
        let k := live.foldl (fun k e =>
          let th := (k.thrAt e.1).past
          k.setThr e.1 { th with par := { th.par with team := none } }) k
        .next (s.modCore x c fun _ => k.newBundle (sorted.map fun e => (e.1, e.2.par.tidx % width)))

/-- SHFL.IDX (R145). -/
def execShflIdx (pg : BitVec 3) (d a b : BitVec 7) (s : State) : Out :=
  teamWord { i := .shflIdx pg d a b, pg, gs := [d.toNat, a.toNat, b.toNat] } s

/-- SHFL.UP (R145). -/
def execShflUp (pg : BitVec 3) (d a o : BitVec 7) (s : State) : Out :=
  teamWord { i := .shflUp pg d a o, pg, gs := [d.toNat, a.toNat] } s

/-- SHFL.DN (R145). -/
def execShflDn (pg : BitVec 3) (d a o : BitVec 7) (s : State) : Out :=
  teamWord { i := .shflDn pg d a o, pg, gs := [d.toNat, a.toNat] } s

/-- SHFL.XOR (R145). -/
def execShflXor (pg : BitVec 3) (d a o : BitVec 7) (s : State) : Out :=
  teamWord { i := .shflXor pg d a o, pg, gs := [d.toNat, a.toNat] } s

/-- VOTE.ALL (R146). -/
def execVoteAll (pg q p : BitVec 3) (s : State) : Out :=
  teamWord { i := .voteAll pg q p, pg, rs := [.p q.toNat, .p p.toNat] } s

/-- VOTE.ANY (R146). -/
def execVoteAny (pg q p : BitVec 3) (s : State) : Out :=
  teamWord { i := .voteAny pg q p, pg, rs := [.p q.toNat, .p p.toNat] } s

/-- BALLOT (R146). -/
def execBallot (pg : BitVec 3) (d : BitVec 7) (p : BitVec 3) (s : State) : Out :=
  teamWord { i := .ballot pg d p, pg, gs := [d.toNat], rs := [.p p.toNat] } s

/-- MATCH (R146). -/
def execMatchg (pg : BitVec 3) (d a : BitVec 7) (s : State) : Out :=
  teamWord { i := .matchg pg d a, pg, gs := [d.toNat, a.toNat] } s

/-- LRED (R147). -/
def execLred (pg : BitVec 3) (d a : BitVec 7) (o : TeamOp) (s : State) : Out :=
  teamWord { i := .lred pg d a o, pg, gs := [d.toNat, a.toNat] } s

/-- LSCAN (R147). -/
def execLscan (pg : BitVec 3) (d a : BitVec 7) (e : BitVec 1) (o : TeamOp) (s : State) : Out :=
  teamWord { i := .lscan pg d a e o, pg, gs := [d.toNat, a.toNat] } s

/-- LSTEP (R148). -/
def execLstep (pg : BitVec 3) (d a : BitVec 7) (h : BitVec 3) (o : TeamOp) (s : State) : Out :=
  teamWord { i := .lstep pg d a h o, pg, gs := [d.toNat, a.toNat], rs := [.p h.toNat] } s

/-- LRANK (R148). -/
def execLrank (pg : BitVec 3) (d a : BitVec 7) (m : BitVec 1) (s : State) : Out :=
  teamWord { i := .lrank pg d a m, pg, gs := [d.toNat, a.toNat] } s

/-! ## Keys, spawning, yielding (R137, R138, R149, R150) -/

/-- KEYGRP (R137, R149). -/
def execKeygrp (pg : BitVec 3) (a : BitVec 7) (s : State) : Out :=
  runWord { i := .keygrp pg a, pg, gs := [a.toNat], onCtl := false } s
    (.next (s.modMe fun th => { th with par := { th.par with key := some (th.gr a.toNat) } }))

/-- SPAWN's status and, when it is 0, the core with the new block, whose threads come after the accesses of `parent` (R138,
R150). -/
def spawnBlock (k : CtxCore) (b : Block) (parent : Nat × Nat) (n : Nat) (target : Dword) (seed : Word) (vals : List Word) (now : Nat) : Nat × CtxCore :=
  if n = 0 ∨ width < n then (1, k)
  else if !canonical target || target.extractLsb' 0 2 != 0 then (2, k)
  else if 64 ≤ k.blocks.length then (3, k)
  else if 1024 < k.threads.length + n || !k.regsFit n b.regs then (4, k)
  else
    let bs := (firstFree k.usedBlks 64 0 1).headD 0
    let bidx := b.bidx ||| 0x80000000
    let nb : Block := { launch := b.launch, bidx, nthr := n, gx := b.gx, gy := b.gy, gz := b.gz, regs := b.regs, spawned := true,
                        parent := some parent }
    (0, k.addBlock bs nb fun i => newThread bs i (target.extractLsb' 0 57) b.regs now vals 0 (startSeed seed bidx i) 0)

/-- SPAWN: it never waits; the accesses of the new block's threads come after the spawning thread's earlier writes (R138,
R150). -/
def execSpawn (pg : BitVec 3) (d a b : BitVec 7) (s : State) : Out :=
  let (x, c, slot) := s.here
  let th := s.me
  runWord { i := .spawn pg d a b, pg, onCtl := false,
            gs := [d.toNat, b.toNat, b.toNat + 1] ++ (List.range 8).map (a.toNat + ·) } s
    (let k := (s.ctxAt x).coreAt c
     let blk := k.blkAt th.par.blk
     let vals := (List.range 8).map fun i => th.gr (a.toNat + i)
     let (r, k') := spawnBlock k blk (slot, (s.ctxAt x).nextId) ((th.gr d.toNat).toNat % 2048) (th.pair b.toNat)
       ((s.ctxAt x).launchAt blk.launch).r.seed vals (s.clock + 1)
     let s' := if r = 0 then ((s.modCore x c fun _ => k').modLaunch x blk.launch fun l => { l with live := l.live + 1 }) else s
     .next (s'.modMe (·.setG d.toNat (BitVec.ofNat 32 r))))

/-- YIELD: the thread enters the pond at its next word; nothing on a control core (R141, R149). -/
def execYield (pg : BitVec 3) (s : State) : Out :=
  runWord { i := .yield pg, pg } s
    (if isCtl s.cur then .next s else .placed (s.modMe fun th => th.past.pondAt s.clock 0 false))

/-- SLEEP; a count that begins after the halt line was asserted begins frozen (R149, R311). -/
def execSleep (pg : BitVec 3) (a : BitVec 7) (s : State) : Out :=
  let n := min (s.me.gr a.toNat).toNat (2 ^ 20)
  runWord { i := .sleep pg a, pg, gs := [a.toNat] } s
    (match s.cur with
     | .ctl m => .next (if n = 0 then s else s.modCtl m fun c => { c with sleep := some (s.clock + n) })
     | .cmp x _ _ =>
       .placed (s.modMe fun th => if n = 0 then th.past.pondAt s.clock 0 false else th.past.park (.sleep (s.bankNow x + n))))

/-! ## Barriers (R151 to R156) -/

/-- BAR (R152, R153). -/
def execBar (pg : BitVec 3) (i : BitVec 4) (p : PScope) (s : State) : Out :=
  let (x, c, _) := s.here
  let bs := s.me.par.blk
  runWord { i := .bar pg i p, pg, onCtl := false } s
    (if s.me.par.barArr.getLsbD i.toNat then .trap 0x21 (i.zeroExtend 64) false
     else if !s.mayPublish (pubNum p) then .hold s
     else
       .placed ((s.modMe fun th => (th.barArrive i.toNat (s.blkOf s.cur).phase).park (.bar i.toNat)).modCore x c fun k =>
         k.barCheck bs i.toNat s.clock))

/-- ARRIVE (R152, R153). -/
def execArrive (pg : BitVec 3) (i : BitVec 4) (p : PScope) (s : State) : Out :=
  let (x, c, _) := s.here
  let bs := s.me.par.blk
  runWord { i := .arrive pg i p, pg, onCtl := false } s
    (if s.me.par.barArr.getLsbD i.toNat then .trap 0x21 (i.zeroExtend 64) false
     else if !s.mayPublish (pubNum p) then .hold s
     else
       .next ((s.modMe fun th => th.barArrive i.toNat (s.blkOf s.cur).phase).modCore x c fun k =>
         k.barCheck bs i.toNat s.clock))

/-- AWAIT (R152). -/
def execAwait (pg : BitVec 3) (i : BitVec 4) (s : State) : Out :=
  let ph := (s.blkOf s.cur).phase
  runWord { i := .await pg i, pg, onCtl := false } s
    (if !s.me.par.barEver.getLsbD i.toNat || s.me.par.barPh.getLsbD i.toNat != ph.getLsbD i.toNat then .next s
     else .placed (s.modMe (·.park (.await i.toNat))))

/-- BARG (R154). -/
def execBarg (pg : BitVec 3) (p : PScope) (a : BitVec 7) (s : State) : Out :=
  let (x, c, _) := s.here
  let n := (s.me.gr a.toNat).toNat % 256
  let blk := s.blkOf s.cur
  runWord { i := .barg pg p a, pg, gs := [a.toNat], onCtl := false } s
    (if grpKind (tget 0 ((s.ctxAt x).launchAt blk.launch).grp n) == 0 || !blk.groups.contains n || s.me.par.barg.isSome then
       .trap 0x21 (BitVec.ofNat 64 (256 + n)) false
     else if !s.mayPublish (pubNum p) then .hold s
     else
       let s' := s.modMe fun th => { th.park (.barg n) with par := { (th.park (.barg n)).par with barg := some n } }
       let s' := if p = .none then s' else s'.modLaunch x blk.launch fun l =>
         { l with bargT := match laterOpt (tfind l.bargT n) (some (s.coreAt (s.physOf x c)).lt) with
             | some t => tput n t l.bargT
             | none => l.bargT }
       .placed (s'.bargCheck x n blk.launch))

/-- SYNCT (R155, R156). -/
def execSynct (pg : BitVec 3) (a : BitVec 7) (s : State) : Out :=
  let (x, c, _) := s.here
  let th := s.me
  let bs := th.par.blk
  let t := th.par.tidx / width
  let mask := th.gr a.toNat
  let cur := tfind (s.blkOf s.cur).synct t
  let inst := cur.getD { mask }
  let put := fun (s : State) (i : Synct) => s.modBlk x c bs fun b => { b with synct := tput t i b.synct }
  runWord { i := .synct pg a, pg, gs := [a.toNat], onCtl := false } s
    (if inst.mask != mask || !mask.getLsbD (th.par.tidx % width) then
       .placed ((put s { inst with broken := true }).trap s.cur 0x21 (BitVec.ofNat 64 (512 + t)))
     else if !s.mayPublish 1 then .hold s
     else .placed (((put s inst).modMe (·.park .synct)).modCore x c fun k => k.synctCheck bs t s.clock))

/-! ## Tickets and event counters (R142, R157 to R159) -/

/-- TICKET: threads of one bundle draw in ascending TIDX (R157). -/
def execTicket (pg : BitVec 3) (d : BitVec 7) (k : BitVec 4) (s : State) : Out :=
  let (x, c, _) := s.here
  let v := tget 0 (s.blkOf s.cur).tickets k.toNat
  runWord { i := .ticket pg d k, pg, gs := [d.toNat], onCtl := false } s
    (if !s.matesFirst then .hold s
     else .next ((s.modBlk x c s.me.par.blk fun b => { b with tickets := tput k.toNat (v + 1) b.tickets }).modMe
       (·.setG d.toNat v)))

/-- The value of EVSET and EVSIG: K, or the register (R158). -/
def evValue (th : Thread) (d : BitVec 7) (r : BitVec 1) (k : BitVec 7) : Word :=
  if r = 1 then th.gr d.toNat else k.zeroExtend 32

/-- The bank without the times of a counter's decrements. -/
def Ctx.dropTimes (k : Ctx) (n : Nat) : Ctx := { k with evT := tdel n k.evT, evE := k.evE.filter fun e => e.1.1 != n }

/-- The time that a completing EVWAIT acquires: of the thread decrements of the counter, and, for a thread of the block that
issued them, of the engine commands that decremented it (R159). -/
def State.evTime (s : State) (x n : Nat) : Option (BitVec 24) :=
  let k := s.ctxAt x
  match s.cur with
  | .ctl _ => tfind k.evT n
  | .cmp _ c _ => laterOpt (tfind k.evT n) (tfind k.evE (n, c, s.me.par.blk))

/-- EVSET (R158). -/
def execEvset (pg : BitVec 3) (d : BitVec 7) (n : BitVec 6) (r : BitVec 1) (k : BitVec 7) (s : State) : Out :=
  workWord { i := .evset pg d n r k, pg, gs := if r = 1 then [d.toNat] else [] } s fun x =>
    .next (s.modCtx x fun c => { c.dropTimes n.toNat with ev := tput n.toNat (evValue s.me d r k) c.ev })

/-- EVSIG: a release at package scope of the thread's earlier writes, then the decrement (R158, R159). -/
def execEvsig (pg : BitVec 3) (d : BitVec 7) (n : BitVec 6) (r : BitVec 1) (k : BitVec 7) (s : State) : Out :=
  workWord { i := .evsig pg d n r k, pg, gs := if r = 1 then [d.toNat] else [] } s fun x =>
    if !s.mayPublish 3 then .hold s
    else
      let t := (s.coreAt (s.phys s.cur)).lt
      .next ((s.modCtx x fun c => { c with evT := match tfind c.evT n.toNat with
        | some u => tput n.toNat (later u t) c.evT
        | none => tput n.toNat t c.evT }).evSub x n.toNat (evValue s.me d r k))

/-- EVWAIT: completes when the counter reads 0, as an acquire of the decrements' releases, and orders for a thread the results
of its block's commands that decremented it (R142, R158, R159). -/
def execEvwait (pg : BitVec 3) (n : BitVec 6) (s : State) : Out :=
  workWord { i := .evwait pg n, pg } s fun x =>
    let c := s.ctxAt x
    let core := s.phys s.cur
    if c.evAt n.toNat != 0 then
      match s.cur with
      | .ctl _ => .wait s (.evwait n.toNat)
      | .cmp _ _ _ => .placed (s.modMe (·.park (.evwait n.toNat)))
    else
      match s.evTime x n.toNat with
      | none => s.done id
      | some t => if s.jumpOk core t then (s.raiseLt core t).done id else .wait s (.evwait n.toNat)

/-- EVREAD (R158). -/
def execEvread (pg : BitVec 3) (d : BitVec 7) (n : BitVec 6) (s : State) : Out :=
  workWord { i := .evread pg d n, pg, gs := [d.toNat] } s fun x =>
    .next (s.modMe (·.setG d.toNat ((s.ctxAt x).evAt n.toNat)))

/-! ## Device-side work (R142, R160, R175) -/

/-- NREC (R160, R175). -/
def execNrec (pg : BitVec 3) (d a b : BitVec 7) (s : State) : Out :=
  let th := s.me
  workWord { i := .nrec pg d a b, pg, gs := [d.toNat, b.toNat] ++ (List.range 8).map (a.toNat + ·) } s fun x =>
    let n := (th.gr b.toNat).toNat % 64
    let u := (s.ctxAt x).binAt n
    let ret := fun (s : State) (v : Nat) => Res.next (s.modMe (·.setG d.toNat (BitVec.ofNat 32 v)))
    if !binOk u.entry then ret s 2
    else if 2 * binCount u.entry ≤ u.recs.length then ret s 1
    else if !s.mayPublish 3 then .hold s
    else
      let rec' := (List.range (binWords u.entry)).map fun i => th.gr (a.toNat + i)
      let t := some (s.coreAt (s.phys s.cur)).lt
      let s' := s.modBin x n fun u => { u with recs := u.recs ++ [rec'], time := laterOpt u.time t,
                                               timer := if u.recs.isEmpty then some (s.bankNow x) else u.timer }
      ret (if u.retry || decide (binCount u.entry ≤ u.recs.length + 1) then (s'.flushBin x n).1 else s') 0

/-- NFLUSH (R160, R175). -/
def execNflush (pg : BitVec 3) (d b : BitVec 7) (s : State) : Out :=
  let th := s.me
  workWord { i := .nflush pg d b, pg, gs := [d.toNat, b.toNat] } s fun x =>
    let n := (th.gr b.toNat).toNat % 64
    let u := (s.ctxAt x).binAt n
    let ret := fun (s : State) (v : Nat) => Res.next (s.modMe (·.setG d.toNat (BitVec.ofNat 32 v)))
    if !binOk u.entry then ret s 2
    else if u.recs.isEmpty then ret s 0
    else
      let (s', ok) := s.flushBin x n
      ret s' (if ok then 0 else 1)

/-- LAUNCH: status 2 for a bad address; else the word that holds QUEUE is read as an LD.64 of the thread, once the thread's
earlier writes are released, and the record enters its queue (R160). -/
def execLaunch (pg : BitVec 3) (d a : BitVec 7) (s : State) : Out :=
  let th := s.me
  let i := Instr.launch pg d a
  let addr := th.pair a.toNat
  let ret := fun (s : State) (v : Nat) => Res.next (s.modMe (·.setG d.toNat (BitVec.ofNat 32 v)))
  workWord { i, pg, gs := [d.toNat, a.toNat, a.toNat + 1] } s fun x =>
    if !canonical addr || addr.extractLsb' 0 6 != 0 then ret s 2
    else if !s.mayPublish 3 || s.acqPending s.cur then .hold s
    else
      match s.cur with
      | .cmp _ _ _ => s.issueAccess x (s.newAccess i (addr + 16) 8 []) id
      | .ctl n =>
        match s.xThread s.cur (xreqOf i) (addr + 16) with
        | (.ok s pa cc ac, via) =>
          match s.ctlRead n (addr + 16) pa cc via ac 0 8 with
          | (s, none) => .hold s
          | (s, some b) =>
            let (s, r) := s.launchNow x (s.phys s.cur) addr b
            ret s r
        | (.wait s, _) => .hold s
        | (.trap c, _) => .trap c (addr + 16) false
        | (.flt _ _ _, _) => .trap 0x06 (addr + 16) false

/-! ## Message rings (R161 to R163) -/

/-- The block of a launch with a BIDX: core and slot. -/
def Ctx.blockOf (k : Ctx) (l : Nat) (bidx : Word) : Option (Nat × Nat) :=
  k.cores.findSome? fun e => (e.2.blocks.find? fun b => b.2.launch == l && b.2.bidx == bidx).map fun b => (e.1, b.1)

/-- Endpoint fields of SEND (R162). -/
def dstBidx (g : Dword) : Word := g.extractLsb' 0 32
/-- The package of an endpoint. -/
def dstPkg (g : Dword) : BitVec 8 := g.extractLsb' 56 8
/-- The ring of an endpoint. -/
def dstRing (g : Dword) : Nat := (g.extractLsb' 32 2).toNat

/-- The cores of a bank's partition lie on more than one die (R1). -/
def State.spansDies (s : State) (x : Nat) : Bool :=
  match (s.partAt (x / 2)).cfg with
  | some g => g.first / 128 != (g.first + g.count - 1) / 128
  | none => false

/-- The narrowest scope that holds the sender, of block slot `bs` of core `c`, and the receiver; a receiver that is not resident may be
placed on any core of the partition before the message arrives (R162, R217, log 90). -/
def State.sendScope (s : State) (x c bs l : Nat) (dst : Dword) : Nat :=
  if dstPkg dst != Config.pkg then 4
  else
    match (s.ctxAt x).blockOf l (dstBidx dst) with
    | none => if s.spansDies x then 3 else 2
    | some (rc, rb) => if rc = c ∧ rb = bs then 1 else if s.dieOf x rc = s.dieOf x c then 2 else 3

/-- SEND: a release at the narrowest scope that holds both parties, then the message is on its way; gd is written at its
acknowledgement (R162). -/
def execSend (pg : BitVec 3) (d a b : BitVec 7) (s : State) : Out :=
  let (x, c, slot) := s.here
  let th := s.me
  let dst := th.pair b.toNat
  let l := (s.blkOf s.cur).launch
  runWord { i := .send pg d a b, pg, onCtl := false,
            gs := [d.toNat, b.toNat, b.toNat + 1] ++ (List.range 4).map (a.toNat + ·) } s
    (if !s.mayPublish (s.sendScope x c th.par.blk l dst) then .hold s
     else
       let m : RMsg := { core := c, slot, gd := d.toNat, launch := l, dst,
                         words := (List.range 4).map fun i => th.gr (a.toNat + i), time := some (s.coreAt (s.physOf x c)).lt }
       .next ((s.modCtx x fun k => { k with msgs := tput k.nextId m k.msgs, nextId := k.nextId + 1 }).modMe
         (·.hang [.g d.toNat])))

/-- TAIL − HEAD of a ring whose header is resident, as the header holds them (R163). -/
def State.ringFill (s : State) (x c bs h : Nat) : Word :=
  BitVec.ofNat 32 (leVal (s.spRead x c bs h 4)) - BitVec.ofNat 32 (leVal (s.spRead x c bs (h + 4) 4))

/-- A word on a ring of the executing block: the ring-configuration trap, a wait for the header's page, as `no` says, or `f` (R163). -/
def ringWord (w : W) (s : State) (a : BitVec 7) (f : State → Nat → Ring → Word → Res) (no : State → Res := .hold) : Out :=
  let (x, c, _) := s.here
  let bs := s.me.par.blk
  let n := (s.me.gr a.toNat).toNat % 4
  runWord { w with onCtl := false } s
    (match tfind (s.blkOf s.cur).rings n with
     | none => .trap 0x26 (BitVec.ofNat 64 n) false
     | some g =>
       if !s.spHere x c bs g.h 16 then no (s.wantPage x c bs (g.h / pageSize))
       else f (s.spTouch x c bs g.h) n g (s.ringFill x c bs g.h))

/-- Acquires the SENDs whose messages a read of TAIL covers: every message appended so far; where the core's time may not jump yet, it
waits, as `no` says (R163, R232). -/
def State.ringAcquire (s : State) (g : Ring) (f : State → Res) (no : State → Res := .hold) : Res :=
  match g.time with
  | none => f s
  | some t => if s.jumpOk (s.phys s.cur) t then f (s.raiseLt (s.phys s.cur) t) else no s

/-- RPOLL (R163). -/
def execRpoll (pg : BitVec 3) (d a : BitVec 7) (s : State) : Out :=
  ringWord { i := .rpoll pg d a, pg, gs := [d.toNat, a.toNat] } s a fun s _ g v =>
    s.ringAcquire g fun s => .next (s.modMe (·.setG d.toNat v))

/-- RWAIT: parks until the ring holds a message; a wait for the ring's page is its own too (R95, R163). -/
def execRwait (pg : BitVec 3) (d a : BitVec 7) (s : State) : Out :=
  let no := fun (s : State) => Res.wait s .rwait
  ringWord { i := .rwait pg d a, pg, gs := [d.toNat, a.toNat] } s a (fun s _ g v =>
    if v = 0 then .placed (s.modMe (·.park .rwait))
    else s.ringAcquire g (fun s => s.done (·.setG d.toNat v)) no) no

/-- RADV (R163). -/
def execRadv (pg : BitVec 3) (d a b : BitVec 7) (s : State) : Out :=
  let (x, c, _) := s.here
  let bs := s.me.par.blk
  ringWord { i := .radv pg d a b, pg, gs := [d.toNat, a.toNat, b.toNat] } s a fun s _ g v =>
    let n := if (s.me.gr b.toNat).toNat ≤ v.toNat then s.me.gr b.toNat else v
    let head := BitVec.ofNat 32 (leVal (s.spRead x c bs (g.h + 4) 4)) + n
    .next ((s.spWrite x c bs (g.h + 4) (leBytes head.toNat 4)).modMe (·.setG d.toNat n))

/-- The state with a message's status known. -/
def State.answerMsg (s : State) (x id : Nat) (v : Nat) : State :=
  s.modCtx x fun k => match tfind k.msgs id with
    | some m => { k with msgs := tput id { m with status := some v } k.msgs }
    | none => k

/-- The latest time of a write applied to a line of the package: what a message from another package, whose sender's writes
here have been applied, acquires (R342). -/
def State.latest (s : State) (t : BitVec 24) : BitVec 24 := s.coh.l2.foldl (fun u e => later u e.2.wts) t

/-- RING_APPEND: the network interface appends a message that has arrived, or refuses it; messages of one thread to one
ring in program order. It waits for the ring's pages (R161, R162). A message from another package is appended as a local one
(R342); another package's answer is not stated. -/
def execRingAppend (id : Nat) (s : State) : Out :=
  let go := fun (x : Nat) (m : RMsg) =>
    let k := s.ctxAt x
    if k.msgs.any fun e => decide (e.1 < id) && e.2.status.isNone && e.2.src == m.src && e.2.core == m.core && e.2.slot == m.slot &&
        e.2.dst == m.dst then
      s
    else if m.dst.extractLsb' 34 22 != 0 then s.answerMsg x id 2
    else if dstPkg m.dst != Config.pkg then
      if Config.remote (dstPkg m.dst).toNat k.root.sid.toNat then
        let (v, s) := s.takeFree
        s.answerMsg x id (v.toNat % 4)
      else s.answerMsg x id 2
    else
      match k.blockOf m.launch (dstBidx m.dst) with
      | none =>
        let la := k.launchAt m.launch
        s.answerMsg x id (if decide ((dstBidx m.dst).toNat < la.next) || la.gone.contains (dstBidx m.dst) then 3 else 2)
      | some (c, bs) =>
        let b := (k.coreAt c).blkAt bs
        match tfind b.rings (dstRing m.dst) with
        | none => s.answerMsg x id 2
        | some g =>
          let at' := g.h + 16 + 16 * (g.tail.toNat % 2 ^ g.l)
          if ((k.coreAt c).liveOf bs).isEmpty then s.answerMsg x id 3
          else if !s.spHere x c bs g.h 16 then s.wantPage x c bs (g.h / pageSize)
          else
            let head := BitVec.ofNat 32 (leVal (s.spRead x c bs (g.h + 4) 4))
            if 2 ^ g.l ≤ (g.tail - head).toNat then (s.spTouch x c bs g.h).answerMsg x id 1
            else if !s.spHere x c bs at' 16 then s.wantPage x c bs (at' / pageSize)
            else
              let s := s.spWrite x c bs at' (wordsBytes m.words)
              let s := s.spWrite x c bs g.h (leBytes (g.tail + 1).toNat 4)
              let t := if m.src.isSome then some (s.latest (s.coreAt (s.physOf x c)).lt) else m.time
              let s := s.modBlk x c bs fun b =>
                { b with rings := tput (dstRing m.dst) { g with tail := g.tail + 1, time := laterOpt g.time t } b.rings }
              s.answerMsg x id 0
  match s.ctxs.find? fun e => match tfind e.2.msgs id with
      | some m => m.status.isNone
      | none => false with
  | some e => .next (match tfind e.2.msgs id with
    | some m => if (s.ctxAt e.1).halt.isSome then s else go e.1 m
    | none => s)
  | none => .next s

/-- SEND_ACKNOWLEDGEMENT: the status of a message returns to gd (R162), of one from another package to that package
(R342). -/
def execSendAcknowledgement (id : Nat) (s : State) : Out :=
  match s.ctxs.find? fun e => match tfind e.2.msgs id with
      | some m => m.status.isSome
      | none => false with
  | some e => .next (match tfind e.2.msgs id with
    | some m =>
      let s := s.modCtx e.1 fun k => { k with msgs := tdel id k.msgs }
      if m.src.isSome then s else s.modThr (.cmp e.1 m.core m.slot) (·.land m.gd [BitVec.ofNat 32 (m.status.getD 0)])
    | none => s)
  | none => .next s

end Sys2Proof.Machine
end

