-- ==== Sys2Proof/Machine/Tensor.lean ====
section
/-! DEFINITION. Sys2Proof/Machine/Tensor.lean: tensor descriptors, their extents, elements, rows and steps, and the
conversion of elements (R30 to R50, R257 to R260, R263, R270, R282). -/

namespace Sys2Proof.Machine

/-! ## Descriptors (R257 to R259) -/

/-- A descriptor's fields (R257); addresses are 64-bit, sizes and strides listed from dimension 0, STRIDE0 as 0. -/
structure Desc where
  zr     : Nat
  valid  : Bool
  space  : Bool
  rank   : Nat
  fmt    : Nat
  base   : Nat
  sbase  : Nat
  pbase  : Nat
  size   : List Nat
  stride : List Nat

/-- A 57-bit address field, sign-extended to 64 bits (R11). -/
def sext57 (n : Nat) : Nat := if n < 2 ^ 56 then n else n + (2 ^ 64 - 2 ^ 57)

/-- The fields of a descriptor (R257). -/
def Desc.of (b : BitVec 512) : Desc where
  zr     := (b.extractLsb' 500 12).toNat
  valid  := b.getLsbD 499
  space  := b.getLsbD 498
  rank   := (b.extractLsb' 495 3).toNat
  fmt    := (b.extractLsb' 491 4).toNat
  base   := sext57 (b.extractLsb' 434 57).toNat
  sbase  := sext57 (b.extractLsb' 377 57).toNat
  pbase  := sext57 (b.extractLsb' 320 57).toNat
  size   := (List.range 5).map fun d => (b.extractLsb' (160 + 32 * d) 32).toNat
  stride := 0 :: (List.range 4).map fun d => (b.extractLsb' (40 * d) 40).toNat

/-- Bits of an element of a format (R258). -/
def fmtBits : Nat → Nat
  | 0x0 | 0x1 | 0x8 | 0x9 => 8
  | 0x2 | 0x4 | 0x5 => 16
  | 0x3 | 0x6 => 32
  | 0x7 | 0xB => 64
  | _ => 4

/-- SIZEd. -/
def Desc.sz (D : Desc) (d : Nat) : Nat := D.size.getD d 0

/-- SIZEd, 1 for a dimension the descriptor does not have. -/
def Desc.dim (D : Desc) (d : Nat) : Nat := max 1 (D.sz d)

/-- Bits of an element. -/
def Desc.bits (D : Desc) : Nat := fmtBits D.fmt

/-- Bytes an element takes, at least 1. -/
def Desc.bytes (D : Desc) : Nat := max 1 (D.bits / 8)

/-- The descriptor is well formed (R259). -/
def Desc.ok (D : Desc) : Bool :=
  D.valid && D.zr == 0 && decide (D.fmt ≤ 0xC) && decide (1 ≤ D.rank) && decide (D.rank ≤ 5) &&
  ((List.range 5).all fun d => if d < D.rank then decide (1 ≤ D.sz d) else D.sz d == 0 && D.stride.getD d 0 == 0) &&
  D.base % D.bytes == 0 && (D.stride.all fun t => t % D.bytes == 0) &&
  (D.bits != 4 || D.sz 0 % 8 == 0) && (D.sbase == 0 || D.fmt == 0xA) &&
  (!D.space || [D.base, D.sbase, D.pbase].all fun a => decide (a < 2 ^ 20))

/-- The number of rows (R258). -/
def Desc.rows (D : Desc) : Nat := D.dim 1 * D.dim 2 * D.dim 3 * D.dim 4

/-- The number of elements. -/
def Desc.count (D : Desc) : Nat := D.sz 0 * D.rows

/-- The address of a row's first element (R258). -/
def Desc.rowAddr (D : Desc) (r : Nat) : Nat :=
  let st := fun d => D.stride.getD d 0
  D.base + r % D.dim 1 * st 1 + r / D.dim 1 % D.dim 2 * st 2 + r / D.dim 1 / D.dim 2 % D.dim 3 * st 3 +
    r / D.dim 1 / D.dim 2 / D.dim 3 * st 4

/-- The place of element `n` in linear order, in half bytes (R258). -/
def Desc.pos (D : Desc) (n : Nat) : Nat := 2 * D.rowAddr (n / D.dim 0) + n % D.dim 0 * (D.bits / 4)

/-- The iteration vector of element `n` (R265). -/
def Desc.index (D : Desc) (n : Nat) : List Nat :=
  [n % D.dim 0, n / D.dim 0 % D.dim 1, n / D.dim 0 / D.dim 1 % D.dim 2, n / D.dim 0 / D.dim 1 / D.dim 2 % D.dim 3,
   n / D.dim 0 / D.dim 1 / D.dim 2 / D.dim 3]

/-- Bytes of block scales of a BX4 tensor (R36). -/
def Desc.scaleBytes (D : Desc) : Nat := D.rows * (D.sz 0 / 8)

/-- The address of a band's scale (R36). -/
def Desc.bandAddr (D : Desc) (band : Nat) : Nat := (D.sbase + D.scaleBytes + 63) / 64 * 64 + 2 * band

/-- The byte ranges of the extent, first and last (R259). -/
def Desc.extent (D : Desc) : List (Nat × Nat) :=
  let last := D.base + ((List.range 4).map fun d => (D.dim (d + 1) - 1) * D.stride.getD (d + 1) 0).sum +
    (D.sz 0 * D.bits + 7) / 8 - 1
  (D.base, last) ::
    (if D.fmt = 0xA then [(D.sbase, D.sbase + D.scaleBytes - 1), (D.bandAddr 0, D.bandAddr ((D.rows + 63) / 64) - 1)] else []) ++
    (if D.pbase = 0 then [] else [(D.pbase, D.pbase + (D.rows + 7) / 8 - 1)])

/-- Every range lies below the block's quota, or within one half of the canonical addresses (R260 check 2). -/
def Desc.within (D : Desc) (spq : Nat) : Bool :=
  D.extent.all fun r =>
    if D.space then decide (r.2 < spq * pageSize)
    else (r.1 / 2 ^ 56 == 0 || r.1 / 2 ^ 56 == 0xFF) && r.1 / 2 ^ 56 == r.2 / 2 ^ 56

/-! ## What a step touches (R260, R268) -/

/-- A byte range of an operand that a step reads or writes: operand, space, first and last byte. -/
structure Rg where
  op : Nat
  sp : Bool
  lo : Nat
  hi : Nat
  wr : Bool

/-- A step of a command: the elements, rows, K positions or key tile it covers, the column tile, whether it only clears,
its iteration vector, and the ranges it touches. -/
structure Stp where
  n0    : Nat
  n1    : Nat
  tile  : Nat := 0
  acc   : Nat := 0
  clear : Bool := false
  iv    : List Nat
  rgs   : List Rg

/-- The scratchpad pages of some ranges, without repeats. -/
def pagesOf (l : List Rg) : List Nat :=
  ((l.filter (·.sp)).flatMap fun r => (List.range (r.hi / pageSize - r.lo / pageSize + 1)).map (r.lo / pageSize + ·)).eraseDups

/-- The scratchpad pages a step touches. -/
def Stp.pages (t : Stp) : List Nat := pagesOf t.rgs

/-- The scratchpad pages a step writes. -/
def Stp.wpages (t : Stp) : List Nat := pagesOf (t.rgs.filter (·.wr))

/-- A global page a step touches (R209, R211): its number, the lowest address touched in it, and whether the step reads
and writes it. -/
structure GPage where
  pg : Nat
  at' : Nat
  rd : Bool
  wr : Bool

/-- The list of pages with a touch added. -/
def addPage (pg a : Nat) (w : Bool) : List GPage → List GPage
  | [] => [⟨pg, a, !w, w⟩]
  | e :: r => if e.pg = pg then ⟨pg, min a e.at', e.rd || !w, e.wr || w⟩ :: r else e :: addPage pg a w r

/-- The global pages of a step. -/
def Stp.gpages (t : Stp) : List GPage :=
  (t.rgs.filter (!·.sp)).foldl (fun l r =>
    (List.range (r.hi / 4096 - r.lo / 4096 + 1)).foldl (fun l i =>
      let pg := r.lo / 4096 + i
      addPage pg (max r.lo (pg * 4096)) r.wr l) l) []

/-- The poison-map bytes of rows `r0` to `r1`. -/
def Desc.mapRgs (op : Nat) (D : Desc) (wr : Bool) (r0 r1 : Nat) : List Rg :=
  if D.pbase = 0 then [] else [{ op, sp := D.space, lo := D.pbase + r0 / 8, hi := D.pbase + r1 / 8, wr }]

/-- The element bytes `n0` to `n1 - 1`, all in one row. -/
def Desc.elemRg (op : Nat) (D : Desc) (wr : Bool) (n0 n1 : Nat) : Rg :=
  { op, sp := D.space, lo := D.pos n0 / 2, hi := D.pos (n1 - 1) / 2 + D.bytes - 1, wr }

/-- The bytes of elements `n0` to `n1 - 1` row by row. -/
def Desc.elemRgs (op : Nat) (D : Desc) (wr : Bool) (n0 n1 : Nat) : List Rg :=
  let s0 := D.dim 0
  (List.range ((n1 - 1) / s0 - n0 / s0 + 1)).map fun i =>
    let r := n0 / s0 + i
    D.elemRg op wr (max n0 (r * s0)) (min n1 (r * s0 + s0))

/-- The bands whose first element is one of `n0` to `n1 - 1`. -/
def Desc.newBands (D : Desc) (n0 n1 : Nat) : List Nat :=
  (List.range ((n1 - 1) / (64 * D.dim 0) + 1)).filter fun b => decide (n0 ≤ b * 64 * D.dim 0)

/-- Block and band scales of elements `n0` to `n1 - 1` of a BX4 operand: a reader touches each band's, a writer those of
the bands it begins (R36, R282). -/
def Desc.scaleRgs (op : Nat) (D : Desc) (wr : Bool) (n0 n1 : Nat) : List Rg :=
  if D.fmt != 0xA then []
  else
    let s0 := D.dim 0
    let bands := if wr then D.newBands n0 n1
      else (List.range ((n1 - 1) / s0 / 64 - n0 / s0 / 64 + 1)).map (n0 / s0 / 64 + ·)
    { op, sp := D.space, lo := D.sbase + n0 / 8, hi := D.sbase + (n1 - 1) / 8, wr } ::
      bands.map fun b => { op, sp := D.space, lo := D.bandAddr b, hi := D.bandAddr b + 1, wr }

/-- Everything of an operand that belongs to elements `n0` to `n1 - 1`. -/
def Desc.rgs (op : Nat) (D : Desc) (wr : Bool) (n0 n1 : Nat) : List Rg :=
  D.elemRgs op wr n0 n1 ++ D.scaleRgs op wr n0 n1 ++ D.mapRgs op wr (n0 / D.dim 0) ((n1 - 1) / D.dim 0)

/-! ## The cut of copy and chain steps (R263) -/

/-- Element `n` follows on from the one before it in every operand. -/
def follows (ds : List Desc) (n : Nat) : Bool := ds.all fun D => D.pos n == D.pos (n - 1) + D.bits / 4

/-- The runs of elements from `i`, the present one beginning at `first`: elements still to cut, limit in elements. -/
def cutGo (ds : List Desc) (lim : Nat) : Nat → Nat → Nat → List (Nat × Nat)
  | 0, first, i => if first < i then [(first, i)] else []
  | k + 1, first, i =>
    if first < i ∧ (lim ≤ i - first ∨ !follows ds i) then (first, i) :: cutGo ds lim k i (i + 1)
    else cutGo ds lim k first (i + 1)

/-- The runs of the elements of a command: destination first, limit in elements (R263). -/
def cut (ds : List Desc) (lim n : Nat) : List (Nat × Nat) := cutGo ds lim n 0 0

/-! ## Elements read (R30, R31, R34, R37, R40) -/

/-- OVF of the cause mask (R49). -/
def cOVF : Nat := 1
/-- INV. -/
def cINV : Nat := 2
/-- META. -/
def cMETA : Nat := 4
/-- SCALE. -/
def cSCALE : Nat := 8
/-- LOST. -/
def cLOST : Nat := 16

/-- What a step reads from: the state, the command's bank, core and block, and the global pages translated. -/
structure Env where
  s   : State
  x   : Nat
  c   : Nat
  blk : Nat
  pm  : Tab Nat Nat := []

/-- A byte an engine reads: the block's scratchpad, global memory at its point of application, or another package's memory
(R266, R337, R340). -/
def Env.byte (e : Env) (sp : Bool) (a : Nat) : Byte :=
  if sp then e.s.spByte e.x e.c e.blk a
  else
    match tfind e.pm (a / 4096) with
    | some p =>
      if regionOf p == some .herbor then e.s.farByte (p + a % 4096) else e.s.curByte (p + a % 4096)
    | none => 0

/-- The little-endian value of `n` bytes. -/
def Env.le (e : Env) (sp : Bool) (a : Nat) : Nat → Nat
  | 0 => 0
  | n + 1 => (e.byte sp a).toNat + 256 * e.le sp (a + 1) n

/-- The bits of element `n`. -/
def Env.elem (e : Env) (D : Desc) (n : Nat) : Nat :=
  if D.bits = 4 then (e.byte D.space (D.pos n / 2)).toNat / (if D.pos n % 2 = 0 then 1 else 16) % 16
  else e.le D.space (D.pos n / 2) D.bytes

/-- The poison bit of a row; false without a map (R50). -/
def Env.poison (e : Env) (D : Desc) (r : Nat) : Bool :=
  D.pbase != 0 && (e.byte D.space (D.pbase + r / 8)).getLsbD (r % 8)

/-- The exact value of an element's bits, and INV for a bad FA56 image, which reads as +0 (R40, R56). -/
def elemVal (fmt bits : Nat) : FV × Nat :=
  let int := fun (w : Nat) => FV.ofInt (if bits < 2 ^ (w - 1) then bits else (bits : Int) - 2 ^ w)
  match fmt with
  | 0x0 => (int 8, 0)
  | 0x1 => (FV.ofInt bits, 0)
  | 0x2 => (int 16, 0)
  | 0x3 => (int 32, 0)
  | 0x4 => (fp16.dec bits, 0)
  | 0x5 => (bf16.dec bits, 0)
  | 0x6 => (fp32.dec bits, 0)
  | 0x7 => (fp64.dec bits, 0)
  | 0x8 => (e4m3.dec bits, 0)
  | 0x9 => (e5m2.dec bits, 0)
  | 0xB => if bits < 2 ^ 56 then (fa56.dec bits, 0) else (.fin false 0 0, cINV)
  | _ => (e2m1.dec bits, 0)

/-- The exact value of element `n`; a BX4 element with its scales, and SCALE where the band's is a NaN or an infinity,
which reads as 0 (R37). -/
def Env.val (e : Env) (D : Desc) (n : Nat) : FV × Nat :=
  if D.fmt = 0xA then
    match bf16.dec (e.le D.space (D.bandAddr (n / D.dim 0 / 64)) 2) with
    | .fin neg m g => (bx4Value (e.elem D n) (e.byte D.space (D.sbase + n / 8)).toNat neg m g, 0)
    | _ => (.fin false 0 0, cSCALE)
  else elemVal D.fmt (e.elem D n)

/-! ## Elements written (R35, R38, R50, R282) -/

/-- A write: space, address, mask of the bits written, their value. -/
abbrev EW := Bool × Nat × Byte × Byte

/-- Whole bytes written. -/
def Desc.wrBytes (D : Desc) (a : Nat) (b : List Byte) : List EW := b.zipIdx.map fun x => (D.space, a + x.2, 0xFF, x.1)

/-- Element `n` written. -/
def Desc.wrElem (D : Desc) (n bits : Nat) : List EW :=
  if D.bits = 4 then
    if D.pos n % 2 = 0 then [(D.space, D.pos n / 2, 0x0F, BitVec.ofNat 8 (bits % 16))]
    else [(D.space, D.pos n / 2, 0xF0, BitVec.ofNat 8 (bits % 16 * 16))]
  else D.wrBytes (D.pos n / 2) (leBytes bits D.bytes)

/-- The poison bit of a row set, where there is a map (R50). -/
def Desc.wrPoison (D : Desc) (r : Nat) : List EW :=
  if D.pbase = 0 then [] else [(D.space, D.pbase + r / 8, BitVec.ofNat 8 (2 ^ (r % 8)), 0xFF)]

/-- A destination format that takes stochastic rounding (R45). -/
def srFmt (fmt : Nat) : Bool := [0x4, 0x5, 0x8, 0x9, 0xA].contains fmt

/-- An integer format's range. -/
def intRange : Nat → Int × Int
  | 0x0 => (-128, 127)
  | 0x1 => (0, 255)
  | 0x2 => (-32768, 32767)
  | _ => (-2147483648, 2147483647)

/-- A value rounded to an integer format and clamped; a clamp records OVF, a NaN gives 0 and records INV (R282). -/
def storeInt (fmt : Nat) (rm : RM) (v : FV) : Nat × Nat :=
  let (lo, hi) := intRange fmt
  let code := fun (k : Int) => (k % 2 ^ fmtBits fmt).toNat
  match v with
  | .nan _ => (0, cINV)
  | .inf s => (code (if s then lo else hi), cOVF)
  | .fin s n e =>
    let k := (toIntegral rm s n e).1
    if hi < k then (code hi, cOVF) else if k < lo then (code lo, cOVF) else (code k, 0)

/-- A value written to a format other than BX4 and FA56 images: its code and causes (R282). -/
def storeVal (fmt : Nat) (rm : RM) (draw : Nat) (v : FV) : Nat × Nat :=
  let narrow := fun (f : Fmt) => let r := f.narrow rm draw v; (r.code, (if r.ovf then cOVF else 0) ||| (if r.inv then cINV else 0))
  let ieee := fun (f : Fmt) (rm : RM) => ((f.deliver { rm, draw } v).1, 0)
  match fmt with
  | 0x4 => ieee fp16 rm
  | 0x5 => ieee bf16 rm
  | 0x6 => ieee fp32 (noSr rm)
  | 0x7 => ieee fp64 (noSr rm)
  | 0x8 => narrow e4m3
  | 0x9 => narrow e5m2
  | 0xC => let r := e2m1.narrow (noSr rm) draw v; (r.code, (if r.ovf then cOVF else 0) ||| (if r.inv then cINV else 0))
  | f => storeInt f rm v

/-- What the elements of a step became: writes, rows with their causes, and generator and band exponent after them. -/
structure Emit where
  ws   : List EW := []
  rec' : List (Nat × Nat) := []
  gen  : Word
  band : Int

/-- One element: SR draws once for it, whether or not the draw is used (R48). -/
def Emit.one (q : Emit) (D : Desc) (sr : Bool) (n : Nat) (src : Nat) (r : Nat × Nat) : Emit :=
  let c := src ||| r.2
  { q with ws := q.ws ++ D.wrElem n r.1, rec' := if c = 0 then q.rec' else q.rec' ++ [(n / D.dim 0, c)],
           gen := if sr then srNext q.gen else q.gen }

/-- The largest finite magnitude of band `b` of a destination (R38). -/
def bandMax (D : Desc) (b : Nat) (src : Nat → FV × Nat) : Nat × Int :=
  let lo := b * 64 * D.dim 0
  let hi := min D.count (lo + 64 * D.dim 0)
  largest ((List.range (hi - lo)).map fun i => (src (lo + i)).1)

/-- The BX4 block whose first element is `n`, and its band scale when it begins a band (R38, R282). -/
def Emit.block (q : Emit) (D : Desc) (rm : RM) (n : Nat) (src : Nat → FV × Nat) : Emit :=
  let b := n / D.dim 0 / 64
  let q := if n = b * 64 * D.dim 0 then
      let m := bandMax D b src
      let k := bandExp m.1 m.2
      { q with band := k, ws := q.ws ++ D.wrBytes (D.bandAddr b) (leBytes (bf16Pow k) 2) }
    else q
  let vs := (List.range 8).map fun i => (src (n + i)).1
  let sc := blockScale vs 1 q.band
  let q := { q with ws := q.ws ++ D.wrBytes (D.sbase + n / 8) [BitVec.ofNat 8 sc] }
  (List.range 8).foldl (fun q i =>
    let x := src (n + i)
    let r := quantElem x.1 sc 1 q.band rm (srDraw q.gen)
    q.one D (rm = .sr) (n + i) x.2 (r.code, (if r.ovf then cOVF else 0) ||| (if r.inv then cINV else 0))) q

/-- Elements `n0` to `n1 - 1` of a destination, from a function that gives each one's exact value and causes (R38, R48,
R282). -/
def emit (D : Desc) (rm : RM) (gen : Word) (band : Int) (src : Nat → FV × Nat) (n0 n1 : Nat) : Emit :=
  let sr := rm = .sr ∧ srFmt D.fmt = true
  if D.fmt = 0xA then
    (List.range ((n1 - n0) / 8)).foldl (fun q i => q.block D rm (n0 + 8 * i) src) { gen, band }
  else
    (List.range (n1 - n0)).foldl (fun q i =>
      let n := n0 + i
      let x := src n
      q.one D sr n x.2 (storeVal D.fmt (if srFmt D.fmt then rm else noSr rm) (srDraw q.gen) x.1)) { gen, band }

/-- The cause mask of some rows' causes. -/
def causes (l : List (Nat × Nat)) : Nat := l.foldl (fun m e => m ||| e.2) 0

/-- Recording OVF and INV: the rows' bits in the map, or NSAT and NNAN without one (R35, R50). -/
def Desc.record (D : Desc) (l : List (Nat × Nat)) : List EW × Nat :=
  if D.pbase = 0 then
    ([], (if causes l &&& cOVF = 0 then 0 else flNSAT) ||| (if causes l &&& cINV = 0 then 0 else flNNAN))
  else ((l.map Prod.fst).eraseDups.flatMap D.wrPoison, 0)

end Sys2Proof.Machine
end

