-- ==== Sys2Proof/Machine/Command.lean ====
section
/-! DEFINITION. Sys2Proof/Machine/Command.lean: engine instructions at issue: descriptors, commands with their checks,
steps and queues, copy batches, accumulator cells and owners (R257 to R300). -/

namespace Sys2Proof.Machine

/-! ## Reduction and column tiles (R42, R270, R284, R287, R288) -/

/-- Products in a group of the reduction (R42, R44). -/
def groupLen : Nat → Nat
  | 0x4 | 0x5 => 32
  | 0xA => 128
  | 0x7 => 4
  | _ => 64

/-- The instruction is MMAB, whose dimension 2 is the batch (R287). -/
def isMmab : Instr → Bool
  | .mmab _ _ _ _ => true
  | _ => false

/-- The instruction is MMAM (R288). -/
def isMmam : Instr → Bool
  | .mmam _ _ _ _ => true
  | _ => false

/-- The instruction is MMAZ (R285). -/
def isMmaz : Instr → Bool
  | .mmaz _ _ _ _ => true
  | _ => false

/-- The instruction is MMAS (R286). -/
def isMmas : Instr → Bool
  | .mmas _ _ _ _ => true
  | _ => false

/-- The accumulator a command names first. -/
def accOfOp : Instr → Nat
  | .mma _ _ _ n | .mmas _ _ _ n | .mmab _ _ _ n | .mmam _ _ _ n | .mmaz _ _ _ n | .dmma _ _ _ n => n.toNat
  | .accz _ n | .accld _ _ n | .accst _ _ n => n.toNat
  | _ => 0

/-- Dimension 2 of a matrix operand as the reduction sees it: the batch dimension of an MMAB is no part of it. -/
def redDim2 (op : Instr) (D : Desc) : Nat := if isMmab op then 1 else D.dim 2

/-- The reduction length K: of B, whose K positions are dense (R270, R284). -/
def redLen (op : Instr) (B : Desc) : Nat := B.dim 0 * redDim2 op B * B.dim 3 * B.dim 4

/-- The row number that holds element `i` of dimension 1 at K positions `q * SIZE0` on, for batch `b` of an MMAB. -/
def matRow (op : Instr) (D : Desc) (i b q : Nat) : Nat :=
  if isMmab op then i + D.dim 1 * (b + D.dim 2 * q) else i + D.dim 1 * q

/-- The element of dimension-1 index `i` at K position `k`. -/
def matElem (op : Instr) (D : Desc) (i b k : Nat) : Nat := k % D.dim 0 + D.dim 0 * matRow op D i b (k / D.dim 0)

/-- What K positions `k0` to `k1 - 1` of index `i` touch of an operand. -/
def kRgs (op : Instr) (n : Nat) (D : Desc) (i b k0 k1 : Nat) : List Rg :=
  (List.range ((k1 - 1) / D.dim 0 - k0 / D.dim 0 + 1)).flatMap fun j =>
    let q := k0 / D.dim 0 + j
    let lo := max k0 (q * D.dim 0)
    let hi := min k1 ((q + 1) * D.dim 0)
    D.rgs n false (matElem op D i b lo) (matElem op D i b lo + (hi - lo))

/-- The batches of a command: SIZE2 of an MMAB, else one. -/
def batchesOf (op : Instr) (B : Desc) : Nat := if isMmab op then B.dim 2 else 1

/-- The iteration vector of a step at K position `k` of B and column tile `t` (R270, R287). -/
def kIndex (op : Instr) (B : Desc) (k t : Nat) : List Nat :=
  let q := k / B.dim 0
  let d2 := redDim2 op B
  [k % B.dim 0, 128 * t, q % d2, q / d2 % B.dim 3, q / d2 / B.dim 3]

/-- The column tiles a command computes, in ascending order (R288). -/
def keptTiles (op : Instr) (kmode : Bool) (mask : BitVec 256) (n : Nat) : List Nat :=
  (List.range ((n + 127) / 128)).filter fun t => !(isMmam op) || kmode || mask.getLsbD t

/-- The first K positions of the groups a command runs, in ascending order (R42, R288). -/
def keptGroups (op : Instr) (kmode : Bool) (mask : BitVec 256) (g len : Nat) : List Nat :=
  ((List.range ((len + g - 1) / g)).map (g * ·)).filter fun k => !(isMmam op && kmode) || mask.getLsbD (k / 128)

/-- A clearing step of an accumulator (R285, R292). -/
def clearStep (t acc : Nat) : Stp := { n0 := 0, n1 := 0, tile := t, acc, clear := true, iv := [0, 128 * t, 0, 0, 0], rgs := [] }

/-- The steps of a product: clearing steps of an MMAZ, then groups outer and column tiles inner (R270, R285 to R289). -/
def matSteps (m : Cmd) (A B : Desc) (meta? : Option Desc) : List Stp :=
  let op := m.op
  let acc := accOfOp op
  let tiles := (keptTiles op m.hints.kmode m.kmask (B.sz 1)).zipIdx
  let len := redLen op B
  let g := groupLen A.fmt
  let clears := if isMmaz op then tiles.map fun e => clearStep e.1 (acc + e.2) else []
  clears ++ (keptGroups op m.hints.kmode m.kmask g len).flatMap fun k0 =>
    let k1 := min len (k0 + g)
    tiles.map fun e =>
      let cols := (List.range (min (B.sz 1) (128 * e.1 + 128) - 128 * e.1)).map (128 * e.1 + ·)
      let a := (List.range (batchesOf op B)).flatMap fun b => (List.range (A.sz 1)).flatMap fun i =>
        match meta? with
        | some M => kRgs op 0 A i b (k0 / 2) (k1 / 2) ++ kRgs op 2 M i b (k0 / 4) (k1 / 4)
        | none => kRgs op 0 A i b k0 k1
      let bs := (List.range (batchesOf op B)).flatMap fun b => cols.flatMap fun j => kRgs op 1 B j b k0 k1
      { n0 := k0, n1 := k1, tile := e.1, acc := acc + e.2, iv := kIndex op B k0 e.1, rgs := a ++ bs }

/-! ## The steps of a command (R261, R263, R292, R293, R296) -/

/-- The descriptors a command captured. -/
def Cmd.ds (m : Cmd) : List Desc := m.descs.map Desc.of

/-- Eight rows a step, from a tensor of rank 2 (R292, R293); the step that begins a BX4 band writes its scale too. -/
def rowSteps (D : Desc) (wr : Bool) (acc : Nat) : List Stp :=
  (List.range ((D.dim 1 + 7) / 8)).map fun i =>
    let n0 := 8 * i * D.dim 0
    let n1 := min (8 * i + 8) (D.dim 1) * D.dim 0
    { n0, n1, acc, iv := D.index n0, rgs := D.rgs 0 wr n0 n1 }

/-- The source elements a converting step reads: those of its run, and of every band it begins (R282). -/
def bandEnd (D : Desc) (n0 n1 : Nat) : Nat :=
  if D.fmt != 0xA then n1 else (D.newBands n0 n1).foldl (fun m b => max m (min D.count ((b + 1) * 64 * D.dim 0))) n1

/-- The steps of a command, in the order they run. -/
def Cmd.steps (m : Cmd) : List Stp :=
  match m.op, m.ds with
  | .cp _ _ _, [D, S] => (cut [D, S] (16384 / D.bits) D.count).map fun r =>
      { n0 := r.1, n1 := r.2, iv := D.index r.1,
        rgs := D.rgs 0 true r.1 r.2 ++ S.elemRgs 1 false r.1 r.2 ++ S.mapRgs 1 false (r.1 / D.dim 0) ((r.2 - 1) / D.dim 0) ++
          (S.scaleRgs 1 true r.1 r.2).map fun g => { g with wr := false } }
  | .cpc _ _ _, [D, S] => (cut [D, S] (16384 / D.bits) D.count).map fun r =>
      { n0 := r.1, n1 := r.2, iv := D.index r.1, rgs := D.rgs 0 true r.1 r.2 ++ S.rgs 1 false r.1 (bandEnd D r.1 r.2) }
  | .cpz _ _, [D] => (cut [D] (16384 / D.bits) D.count).map fun r =>
      { n0 := r.1, n1 := r.2, iv := D.index r.1, rgs := D.elemRgs 0 true r.1 r.2 ++ D.scaleRgs 0 true r.1 r.2 }
  | .accst _ _ n, [D] => rowSteps D true n.toNat
  | .accld _ _ n, [D] => rowSteps D false n.toNat
  | .accz _ n, _ => [clearStep 0 n.toNat]
  | .chset _ _, [P] => [{ n0 := 0, n1 := P.count, iv := [0, 0, 0, 0, 0], rgs := P.rgs 0 false 0 P.count }]
  | .chain _ _ _, [D, S] => (cut [D, S] 256 D.count).map fun r =>
      { n0 := r.1, n1 := r.2, iv := D.index r.1, rgs := D.rgs 0 true r.1 r.2 ++ S.rgs 1 false r.1 r.2 }
  | .chain2 _ _ _, [D, S, T] => (cut [D, S, T] 256 D.count).map fun r =>
      { n0 := r.1, n1 := r.2, iv := D.index r.1,
        rgs := D.rgs 0 true r.1 r.2 ++ S.rgs 1 false r.1 r.2 ++ T.rgs 2 false r.1 r.2 }
  | .scout _ _ _, [S, Q, K] => (List.range S.count).map fun j =>
      { n0 := j, n1 := j + 1, iv := [j, 0, 0, 0, 0],
        rgs := S.rgs 0 true j (j + 1) ++ Q.rgs 1 false 0 Q.count ++
          K.rgs 2 false (128 * j * K.dim 0) (min (K.dim 1) (128 * j + 128) * K.dim 0) }
  | .dodge _ _ _ _, [S] => [{ n0 := 0, n1 := S.count, iv := [0, 0, 0, 0, 0], rgs := S.rgs 0 false 0 S.count }]
  | .mmas _ _ _ _, [A, B, M] => matSteps m A B (some M)
  | _, [A, B] => matSteps m A B none
  | _, _ => []

/-- The accumulator tiles a matrix command or an ACCST names. -/
def Cmd.tiles (m : Cmd) : List Nat :=
  match m.op, m.ds with
  | .accz _ n, _ | .accld _ _ n, _ | .accst _ _ n, _ => [n.toNat]
  | .mmab _ _ _ n, _ => [n.toNat]
  | .mma _ _ _ _, A :: B :: _ | .mmas _ _ _ _, A :: B :: _ | .mmam _ _ _ _, A :: B :: _ | .mmaz _ _ _ _, A :: B :: _
  | .dmma _ _ _ _, A :: B :: _ =>
    let _ := A
    (keptTiles m.op m.hints.kmode m.kmask (B.sz 1)).zipIdx.map fun e => accOfOp m.op + e.2
  | _, _ => []

/-- Pages the command writes both by a step before and by a step at or after step `i` (R268). -/
def spanning (l : List (List Nat)) (i : Nat) : Nat :=
  ((l.take i).flatten.eraseDups.filter fun v => (l.drop i).any (·.contains v)).length

/-- A scratchpad page stands under the command's writes: the step that first writes it has begun, the one that last
writes it has not retired (R268). -/
def Cmd.holds (m : Cmd) (v : Nat) : Bool :=
  let l := m.steps.map fun t => t.wpages.contains v
  ((l.take (m.step + (if m.busy.isSome then 1 else 0))).contains true) && (l.drop m.step).contains true

/-! ## Check 3 of R260: the operands agree (R281 to R299) -/

/-- The rows of a check, in operand order: each names the operand charged and whether it holds. -/
def firstBad (l : List (Nat × Bool)) : Option Nat := ((l.filter (!·.2)).map Prod.fst).min?

/-- Equal RANK and SIZE0 to SIZE4. -/
def sameShape (D S : Desc) : Bool := D.rank == S.rank && D.size == S.size

/-- Formats of A and B that multiply (R284). -/
def fmtPair (sparse : Bool) (a b : Nat) : Bool :=
  (a == b && (a == 0x4 || a == 0x5 || (a == 0xA && !sparse))) || ([0x8, 0x9].contains a && [0x8, 0x9].contains b) ||
  ([0x0, 0x1].contains a && [0x0, 0x1].contains b)

/-- A format an element-wise chain takes (R299). -/
def chainFmt (f : Nat) : Bool := f != 0x7 && f != 0xA && f != 0xB

/-- The rules of a product on its operands (R270, R284, R286, R287). -/
def matCheck (m : Cmd) (A B : Desc) (M : Option Desc) : List (Nat × Bool) :=
  let tiles := (keptTiles m.op m.hints.kmode m.kmask (B.sz 1)).length
  let fits := decide (accOfOp m.op + tiles ≤ 8)
  let same := decide (A.sz 0 = B.sz 0 ∧ A.sz 2 = B.sz 2 ∧ A.sz 3 = B.sz 3 ∧ A.sz 4 = B.sz 4)
  match m.op with
  | .dmma _ _ _ _ => [(0, A.fmt == 0x7 && decide (A.sz 1 ≤ 64)), (1, B.fmt == 0x7 && same && fits)]
  | .mmab _ _ _ _ =>
    [(0, decide (3 ≤ A.rank) && decide (A.sz 1 ≤ 32) && decide (A.sz 2 ≤ 16)),
     (1, decide (3 ≤ B.rank) && decide (B.sz 1 ≤ 32) && fmtPair false A.fmt B.fmt && same)]
  | .mmas _ _ _ _ =>
    [(0, A.rank == 2 && decide (A.sz 1 ≤ 128)),
     (1, B.rank == 2 && B.sz 0 % 4 == 0 && 2 * A.sz 0 == B.sz 0 && fmtPair true A.fmt B.fmt && fits)] ++
    (match M with
     | some M => [(2, M.fmt == 0x1 && M.space && M.rank == 2 && M.sz 0 == B.sz 0 / 4 && M.sz 1 == A.sz 1)]
     | none => [])
  | _ => [(0, decide (A.sz 1 ≤ 128)), (1, fmtPair false A.fmt B.fmt && same && fits)]

/-- The first operand that fails its instruction's rule. -/
def Cmd.badOperand (m : Cmd) : Option Nat :=
  match m.op, m.ds with
  | .cp _ _ _, [D, S] => firstBad [(1, sameShape D S && D.fmt == S.fmt)]
  | .cpc _ _ _, [D, S] => firstBad [(0, D.fmt != 0xB), (1, sameShape D S)]
  | .accst _ _ _, [D] => firstBad [(0, D.rank == 2 && decide (D.sz 0 ≤ 128) && decide (D.sz 1 ≤ if D.fmt = 0x7 then 64 else 128) && D.fmt != 0xB)]
  | .accld _ _ _, [D] => firstBad [(0, D.rank == 2 && decide (D.sz 0 ≤ 128) && decide (D.sz 1 ≤ if D.fmt = 0x7 then 64 else 128))]
  | .chset _ _, [P] => firstBad [(0, P.fmt == 0x3 && P.rank == 1 && P.sz 0 % 2 == 0 && decide (P.sz 0 ≤ 16))]
  | .chain _ _ _, [D, S] => firstBad [(0, chainFmt D.fmt && D.fmt != 0xC), (1, chainFmt S.fmt && sameShape D S)]
  | .chain2 _ _ _, [D, S, T] =>
    firstBad [(0, chainFmt D.fmt && D.fmt != 0xC), (1, chainFmt S.fmt && sameShape D S), (2, chainFmt T.fmt && sameShape D T)]
  | .scout _ _ _, [S, Q, K] =>
    let f := fun (x : Nat) => [0x4, 0x5, 0x8, 0x9].contains x
    firstBad [(0, S.fmt == 0x6 && S.space && S.rank == 1 && decide (S.sz 0 ≤ 256)), (1, Q.rank == 2 && f Q.fmt && decide (Q.sz 1 ≤ 128)),
              (2, K.rank == 2 && f K.fmt && Q.sz 0 == K.sz 0 && S.sz 0 == (K.sz 1 + 127) / 128)]
  | .dodge _ _ _ _, [S] => firstBad [(0, S.fmt == 0x6 && S.rank == 1 && decide (S.sz 0 ≤ 256))]
  | .cpz _ _, _ | .accz _ _, _ => none
  | _, [A, B] => firstBad (matCheck m A B none)
  | _, [A, B, M] => firstBad (matCheck m A B (some M))
  | _, _ => none

/-- The operand that check 4 charges: the last whose scratchpad pages a step of more than 32 touches, or the destination
of a command with more than 32 pages written across a step boundary (R260, R268). -/
def Cmd.tooWide (m : Cmd) : Option Nat :=
  let st := m.steps
  match st.find? fun t => decide (32 < t.pages.length) with
  | some t => ((t.rgs.filter (·.sp)).map (·.op)).max?
  | none =>
    let l := st.map (·.wpages)
    if (List.range l.length).any fun i => decide (32 < spanning l i) then some 0 else none

/-! ## Issuing a command (R260, R261, R271, R277, R290, R300) -/

/-- The engine-operand trap's value: check and handle (R313). -/
def operandVal (check h : Nat) : Dword := BitVec.ofNat 64 (256 * check + h)

/-- The cluster of a physical core: four cores each (R1). -/
def clusterOf (core : Nat) : Nat := core / 4

/-- The gang of a joint command, where CSR GANG names one that holds the block and no other member is resident in another
cluster (R290, R300). -/
def State.gangOk (s : State) (x c : Nat) (th : Thread) : Bool :=
  let k := s.ctxAt x
  let b := (k.coreAt c).blkAt th.par.blk
  let e := (th.gang.extractLsb' 0 8).toNat
  th.gang.getLsbD 8 && b.groups.contains e && grpKind (tget 0 (k.launchAt b.launch).grp e) == 2 &&
  (k.members e).all fun n => ((k.coreAt n.1).blkAt n.2).launch != b.launch ||
    clusterOf (s.physOf x n.1) == clusterOf (s.physOf x c)

/-- The rounding mode a command captured (R45, R55). -/
def Cmd.mode (m : Cmd) : RM := rndMode m.hints (fpRm m.fpmode)

/-- The command converts with stochastic rounding (R45, R48, R282). -/
def Cmd.usesSr (m : Cmd) : Bool :=
  m.mode == .sr && (match m.op with
    | .cpc _ _ _ | .accst _ _ _ | .chain _ _ _ | .chain2 _ _ _ => true
    | _ => false) && (match m.ds with
    | D :: _ => srFmt D.fmt
    | [] => false)

/-- The checks of R260 in order, each over the operands in order: the check and the handle charged. -/
def Cmd.operandFault (m : Cmd) (hs : List Nat) (spq : Nat) : Option (Nat × Nat) :=
  let h := fun (n : Nat) => hs.getD n 0
  match (hs.zip m.ds).find? fun e => !e.2.ok with
  | some e => some (1, e.1)
  | none =>
    match (hs.zip m.ds).find? fun e => !e.2.within spq with
    | some e => some (2, e.1)
    | none =>
      match m.badOperand with
      | some n => some (3, h n)
      | none => m.tooWide.map fun n => (4, h n)

/-- The tile belongs where the command needs it: the matrix side, or the issuing block (R271). -/
def ownsTile (t : Tile) (bs : Option Nat) : Bool := t.owner == bs

/-- A TDLD of the thread that has not written one of the handles (R279). -/
def State.tdPending (s : State) (t : Tid) (hs : List Nat) : Bool :=
  match t with
  | .ctl _ => false
  | .cmp x c slot => (s.ctxAt x).infl.any fun e => e.2.ofThread c slot && (match e.2.op with
    | .tdld _ h _ => hs.contains h.toNat
    | _ => false)

/-- The thread with a command joined to its open copy batch (R267). -/
def Thread.joinBatch (th : Thread) : Thread :=
  let n := th.cpopen.toNat
  let l := th.par.batches
  let l' := if l.any (fun b => b.num == n) then l.map fun b => if b.num = n then { b with left := b.left + 1 } else b
    else l ++ [{ num := n, left := 1, sealed := false, token := none, event := none }]
  { th with par := { th.par with batches := l' } }

/-- The command of a word, as the executing thread captures it; one that does not convert with SR has no generator (R48,
R261, R265, R266). -/
def State.newCmd (s : State) (x slot : Nat) (op : Instr) (hs : List Nat) (kmask : BitVec 256) (theta : Word) : Cmd :=
  let k := s.ctxAt x
  let th := s.me
  let gang := if th.hints.gang then some (th.gang.extractLsb' 0 8).toNat else none
  let descs := hs.map (tget 0 k.td)
  let m : Cmd := { op, pc := th.pc, hints := th.hints, fpmode := th.fpmode, slot, blk := th.par.blk, descs, kmask, theta, gang }
  let m := { m with batch := th.cpopen.toNat, mark := k.nextId }
  { m with gen := if m.usesSr then th.srseed else 0 }

/-- The body of a queued command: the checks of R277 in order, then the queue; a full queue, a thread of lower TIDX that
has not issued, or a pending TDLD holds the word (R124, R261, R262, R277, R279). -/
def State.queueCmd (s : State) (q : EngQ) (op : Instr) (hs : List Nat) (vector : Bool) (kmask : BitVec 256) (theta : Word)
    (hang : List PReg) : Res :=
  match s.cur with
  | .ctl _ => .next s
  | .cmp x c slot =>
    let th := s.me
    let core := (s.ctxAt x).coreAt c
    let m := s.newCmd x slot op hs kmask theta
    if s.tdPending s.cur hs then .hold s
    else
      match m.operandFault hs (core.blkAt th.par.blk).spq with
      | some (n, h) => .trap 0x27 (operandVal n h) false
      | none =>
        if th.hints.gang && !s.gangOk x c th then .trap 0x29 ((th.gang.extractLsb' 0 8).zeroExtend 64) false
        else
          match m.tiles.find? fun n => !ownsTile (tget {} core.tiles n) (if vector then some th.par.blk else none) with
          | some n => .trap 0x28 (BitVec.ofNat 64 n) false
          | none =>
            if !s.matesFirst || 32 ≤ (core.q q).length then .hold s
            else
              .next ((s.modCore x c fun k => k.setQ q (k.q q ++ [m])).modMe fun th =>
                let th := if q = .copy then th.joinBatch else th
                ({ th with srseed := if m.usesSr then srNext th.srseed else th.srseed } : Thread).hang hang)

/-- The format of a descriptor, as read at issue for HM RND (R61). -/
def State.fmtOf (s : State) (h : Nat) : Nat :=
  match s.cur with
  | .cmp x _ _ => (Desc.of (tget 0 (s.ctxAt x).td h)).fmt
  | .ctl _ => 0

/-- An HM RND 5 is to be judged by a descriptor that the thread's TDLD has not written (R61, R279). -/
def State.fmtPending (s : State) (h : Nat) : Bool := s.me.hints.rnd == 5 && s.tdPending s.cur [h]

/-- A command word. -/
def cmdWord (w : W) (s : State) (q : EngQ) (hs : List Nat) (vector : Bool := false) (kmask : BitVec 256 := 0) (theta : Word := 0)
    (hang : List PReg := []) : Out :=
  runWord { w with onCtl := false } s (s.queueCmd q w.i hs vector kmask theta hang)

/-- A word of majors 0x3B to 0x3D marks its block (R189). -/
def markTiles (s : State) : State :=
  match s.cur with
  | .cmp x c _ => s.modBlk x c s.me.par.blk fun b => { b with tiles := true }
  | .ctl _ => s

/-- The state in which a word of majors 0x3B to 0x3D runs: its block is marked when the word has issued, were it to wait for a
tile. -/
def tileRes : Res → Res
  | .next s => .next (markTiles s)
  | .placed s => .placed (markTiles s)
  | .wait s w => .wait (markTiles s) w
  | r => r

/-- A command word of majors 0x3B to 0x3D (R189). -/
def tileCmd (w : W) (s : State) (q : EngQ) (hs : List Nat) (vector : Bool := false) (kmask : BitVec 256 := 0) (theta : Word := 0)
    (hang : List PReg := []) : Out :=
  runWord { w with onCtl := false } s (tileRes (s.queueCmd q w.i hs vector kmask theta hang))

/-! ## Copies (R281, R282) -/

/-- CP (R281). -/
def execCp (pg : BitVec 3) (d b : BitVec 8) (s : State) : Out :=
  cmdWord { i := .cp pg d b, pg, hu := { cache := true } } s .copy [d.toNat, b.toNat]

/-- CPC (R281, R282). -/
def execCpc (pg : BitVec 3) (d b : BitVec 8) (s : State) : Out :=
  cmdWord { i := .cpc pg d b, pg, hu := { cache := true, rnd := true, rnd5 := srFmt (s.fmtOf d.toNat) }, unread := s.fmtPending d.toNat } s .copy [d.toNat, b.toNat]

/-- CPZ (R281). -/
def execCpz (pg : BitVec 3) (d : BitVec 8) (s : State) : Out :=
  cmdWord { i := .cpz pg d, pg, hu := { cache := true } } s .copy [d.toNat]

/-! ## Products (R284 to R290) -/

/-- MMA (R285). -/
def execMma (pg : BitVec 3) (a b : BitVec 8) (n : BitVec 4) (s : State) : Out :=
  tileCmd { i := .mma pg a b n, pg, hu := { gang := true, even := true } } s .matrix [a.toNat, b.toNat]

/-- MMAS (R286). -/
def execMmas (pg : BitVec 3) (a b : BitVec 8) (n : BitVec 4) (s : State) : Out :=
  tileCmd { i := .mmas pg a b n, pg, hu := { gang := true, even := true, tn3 := true } } s .matrix [a.toNat, b.toNat, s.me.hints.tn3]

/-- MMAB (R287). -/
def execMmab (pg : BitVec 3) (a b : BitVec 8) (n : BitVec 4) (s : State) : Out :=
  tileCmd { i := .mmab pg a b n, pg, hu := { gang := true, even := true } } s .matrix [a.toNat, b.toNat]

/-- MMAM: the mask is captured at issue (R261, R288). -/
def execMmam (pg : BitVec 3) (a b : BitVec 8) (n : BitVec 4) (s : State) : Out :=
  tileCmd { i := .mmam pg a b n, pg, rs := [.k s.me.hints.kreg], hu := { gang := true, even := true, kreg := 1 } } s .matrix
    [a.toNat, b.toNat] (kmask := s.me.kr s.me.hints.kreg)

/-- MMAZ (R285). -/
def execMmaz (pg : BitVec 3) (a b : BitVec 8) (n : BitVec 4) (s : State) : Out :=
  tileCmd { i := .mmaz pg a b n, pg, hu := { gang := true, even := true } } s .matrix [a.toNat, b.toNat]

/-- DMMA (R289). -/
def execDmma (pg : BitVec 3) (a b : BitVec 8) (n : BitVec 4) (s : State) : Out :=
  tileCmd { i := .dmma pg a b n, pg, hu := { gang := true, even := true, rnd := true } } s .matrix [a.toNat, b.toNat]

/-! ## Accumulator tiles (R292, R293) -/

/-- ACCZ (R292). -/
def execAccz (pg : BitVec 3) (n : BitVec 4) (s : State) : Out := tileCmd { i := .accz pg n, pg } s .matrix []

/-- ACCLD (R292). -/
def execAccld (pg : BitVec 3) (b : BitVec 8) (n : BitVec 4) (s : State) : Out :=
  tileCmd { i := .accld pg b n, pg, hu := { cache := true } } s .matrix [b.toNat]

/-- ACCST (R293). -/
def execAccst (pg : BitVec 3) (d : BitVec 8) (n : BitVec 4) (s : State) : Out :=
  tileCmd { i := .accst pg d n, pg, hu := { cache := true, rnd := true, rnd5 := srFmt (s.fmtOf d.toNat) }, unread := s.fmtPending d.toNat } s .copy [d.toNat]
    (vector := true)

/-! ## Scout and chain (R296 to R299) -/

/-- SCOUT (R296). -/
def execScout (pg : BitVec 3) (b q : BitVec 8) (s : State) : Out :=
  tileCmd { i := .scout pg b q, pg, hu := { even := true, tn3 := true } } s .scout [b.toNat, q.toNat, s.me.hints.tn3]

/-- DODGE: θ and the base mask are read at issue; the destination k-register is pending (R275, R297). -/
def execDodge (pg : BitVec 3) (b : BitVec 8) (t : BitVec 7) (k : BitVec 3) (s : State) : Out :=
  let th := s.me
  let base := if th.hints.he.isSome then th.kr th.hints.kreg else 0
  tileCmd { i := .dodge pg b t k, pg, gs := [t.toNat], rs := .k k.toNat :: (if th.hints.he.isSome then [.k th.hints.kreg] else []),
            hu := { kreg := 2 } } s .scout [b.toNat] (kmask := base) (theta := th.gr t.toNat) (hang := [.k k.toNat])

/-- CHSET (R298). -/
def execChset (pg : BitVec 3) (h : BitVec 8) (s : State) : Out := cmdWord { i := .chset pg h, pg } s .chain [h.toNat]

/-- CHAIN (R299). -/
def execChain (pg : BitVec 3) (d b : BitVec 8) (s : State) : Out :=
  cmdWord { i := .chain pg d b, pg, hu := { even := true, rnd := true, rnd5 := srFmt (s.fmtOf d.toNat) }, unread := s.fmtPending d.toNat } s .chain [d.toNat, b.toNat]

/-- CHAIN2 (R299). -/
def execChain2 (pg : BitVec 3) (d b : BitVec 8) (s : State) : Out :=
  cmdWord { i := .chain2 pg d b, pg, hu := { even := true, tn3 := true, rnd := true, rnd5 := srFmt (s.fmtOf d.toNat) }, unread := s.fmtPending d.toNat } s .chain
    [d.toNat, b.toNat, s.me.hints.tn3]

/-! ## Descriptors (R279) -/

/-- A descriptor word: the executing thread's bank, once its own TDLD of the handle is done. -/
def tdWord (w : W) (s : State) (h : Nat) (f : Nat → Res) : Out :=
  runWord { w with onCtl := false } s
    (match s.cur with
     | .ctl _ => .next s
     | .cmp x _ _ => if s.tdPending s.cur [h] then .hold s else f x)

/-- A descriptor with word `w` at `v`. -/
def setDescWord (d : BitVec 512) (w : Nat) (v : Word) : BitVec 512 :=
  (d &&& ~~~((BitVec.ofNat 512 0xFFFFFFFF) <<< (32 * w))) ||| ((v.zeroExtend 512) <<< (32 * w))

/-- TDSET (R279). -/
def execTdset (pg : BitVec 3) (h : BitVec 8) (g : BitVec 7) (w : BitVec 4) (s : State) : Out :=
  tdWord { i := .tdset pg h g w, pg, gs := [g.toNat] } s h.toNat fun x =>
    .next (s.modCtx x fun k => { k with td := tput h.toNat (setDescWord (tget 0 k.td h.toNat) w.toNat (s.me.gr g.toNat)) k.td })

/-- TDGET (R279). -/
def execTdget (pg : BitVec 3) (h : BitVec 8) (g : BitVec 7) (w : BitVec 4) (s : State) : Out :=
  tdWord { i := .tdget pg h g w, pg, gs := [g.toNat] } s h.toNat fun x =>
    .next (s.modMe (·.setG g.toNat ((tget 0 (s.ctxAt x).td h.toNat).extractLsb' (32 * w.toNat) 32)))

/-- TDLD: checked and issued as a 64-byte load (R240, R279). -/
def execTdld (pg : BitVec 3) (h : BitVec 8) (g : BitVec 7) (s : State) : Out :=
  let i := Instr.tdld pg h g
  let ea := s.me.pair g.toNat
  tdWord { i, pg, gs := [g.toNat, g.toNat + 1], hu := { cache := true } } s h.toNat fun x =>
    if !canonical ea then .trap 0x04 ea false
    else if ea.toNat % 64 != 0 then .trap 0x03 ea false
    else if s.acqPending s.cur then .hold s
    else s.issueAccess x (s.newAccess i ea 64 []) id

/-- TDINV (R279). -/
def execTdinv (pg : BitVec 3) (h : BitVec 8) (s : State) : Out :=
  tdWord { i := .tdinv pg h, pg } s h.toNat fun x => .next (s.modCtx x fun k => { k with td := tdel h.toNat k.td })

/-! ## Copy batches (R267, R283) -/

/-- A batch of the thread has been sealed and has not completed. -/
def Thread.batchOpen (th : Thread) (n : Nat) : Bool := th.par.batches.any fun b => b.num == n

/-- Completes the thread's oldest batch, when it is sealed and its commands have retired: the core's logical time takes
the latest wts of its global writes, the token is written, and the counter falls (R234, R267). -/
def State.batchDone (s : State) (x c slot : Nat) : State :=
  let t := Tid.cmp x c slot
  match (s.thr t).par.batches with
  | b :: r =>
    if !b.sealed || b.left != 0 || !(s.jumpOk (s.physOf x c) (b.time.getD 0) || b.time.isNone) then s
    else
      let s := (s.raiseOpt (s.physOf x c) b.time).modThr t fun th => { th with par := { th.par with batches := r } }
      let s := match b.token with
        | some g => s.modThr t (·.land g [BitVec.ofNat 32 b.num])
        | none => s
      match b.event with
      | some n => s.evSub x n 1
      | none => s
  | [] => s

/-- COPY_BATCH_COMPLETE (R234, R267): in a partition that has stopped, only after RESUME, so that a WRTS of the token register stands till
then (R96). -/
def execCopyBatchComplete (t : Tid) (s : State) : Out :=
  match t with
  | .ctl _ => .next s
  | .cmp x c slot =>
    match (s.ctxAt x).halt with
    | some h => .next (if h.stopped then s else s.batchDone x c slot)
    | none => .next (s.batchDone x c slot)

/-- CPSEAL: an empty batch with none before it completes at once; a ninth sealed batch waits (R267, R283). -/
def execCpseal (pg : BitVec 3) (d : BitVec 7) (s : State) : Out :=
  let th := s.me
  let (x, c, slot) := s.here
  let n := th.cpopen.toNat
  let shut := fun (b : Batch) => if b.num = n then { b with sealed := true, token := some d.toNat, event := th.hints.event } else b
  let l := if th.batchOpen n then th.par.batches else th.par.batches ++ [{ num := n, left := 0, sealed := false, token := none, event := none }]
  runWord { i := .cpseal pg d, pg, gs := [d.toNat], hu := { even := true }, onCtl := false } s
    (if 8 ≤ (th.par.batches.filter (·.sealed)).length then .hold s
     else
       let s := s.modMe fun th =>
         ({ th with cpopen := th.cpopen + 1, par := { th.par with batches := l.map shut } } : Thread).hang [.g d.toNat]
       .next (s.batchDone x c slot))

/-- Batch number `b` is older than the open one (R283). -/
def Thread.older (th : Thread) (b : Word) : Bool :=
  decide (1 ≤ (th.cpopen - b).toNat) && decide ((th.cpopen - b).toNat ≤ 2 ^ 31)

/-- CPWAIT (R283). -/
def execCpwait (pg : BitVec 3) (g : BitVec 7) (s : State) : Out :=
  let th := s.me
  let b := th.gr g.toNat
  runWord { i := .cpwait pg g, pg, gs := [g.toNat], onCtl := false } s
    (if !th.older b then .trap 0x27 (operandVal 5 g.toNat) false
     else if th.batchOpen b.toNat then .wait s .cpwait
     else s.done id)

/-- CPTEST (R283). -/
def execCptest (pg : BitVec 3) (d : BitVec 7) (s : State) : Out :=
  let th := s.me
  let b := th.gr d.toNat
  let v : Word := if !th.older b then 0xFFFFFFFF else if th.batchOpen b.toNat then 0 else 1
  runWord { i := .cptest pg d, pg, gs := [d.toNat], onCtl := false } s (.next (s.modMe (·.setG d.toNat v)))

/-! ## Tiles as data (R39, R49, R294) -/

/-- A cell of a tile. -/
def Tile.cell (t : Tile) (row col : Nat) : BitVec 56 := tget 0 t.cells (128 * row + col)

/-- The tile with a cell at `v`. -/
def Tile.setCell (t : Tile) (row col : Nat) (v : BitVec 56) : Tile := { t with cells := tput (128 * row + col) v t.cells }

/-- The tile with a row poisoned for some causes; none leave it (R49). -/
def Tile.spoil (t : Tile) (row mask : Nat) : Tile :=
  if mask = 0 then t else { t with poison := t.poison ||| BitVec.ofNat 128 (2 ^ row), cause := t.cause ||| BitVec.ofNat 8 mask }

/-- The tile cleared: cells +0, row poison and cause mask clear (R285, R292). -/
def Tile.clear (t : Tile) : Tile := { t with cells := [], poison := 0, cause := 0 }

/-- Tile `n` of a core. -/
def CtxCore.tileAt (k : CtxCore) (n : Nat) : Tile := tget {} k.tiles n

/-- The core with tile `n` at `t`. -/
def CtxCore.setTile (k : CtxCore) (n : Nat) (t : Tile) : CtxCore := { k with tiles := tput n t k.tiles }

/-- Cell coordinates as gc gives them (R294). -/
structure Coord where
  mode : Nat
  row  : Nat
  col  : Nat

/-- The coordinate of gc; none where a bit that must be zero is set. -/
def Coord.of (gc : Word) : Option Coord :=
  if gc.extractLsb' 20 12 != 0 || gc.getLsbD 15 || gc.getLsbD 7 then none
  else some { mode := (gc.extractLsb' 16 4).toNat, row := (gc.extractLsb' 8 7).toNat, col := (gc.extractLsb' 0 7).toNat }

/-- The value ACCRD reads (R294); none for an illegal mode. -/
def Tile.read (t : Tile) (p : Coord) : Option Word :=
  let v := t.cell p.row p.col
  match p.mode with
  | 0 => some (BitVec.ofNat 32 (fp32.deliver {} (fa56.dec v.toNat)).1)
  | 1 => some (BitVec.ofInt 32 (max (-2147483648) (min 2147483647 (int56 v.toNat))))
  | 2 => some (v.extractLsb' 0 32)
  | 3 => some ((v.extractLsb' 32 24).zeroExtend 32)
  | 4 => if p.col < 4 then some (t.poison.extractLsb' (32 * p.col) 32) else none
  | 5 => some (t.cause.zeroExtend 32)
  | _ => none

/-- The tile after ACCWR (R294); none for an illegal mode. -/
def Tile.write (t : Tile) (p : Coord) (g : Word) : Option Tile :=
  let v := t.cell p.row p.col
  match p.mode with
  | 0 => some (match fp32.dec g.toNat with
    | .fin s n e => t.setCell p.row p.col (BitVec.ofNat 56 (rne56 (.fin s n e)).1)
    | _ => (t.setCell p.row p.col 0).spoil p.row cINV)
  | 1 => some (t.setCell p.row p.col (g.signExtend 56))
  | 2 => some (t.setCell p.row p.col (v.extractLsb' 32 24 ++ g))
  | 3 => some (t.setCell p.row p.col (g.extractLsb' 0 24 ++ v.extractLsb' 0 32))
  | _ => none

/-- An ACCST of the block that has not read every row of the tile (R271, R293). -/
def CtxCore.storing (k : CtxCore) (bs n : Nat) : Bool :=
  k.copy.any fun m => m.blk == bs && m.tiles.contains n && !(m.busy.isSome && decide (m.steps.length ≤ m.step + 1))

/-- A word on a tile owned by the executing thread's block, after its coordinate checks (R277, R294). -/
def tileWord (w : W) (s : State) (n : Nat) (regs : List Nat) (bad : Option Nat) (f : Nat → Nat → Tile → Res) : Out :=
  runWord { w with onCtl := false, gs := regs } s (tileRes
    (match s.cur with
     | .ctl _ => .next s
     | .cmp x c _ =>
       match bad with
       | some g => .trap 0x27 (operandVal 5 g) false
       | none =>
         let t := ((s.ctxAt x).coreAt c).tileAt n
         if !ownsTile t (some s.me.par.blk) then .trap 0x28 (BitVec.ofNat 64 n) false else f x c t))

/-- ACCRD (R294). -/
def execAccrd (pg : BitVec 3) (d c : BitVec 7) (n : BitVec 4) (s : State) : Out :=
  let p := Coord.of (s.me.gr c.toNat)
  let bad := if (p.bind fun p => Tile.read {} p).isSome then none else some c.toNat
  tileWord { i := .accrd pg d c n, pg } s n.toNat [d.toNat, c.toNat] bad fun _ _ t =>
    .next (s.modMe (·.setG d.toNat ((p.bind fun p => t.read p).getD 0)))

/-- ACCWR: waits for an ACCST of the block that still reads the tile (R293, R294). -/
def execAccwr (pg : BitVec 3) (g c : BitVec 7) (n : BitVec 4) (s : State) : Out :=
  let v := s.me.gr g.toNat
  let p := Coord.of (s.me.gr c.toNat)
  let bad := match p with
    | none => some c.toNat
    | some p => if 3 < p.mode then some c.toNat
      else if p.mode = 3 ∧ v.extractLsb' 24 8 ≠ 0 then some g.toNat else none
  tileWord { i := .accwr pg g c n, pg } s n.toNat [g.toNat, c.toNat] bad fun x k t =>
    if ((s.ctxAt x).coreAt k).storing s.me.par.blk n.toNat then .hold s
    else .next (s.modCore x k fun u => u.setTile n.toNat ((p.bind fun p => t.write p v).getD t))

/-- ACCPSN: waits as ACCWR does (R293, R294). -/
def execAccpsn (pg : BitVec 3) (g c : BitVec 7) (n : BitVec 4) (s : State) : Out :=
  let p := Coord.of (s.me.gr c.toNat)
  let bad := match p with
    | some p => if p.mode = 15 ∧ p.col = 0 then none else some c.toNat
    | none => some c.toNat
  tileWord { i := .accpsn pg g c n, pg } s n.toNat [g.toNat, c.toNat] bad fun x k t =>
    if ((s.ctxAt x).coreAt k).storing s.me.par.blk n.toNat then .hold s
    else .next (s.modCore x k fun u =>
      u.setTile n.toNat (t.spoil ((p.map Coord.row).getD 0) ((s.me.gr g.toNat).extractLsb' 0 5).toNat))

/-! ## Owners (R271, R295) -/

/-- Every step of a command has retired; what is left is the decrement of its counter (R302). -/
def Cmd.over (m : Cmd) : Bool := decide (0 < m.step) && m.busy.isNone && decide (m.steps.length ≤ m.step)

/-- A queued or running matrix command names the tile (R271). -/
def CtxCore.usesTile (k : CtxCore) (n : Nat) : Bool := k.matrix.any fun m => m.tiles.contains n && !m.over

/-- The thread waits in an OWNV of tile `n`: in its bundle, or having left it (R271). -/
def CtxCore.waitsOwn (k : CtxCore) (n slot : Nat) : Bool :=
  let th := k.thrAt slot
  th.par.place != .exited && (match th.iss with
    | some (.ownv _ m) => m.toNat == n
    | some _ => false
    | none => th.par.held == some .own)

/-- An owner word: a trap where the tile is another block's, else its own rule (R271, R295). -/
def ownWord (i : Instr) (pg : BitVec 3) (n : Nat) (s : State) (f : Nat → Nat → Nat → Tile → Res) : Out :=
  runWord { i, pg, onCtl := false } s (tileRes
    (match s.cur with
     | .ctl _ => .next s
     | .cmp x c slot =>
       let t := ((s.ctxAt x).coreAt c).tileAt n
       if t.owner != none && t.owner != some s.me.par.blk then .trap 0x28 (BitVec.ofNat 64 n) false else f x c slot t))

/-- The tile is granted: the OWNVs of other blocks that wait for it raise the ownership trap (R271, R295). -/
def State.trapWaiters (s : State) (x c n blk : Nat) (l : List Nat) : State :=
  l.foldl (fun s u => if (((s.ctxAt x).coreAt c).thrAt u).par.blk = blk then s else s.trap (.cmp x c u) 0x28 (BitVec.ofNat 64 n)) s

/-- OWNV: waits for every matrix command on the tile; among waiting OWNVs of different blocks that of the block which issued the first one
completes, and its other threads' find the tile theirs (R271, R295). -/
def execOwnv (pg : BitVec 3) (n : BitVec 4) (s : State) : Out :=
  ownWord (.ownv pg n) pg n.toNat s fun x c slot t =>
    if t.owner.isSome then s.done id
    else
      let k := (s.ctxAt x).coreAt c
      let q := t.queue.filter fun u => u == slot || k.waitsOwn n.toNat u
      let q := if q.contains slot then q else q ++ [slot]
      if k.usesTile n.toNat || q.head?.any (fun u => (k.thrAt u).par.blk != s.me.par.blk) then .wait (s.modCore x c fun k => k.setTile n.toNat { t with queue := q }) .own
      else
        ((s.modCore x c fun k => k.setTile n.toNat { t with owner := some s.me.par.blk, queue := [] }).trapWaiters x c n.toNat
          s.me.par.blk q).done id

/-- OWNM: waits for the block's ACCSTs to read the tile (R271, R295). -/
def execOwnm (pg : BitVec 3) (n : BitVec 4) (s : State) : Out :=
  ownWord (.ownm pg n) pg n.toNat s fun x c _ t =>
    if t.owner.isNone then s.done id
    else if ((s.ctxAt x).coreAt c).storing s.me.par.blk n.toNat then .wait s .own
    else (s.modCore x c fun k => k.setTile n.toNat { t with owner := none }).done id

end Sys2Proof.Machine
end

