-- ==== Sys2Proof/Machine/Engine.lean ====
section
/-! DEFINITION. Sys2Proof/Machine/Engine.lean: what an engine's step computes, and the events that begin and retire steps
and match joint commands (R42 to R51, R209, R234, R262 to R299). -/

namespace Sys2Proof.Machine

/-! ## Copies and tiles (R281, R282, R292, R293) -/

/-- The rows that elements `n0` to `n1 - 1` stand in. -/
def Desc.rowsOf (D : Desc) (n0 n1 : Nat) : List Nat :=
  (List.range ((n1 - 1) / D.dim 0 - n0 / D.dim 0 + 1)).map (n0 / D.dim 0 + ·)

/-- The rows of a source marked in its map. -/
def Env.marked (e : Env) (D : Desc) (rows : List Nat) : List Nat := rows.filter (e.poison D)

/-- What a step writes, before its addresses are translated. -/
structure Eff where
  ws    : List EW := []
  tiles : List (Nat × Tile) := []
  kreg  : Option (Nat × BitVec 256) := none
  chain : Option (List (Nat × Word)) := none
  gen   : Word := 0
  band  : Int := 0
  cause : Nat := 0
  flags : Nat := 0

/-- The step carries marked rows of its sources to the map of its destination: it records LOST (R50, R51). -/
def Eff.carry (f : Eff) (D : Desc) (rows : List Nat) : Eff :=
  if D.pbase = 0 ∨ rows = [] then f
  else { f with ws := f.ws ++ rows.flatMap D.wrPoison, cause := f.cause ||| cLOST }

/-- The scales of a BX4 destination that go with elements `n0` to `n1 - 1`, from functions of the block and the band. -/
def Desc.wrScales (D : Desc) (n0 n1 : Nat) (blk : Nat → Nat) (band : Nat → Nat) : List EW :=
  if D.fmt != 0xA then []
  else
    ((List.range ((n1 - 1) / 8 - n0 / 8 + 1)).flatMap fun i => D.wrBytes (D.sbase + n0 / 8 + i) [BitVec.ofNat 8 (blk (n0 / 8 + i))]) ++
    (D.newBands n0 n1).flatMap fun b => D.wrBytes (D.bandAddr b) (leBytes (band b) 2)

/-- CP: element bits and scales unchanged, poison rows carried (R281). -/
def Env.copy (e : Env) (m : Cmd) (D S : Desc) (t : Stp) : Eff :=
  let ns := (List.range (t.n1 - t.n0)).map (t.n0 + ·)
  ({ ws := (ns.flatMap fun n => D.wrElem n (e.elem S n)) ++
      D.wrScales t.n0 t.n1 (fun b => (e.byte S.space (S.sbase + b)).toNat) (fun b => e.le S.space (S.bandAddr b) 2),
     gen := m.gen, band := m.band } : Eff).carry D (e.marked S (D.rowsOf t.n0 t.n1))

/-- CPZ: zero elements and scales, the map untouched (R281). -/
def zeroFill (m : Cmd) (D : Desc) (t : Stp) : Eff :=
  { ws := ((List.range (t.n1 - t.n0)).flatMap fun i => D.wrElem (t.n0 + i) 0) ++ D.wrScales t.n0 t.n1 (fun _ => 0) (fun _ => 0),
    gen := m.gen, band := m.band }

/-- Elements converted to the destination, the rows `poi` of its map set, causes recorded (R282). A cause counts for the poison trap
whether or not the destination has a map (R51, log 68). -/
def convert (m : Cmd) (D : Desc) (t : Stp) (src : Nat → FV × Nat) (poi : List Nat := []) : Eff :=
  let q := emit D m.mode m.gen m.band src t.n0 t.n1
  let (rw, fl) := D.record q.rec'
  { ws := q.ws ++ poi.flatMap D.wrPoison ++ rw, gen := q.gen, band := q.band, cause := causes q.rec', flags := fl }

/-- An FP64 element of the view of R41. -/
def Tile.f64 (t : Tile) (i j : Nat) : Nat := (t.cell (2 * i) j).toNat % 2 ^ 32 + (t.cell (2 * i + 1) j).toNat % 2 ^ 32 * 2 ^ 32

/-- The tile with an FP64 element of the view written (R41). -/
def Tile.setF64 (t : Tile) (i j v : Nat) : Tile :=
  (t.setCell (2 * i) j (BitVec.ofNat 56 (v % 2 ^ 32))).setCell (2 * i + 1) j (BitVec.ofNat 56 (v / 2 ^ 32 % 2 ^ 32))

/-- ACCST: rows of the tile as the destination's format reads them (R293). -/
def storeTile (m : Cmd) (D : Desc) (tile : Tile) (t : Stp) : Eff :=
  let at' := fun (n : Nat) => tile.cell (n / D.dim 0) (n % D.dim 0)
  let rows := D.rowsOf t.n0 t.n1
  let carry := if D.fmt = 0x7 then rows.filter fun r => tile.poison.getLsbD (2 * r) || tile.poison.getLsbD (2 * r + 1)
    else rows.filter fun r => tile.poison.getLsbD r
  if D.fmt = 0x7 then
    { ws := ((List.range (t.n1 - t.n0)).flatMap fun i =>
        let n := t.n0 + i
        D.wrElem n (tile.f64 (n / D.dim 0) (n % D.dim 0))) ++ carry.flatMap D.wrPoison, gen := m.gen, band := m.band }
  else if D.fmt ≤ 0x3 then convert m D t (fun n => (FV.ofInt (int56 (at' n).toNat), 0)) carry
  else convert m D t (fun n => (fa56.dec (at' n).toNat, 0)) carry

/-- A cell loaded from an element, and the causes of its row (R292). -/
def Env.loadCell (e : Env) (D : Desc) (n : Nat) : BitVec 56 × Nat :=
  if D.fmt = 0xB then
    let b := e.elem D n
    if b < 2 ^ 56 then (BitVec.ofNat 56 b, 0) else (0, cINV)
  else
    match e.val D n with
    | (.fin s k g, c) =>
      if D.fmt ≤ 0x3 then (BitVec.ofInt 56 ((if s then -(k : Int) else k) * 2 ^ g.toNat), c) else (BitVec.ofNat 56 (rne56 (.fin s k g)).1, c)
    | (_, c) => (0, c ||| cINV)

/-- ACCLD: the first step clears the tile; each loads eight rows (R292). -/
def Env.loadTile (e : Env) (m : Cmd) (D : Desc) (tile : Tile) (t : Stp) : Eff :=
  let tile := if t.n0 = 0 then tile.clear else tile
  let rows := D.rowsOf t.n0 t.n1
  let q := rows.foldl (fun (q : Tile × Nat) r =>
    let lost := if e.poison D r then cLOST else 0
    if D.fmt = 0x7 then
      let u := (List.range (D.dim 0)).foldl (fun u j => u.setF64 r j (e.elem D (r * D.dim 0 + j))) q.1
      ((u.spoil (2 * r) lost).spoil (2 * r + 1) lost, q.2 ||| lost)
    else
      let (u, c) := (List.range (D.dim 0)).foldl (fun (u : Tile × Nat) j =>
        let v := e.loadCell D (r * D.dim 0 + j)
        (u.1.setCell r j v.1, u.2 ||| v.2)) (q.1, lost)
      (u.spoil r c, q.2 ||| c)) (tile, 0)
  { tiles := [(t.acc, q.1)], cause := q.2, gen := m.gen, band := m.band }

/-! ## Products (R42 to R44, R285 to R291) -/

/-- An operand element of a sum: a NaN or an infinity contributes 0 and records INV (R43). -/
def Env.term (e : Env) (D : Desc) (n : Nat) : FV × Nat :=
  match e.val D n with
  | (.fin s k g, c) => (.fin s k g, c)
  | (_, c) => (.fin false 0 0, c ||| cINV)

/-- LOST where a row that K positions `k0` to `k1 - 1` of index `i` lie in is marked (R291). -/
def Env.lost (e : Env) (op : Instr) (D : Desc) (i b k0 k1 : Nat) : Nat :=
  if (List.range ((k1 - 1) / D.dim 0 - k0 / D.dim 0 + 1)).any fun j => e.poison D (matRow op D i b (k0 / D.dim 0 + j)) then cLOST else 0

/-- The elements of index `i` at K positions `k0` to `k1 - 1`, and the causes they record. -/
def Env.vec (e : Env) (op : Instr) (D : Desc) (i b k0 k1 : Nat) : List FV × Nat :=
  let l := (List.range (k1 - k0)).map fun j => e.term D (matElem op D i b (k0 + j))
  (l.map Prod.fst, l.foldl (fun c v => c ||| v.2) (e.lost op D i b k0 k1))

/-- A sum of products, exactly (R42). -/
def dotFin (a b : List FV) : FV := (a.zip b).foldl (fun s p => (s.add false (p.1.mul p.2).1).1) (.fin false 0 0)

/-- A finite value of exponent at least 0, as an integer. -/
def FV.toInt : FV → Int
  | .fin s n e => (if s then -(n : Int) else n) * 2 ^ e.toNat
  | _ => 0

/-- An exact zero is +0. -/
def FV.plus : FV → FV
  | .fin s n e => if n = 0 then .fin false 0 0 else .fin s n e
  | v => v

/-- A cell after a group's sum, and OVF when it was clamped (R40, R42). -/
def addCell (int : Bool) (cell : BitVec 56) (s : FV) : BitVec 56 × Nat :=
  let (v, o) := if int then sat56 (int56 cell.toNat + s.toInt) else rne56 ((fa56.dec cell.toNat).add false s).1.plus
  (BitVec.ofNat 56 v, if o then cOVF else 0)

/-- A row of cells after a group: the dense elements of A, none when the group contributes nothing, the columns of B, the
first cell's column (R42, R286). -/
def Tile.addRow (t : Tile) (int : Bool) (row col : Nat) (a : Option (List FV)) (bs : List (List FV)) : Tile × Nat :=
  match a with
  | none => (t, 0)
  | some a =>
    bs.zipIdx.foldl (fun (q : Tile × Nat) e =>
      let v := addCell int (q.1.cell row (col + e.2)) (dotFin a e.1)
      (q.1.setCell row (col + e.2) v.1, q.2 ||| v.2)) (t, 0)

/-- The dense elements of row `i` of a compressed A, from its metadata; none where a metadata byte is illegal; and the
causes (R286, R291). -/
def Env.dense (e : Env) (op : Instr) (A M : Desc) (i k0 k1 : Nat) : Option (List FV) × Nat :=
  let a := e.vec op A i 0 (k0 / 2) (k1 / 2)
  let md := (List.range ((k1 - k0) / 4)).map fun q => e.elem M (M.dim 0 * i + k0 / 4 + q)
  let lost := e.lost op A i 0 (k0 / 2) (k1 / 2) ||| (if e.poison M i then cLOST else 0)
  if md.any fun b => b / 16 != 0 || decide (b / 4 % 4 ≤ b % 4) then (none, lost ||| cMETA)
  else
    let z : FV := .fin false 0 0
    (some (md.zipIdx.flatMap fun b => (List.range 4).map fun p =>
      if p = b.1 % 4 then a.1.getD (2 * b.2) z else if p = b.1 / 4 % 4 then a.1.getD (2 * b.2 + 1) z else z), a.2 ||| lost)

/-- One batch of a step: rows of A against the columns of B, into the tile at an offset (R285, R287). -/
def Env.batch (e : Env) (op : Instr) (A B : Desc) (M : Option Desc) (t : Stp) (b : Nat) (tile : Tile) : Tile × Nat :=
  let int := A.fmt ≤ 0x1
  let row0 := if isMmab op then 32 * (b / 4) else 0
  let col0 := if isMmab op then 32 * (b % 4) else 0
  let cols := (List.range (min (B.sz 1) (128 * t.tile + 128) - 128 * t.tile)).map fun j => e.vec op B (128 * t.tile + j) b t.n0 t.n1
  let bc := cols.foldl (fun c v => c ||| v.2) 0
  (List.range (A.sz 1)).foldl (fun (q : Tile × Nat) i =>
    let (a, ac) := match M with
      | some M => e.dense op A M i t.n0 t.n1
      | none => let v := e.vec op A i b t.n0 t.n1; (some v.1, v.2)
    let (u, oc) := q.1.addRow int (row0 + i) col0 a (cols.map Prod.fst)
    let c := ac ||| bc ||| oc
    (u.spoil (row0 + i) c, q.2 ||| c)) (tile, 0)

/-- A step of DMMA: one fused multiply-add per product in ascending K (R44, R289). -/
def Env.dmma (e : Env) (m : Cmd) (A B : Desc) (t : Stp) (tile : Tile) : Tile × Nat :=
  let rm := noSr m.mode
  let val := fun (D : Desc) (i k : Nat) => fp64.dec (e.elem D (matElem m.op D i 0 k))
  let cols := (List.range (min (B.sz 1) (128 * t.tile + 128) - 128 * t.tile)).map (128 * t.tile + ·)
  let bc := cols.foldl (fun c j => c ||| e.lost m.op B j 0 t.n0 t.n1) 0
  (List.range (A.sz 1)).foldl (fun (q : Tile × Nat) i =>
    let u := cols.zipIdx.foldl (fun (u : Tile) j =>
      u.setF64 i j.2 ((List.range (t.n1 - t.n0)).foldl (fun acc k =>
        (fp64.deliver { rm } ((val A i (t.n0 + k)).fma (rm = .rdn) (val B j.1 (t.n0 + k)) (fp64.dec acc)).1).1) (u.f64 i j.2))) q.1
    let c := e.lost m.op A i 0 t.n0 t.n1 ||| bc
    ((u.spoil (2 * i) c).spoil (2 * i + 1) c, q.2 ||| c)) (tile, 0)

/-- A step of a product (R285 to R291). -/
def Env.product (e : Env) (m : Cmd) (A B : Desc) (M : Option Desc) (tile : Tile) (t : Stp) : Eff :=
  let (u, c) := if t.clear then (tile.clear, 0)
    else match m.op with
      | .dmma _ _ _ _ => e.dmma m A B t tile
      | _ => (List.range (batchesOf m.op B)).foldl (fun (q : Tile × Nat) b =>
          let (u, c) := e.batch m.op A B M t b q.1
          (u, q.2 ||| c)) (tile, 0)
  { tiles := [(t.acc, u)], cause := c, gen := m.gen, band := m.band }

/-! ## Scout, dodge (R274, R275, R296, R297) -/

/-- A row of the scout pass: its E2M1 values and the exponent of its scale; none where it holds a NaN, an infinity or
poison (R274, R296). -/
def Env.scoutRow (e : Env) (D : Desc) (r : Nat) : Option (List FV × Int) :=
  let vs := (List.range (D.dim 0)).map fun j => (e.val D (r * D.dim 0 + j)).1
  if e.poison D r || vs.any (fun v => match v with
    | .fin _ _ _ => false
    | _ => true) then none
  else
    let (n, g) := largest vs
    let k0 := g + bitLen n - 3
    let k := if n = 0 then 0 else if leMag n g 6 k0 then k0 else k0 + 1
    some (vs.map fun v => match v with
      | .fin s n g => e2m1.dec (e2m1.narrow .rne 0 (.fin s n (g - k))).code
      | v => v, k)

/-- A value times 2^k. -/
def FV.shift (v : FV) (k : Int) : FV :=
  match v with
  | .fin s n e => .fin s n (e + k)
  | v => v

/-- The greatest of some values; none of an empty list. -/
def greatest : List FV → Option FV
  | [] => none
  | v :: r => match greatest r with
    | some w => some (if v.cmp w = .lt then w else v)
    | none => some v

/-- A score (R274). -/
def Env.score (e : Env) (Q K : Desc) (j : Nat) : Nat :=
  let qs := (List.range (Q.dim 1)).map (e.scoutRow Q)
  let ks := (List.range (min (K.dim 1) (128 * j + 128) - 128 * j)).map fun i => e.scoutRow K (128 * j + i)
  if qs.any Option.isNone || ks.any Option.isNone then fp32.infinity false
  else
    let all := qs.flatMap fun q => ks.filterMap fun k => match q, k with
      | some q, some k => some ((dotFin q.1 k.1).shift (q.2 + k.2))
      | _, _ => none
    (fp32.deliver {} ((greatest all).getD (.fin false 0 0)).plus).1

/-- The threshold of DODGE; none where no score is kept (R275). -/
def dodgeAt (mx theta : FV) : Option FV :=
  match theta, mx with
  | .nan _, _ => none
  | .inf a, .inf b => if a == b then some (.inf true) else some (.inf b)
  | .inf a, _ => some (.inf (!a))
  | t, v => some (v.add false t.neg).1

/-- The mask DODGE writes (R275). -/
def Env.dodge (e : Env) (m : Cmd) (S : Desc) : BitVec 256 :=
  let vs := (List.range S.count).map fun j => fp32.dec (e.elem S j)
  let mx := (greatest (vs.filter (!·.isNan))).getD (.inf true)
  match dodgeAt mx (fp32.dec m.theta.toNat) with
  | none => m.kmask
  | some t => vs.zipIdx.foldl (fun k v =>
      if !v.1.isNan && v.1.cmp t != .lt then k ||| BitVec.ofNat 256 (2 ^ v.2) else k) m.kmask

/-! ## Chains (R276, R298, R299) -/

/-- A chain's entries from a tensor; none where an operation word is illegal (R298). -/
def Env.chainOf (e : Env) (P : Desc) : Option (List (Nat × Word)) :=
  let l := (List.range (P.sz 0 / 2)).map fun i => (e.elem P (2 * i), BitVec.ofNat 32 (e.elem P (2 * i + 1)))
  if l.all fun p => decide (p.1 ≤ 13) then some l else none

/-- The operation reads the second source. -/
def readsY (code : Nat) : Bool := [3, 4, 11, 12, 13].contains code

/-- An operation of a chain on FP32 bits (R298, R299). -/
def chainOp (v y : Nat) (o : Nat × Word) : Nat :=
  let d := fun (b : Nat) => fp32.dec b
  let r := fun (x : FV × Nat) => (fp32.deliver {} x.1).1
  let c := o.2.toNat
  let w := BitVec.ofNat 32 v
  match o.1 with
  | 1 => r ((d v).add false (d c))
  | 2 => r ((d v).mul (d c))
  | 3 => r ((d v).add false (d y))
  | 4 => r ((d v).mul (d y))
  | 5 => (fpSelect fp32 false true v c).1
  | 6 => (fpSelect fp32 false false v c).1
  | 7 => (sfFsigm 8 w).1
  | 8 => (sfFexp2 3 w).1
  | 9 => (sfFtanh 7 w).1
  | 10 => (sfFrcp 0 w).1
  | 11 => r ((d v).fma false (d c) (d y))
  | 12 => r ((d v).add false (d y).neg)
  | 13 => y
  | _ => v

/-- A step of CHAIN or CHAIN2 (R299). -/
def Env.chain (e : Env) (m : Cmd) (ops : List (Nat × Word)) (D S : Desc) (T : Option Desc) (t : Stp) : Eff :=
  let asF32 := fun (X : Desc) (n : Nat) => (fp32.deliver {} (e.val X n).1).1
  let rows := D.rowsOf t.n0 t.n1
  let carry := e.marked S rows ++ (match T with
    | some T => e.marked T rows
    | none => [])
  (convert m D t fun n =>
    let y := match T with
      | some T => asF32 T n
      | none => 0
    (fp32.dec (ops.foldl (fun v o => chainOp v y o) (asF32 S n)), 0)).carry D carry

/-! ## Steps (R264, R268, R273) -/

/-- The effect of a step; none for a CHSET of an illegal chain (R298). -/
def Env.effect (e : Env) (k : CtxCore) (m : Cmd) (t : Stp) : Option Eff :=
  let tile := k.tileAt t.acc
  match m.op, m.ds with
  | .cp _ _ _, [D, S] => some (e.copy m D S t)
  | .cpc _ _ _, [D, S] => some ((convert m D t (e.val S)).carry D (e.marked S (D.rowsOf t.n0 t.n1)))
  | .cpz _ _, [D] => some (zeroFill m D t)
  | .accst _ _ _, [D] => some (storeTile m D tile t)
  | .accld _ _ _, [D] => some (e.loadTile m D tile t)
  | .accz _ _, _ => some { tiles := [(t.acc, tile.clear)], gen := m.gen, band := m.band }
  | .chset _ _, [P] => (e.chainOf P).map fun l => { chain := some l, gen := m.gen, band := m.band }
  | .chain _ _ _, [D, S] => some (e.chain m (((k.blkAt m.blk).chain).getD []) D S none t)
  | .chain2 _ _ _, [D, S, T] => some (e.chain m (((k.blkAt m.blk).chain).getD []) D S (some T) t)
  | .scout _ _ _, [S, Q, K] => some { ws := S.wrElem t.n0 (e.score Q K t.n0), gen := m.gen, band := m.band }
  | .dodge _ _ _ d, [S] => some { kreg := some (d.toNat, e.dodge m S), gen := m.gen, band := m.band }
  | _, [A, B] => some (e.product m A B none tile t)
  | _, [A, B, M] => some (e.product m A B (some M) tile t)
  | _, _ => none

/-- The step's writes with global addresses translated (R340). -/
def Eff.place (f : Eff) (pm : Tab Nat Nat) (pages : List Nat) : StepW :=
  let glob := f.ws.filterMap fun w => if w.1 then none else
    match tfind pm (w.2.1 / 4096) with
    | some p => some (p + w.2.1 % 4096, w.2.2)
    | none => none
  { glob, spad := f.ws.filterMap fun w => if w.1 then some w.2 else none, tiles := f.tiles, kreg := f.kreg, chain := f.chain,
    gen := f.gen, band := f.band, cause := f.cause, flags := f.flags, pages }

/-- The command's next step. -/
def Cmd.nextStep (m : Cmd) : Option Stp := m.steps[m.step]?

/-- The command at the head of a queue. -/
def State.headCmd (s : State) (x c : Nat) (q : EngQ) : Option Cmd := (((s.ctxAt x).coreAt c).q q).head?

/-- The state with the head of a queue changed. -/
def State.modCmd (s : State) (x c : Nat) (q : EngQ) (f : Cmd → Cmd) : State :=
  s.modCore x c fun k => k.setQ q (match k.q q with
    | m :: r => f m :: r
    | [] => [])

/-- The engine may begin a step for the bank: its context runs, and no step of the other bank is in progress on it
(R265, R311). -/
def State.engineFree (s : State) (x c : Nat) (q : EngQ) : Bool :=
  s.runs x && !(((s.ctxAt (x / 2 * 2 + (1 - x % 2))).coreAt c).q q).any fun m => m.busy.isSome

/-- The commands that step together: one, or those of a joint command's instance, with their cores (R273). -/
def State.party (s : State) (x c : Nat) (q : EngQ) (m : Cmd) : List (Nat × Cmd) :=
  match m.gang with
  | none => [(c, m)]
  | some _ =>
    let k := s.ctxAt x
    let l := ((k.coreAt c).blkAt m.blk).launch
    k.cores.filterMap fun e => match (e.2.q q).head? with
      | some n => if n.gang = m.gang ∧ n.inst = m.inst ∧ (e.2.blkAt n.blk).launch = l then some (e.1, n) else none
      | none => none

/-- A page of a block stands under the writes of the running command of a queue that `who` selects (R268). -/
def CtxCore.heldBy (k : CtxCore) (who : EngQ → Bool) (bs v : Nat) : Bool :=
  [EngQ.matrix, .copy, .chain, .scout].any fun u => who u && (match (k.q u).head? with
    | some m => m.blk == bs && m.holds v
    | none => false)

/-- A page that a step of a queue's command touches stands under the writes of a command: of any, its own too, where the step reads
the page; of another where it writes it (R268, R269). -/
def CtxCore.pageWaits (k : CtxCore) (q : EngQ) (bs : Nat) (t : Stp) : Bool :=
  (pagesOf (t.rgs.filter (!·.wr))).any (k.heldBy (fun _ => true) bs) || t.pages.any (k.heldBy (· != q) bs)

/-- Sets INFL on pages as the running commands hold them (R180, R268). -/
def CtxCore.setInfl (k : CtxCore) (bs : Nat) (vs : List Nat) : CtxCore :=
  vs.foldl (fun k v => k.modPage bs v fun e => { e with
    infl := k.heldBy (fun _ => true) bs v }) k

/-- A store or atomic that comes before the command in its thread, or an older buffered store of its core, is not yet applied (R266). -/
def State.olderStores (s : State) (x c : Nat) (m : Cmd) : Bool :=
  (s.ctxAt x).infl.any fun e => decide (e.1 < m.mark) && e.2.core == c &&
    (((s.ctxAt x).beforeOf m.mark c m.slot e && e.2.counted) || e.2.buffered) && (match e.2.phase with
      | .applied _ => false
      | .page => false
      | _ => true)

/-- What the translation of a step's pages found: the pages, the fault records by page, a trap. -/
structure Found where
  s    : State
  pm   : Tab Nat (Nat × Bool) := []
  tags : Tab Nat Nat := []
  trap : Option (Nat × Nat) := none
  /-- A page's entry must wait for the host to give up its line (R346). -/
  wait : Bool := false

/-- Translates the global pages of a step, one fault record a page (R200, R209, R211). -/
def Found.page (f : Found) (x c : Nat) (p : GPage) : Found :=
  if f.trap.isSome then f
  else
    let va := BitVec.ofNat 64 p.at'
    let k := f.s.ctxAt x
    let q : XReq := { die := f.s.dieOf x c, root := k.root, user := true, core := some (f.s.physOf x c), rd := p.rd, wr := p.wr }
    match State.viaHerbor q va (f.s.translate q va) with
    | (.ok s pa _ ac, _) => { f with s, pm := (p.pg, pa / 4096 * 4096, ac) :: f.pm }
    | (.wait s, _) => { f with s, wait := true }
    | (.trap cause, _) => { f with trap := some (cause, p.at') }
    | (.flt kind level size, via) =>
      if (tfind f.tags p.pg).isSome then f
      else
        let (s, tag) := f.s.addFault (x / 2) k.root.sid kind level (if via.isSome then .herbor else if p.wr then .engWrite else .engRead)
          va q.die (if via.isSome then 0x1FF else f.s.physOf x c % 128) size
        { f with s, tags := (p.pg, tag) :: f.tags }

/-- The lines a step touches enter L2, and count where AC is set (R215, R229). -/
def Found.fill (f : Found) (x c : Nat) (t : Stp) : State :=
  (t.rgs.filter (!·.sp)).foldl (fun s r =>
    (List.range (r.hi / lineSize - r.lo / lineSize + 1)).foldl (fun s i =>
      let a := (r.lo / lineSize + i) * lineSize
      match tfind f.pm (a / 4096) with
      | some (p, ac) => if regionOf p == some .herbor then s else s.ensureLine ((p + a % 4096) / lineSize) (s.dieOf x c) (x / 2) ac
      | none => s) s) f.s

/-- What was held at its port in interval `port` has been released by a commit (R325). -/
def Ckpt.released (c : Ckpt) : Option Nat → Bool
  | some e => decide (e < c.done)
  | none => false

/-- A step whose write leaves the package or goes to host memory may go on: no forced boundary, or the checkpoint it waits
for has committed (R325). -/
def State.stepPort (s : State) (x : Nat) (m : Cmd) (out : Bool) : Bool :=
  let c := (s.ctxAt x).ckpt
  !out || !c.on || c.released m.port

/-- A member's command as it waits at its port: in the interval in which it was first held, or in this one where its gang must wait though
it was released (R273, R325). -/
def Cmd.hold (m : Cmd) (c : Ckpt) : Cmd := { m with port := some (if c.released m.port then c.intv else m.port.getD c.intv) }

/-- A trap of a command: it is marked, and the trap recorded (R310, R316). -/
def State.cmdTrap (s : State) (x c : Nat) (q : EngQ) (m : Cmd) (cause : Nat) (tval : Dword) (late : Bool := false) : State :=
  (s.modCmd x c q fun m => { m with trapped := true }).unitTrap x c m.slot (2 + engineOf q m) m.pc cause tval late

/-- The first handle field of a CHSET, CHAIN or CHAIN2 (R313). -/
def headHandle : Instr → Nat
  | .chset _ h => h.toNat
  | .chain _ d _ | .chain2 _ d _ => d.toNat
  | _ => 0

/-- A CHAIN before any CHSET of its block, or with an operation on y under CHAIN (R276, R299). -/
def chainBad (k : CtxCore) (m : Cmd) : Bool :=
  let c := (k.blkAt m.blk).chain
  match m.op with
  | .chain _ _ _ => (match c with
    | some l => l.any fun o => readsY o.1
    | none => true)
  | .chain2 _ _ _ => c.isNone
  | _ => false

/-- A sequencer ordered to park: STATE 2, unless it already waits (R265, R311). -/
def Cmd.parked (m : Cmd) : Cmd := if m.state = 0 then { m with state := 2 } else m

/-- The time of a command's global writes stands with the counter it decrements, for the threads of its block (R159). -/
def Ctx.noteEv (k : Ctx) (c n : Nat) (m : Cmd) : Ctx :=
  match laterOpt (tfind k.evE (n, c, m.blk)) m.time with
  | some t => { k with evE := tput (n, c, m.blk) t k.evE }
  | none => k

/-- The head command of a queue ends: its counter falls, its batch loses it, a DODGE's register is no longer pending
(R158, R159, R262, R267, R275, R290). The next one starts no step where the bank does not run (R265). -/
def State.endCmd (s : State) (x c : Nat) (q : EngQ) : State :=
  match s.headCmd x c q with
  | none => s
  | some m =>
    let t := Tid.cmp x c m.slot
    let next := fun (l : List Cmd) => match l with
      | n :: r => (if s.runs x then n else n.parked) :: r
      | [] => []
    let s := s.modCore x c fun k => (k.setQ q (next (k.q q).tail)).setInfl m.blk (m.steps.flatMap Stp.wpages).eraseDups
    let s := if q = .copy then s.modThr t fun th =>
        let l := th.par.batches.map fun (b : Batch) => if b.num = m.batch then { b with left := b.left - 1 } else b
        { th with par := { th.par with batches := l } } else s
    let s := match m.op with
      | .dodge _ _ _ d => s.modThr t (·.unhang [.k d.toNat])
      | _ => s
    match m.hints.event with
    | some n => (s.modCtx x (·.noteEv c n m)).evSub x n 1
    | none => s

/-- One member begins its step: its pages are pinned, the pages it writes stand under its writes, and it computes (R264,
R268). -/
def State.startStep (s : State) (x c : Nat) (q : EngQ) (m : Cmd) (t : Stp) (pm : Tab Nat Nat) : State :=
  match ({ s, x, c, blk := m.blk, pm : Env }).effect ((s.ctxAt x).coreAt c) m t with
  | none => s.cmdTrap x c q m 0x27 (operandVal 5 (headHandle m.op))
  | some f =>
    let s := s.modCmd x c q fun m => { m with state := 0, busy := some (f.place pm t.pages) }
    s.modCore x c fun k =>
      (t.pages.foldl (fun k v => k.modPage m.blk v fun e => { e with pin := e.pin + 1, ref := true }) k).setInfl m.blk t.wpages

/-- The members of a step, each with its step: none when they stand at different places. -/
def stepsOf (l : List (Nat × Cmd)) : Option (List (Nat × Cmd × Stp)) :=
  l.mapM fun e => e.2.nextStep.map fun t => (e.1, e.2, t)

/-- Begins a step of the members, or leaves them where they wait (R209, R266, R268, R273, R325). -/
def State.beginStep (s : State) (x : Nat) (q : EngQ) (l : List (Nat × Cmd × Stp)) : State :=
  let core := fun (c : Nat) => (s.ctxAt x).coreAt c
  let gone := fun (e : Nat × Cmd × Stp) => e.2.2.pages.filter fun v => !((core e.1).page e.2.1.blk v).res
  let rest := if l.length = 1 then 0 else 3
  if l.any fun e => !(gone e).isEmpty then
    l.foldl (fun s e =>
      let s := (gone e).foldl (fun s v => s.wantPage x e.1 e.2.1.blk v) s
      s.modCmd x e.1 q fun m => { m with state := if (gone e).isEmpty then rest else 4 }) s
  else if l.any fun e => (core e.1).pageWaits q e.2.1.blk e.2.2 || e.2.2.pages.any fun v =>
      decide (63 ≤ ((core e.1).page e.2.1.blk v).pin) || (e.2.2.wpages.contains v && ((core e.1).page e.2.1.blk v).pin != 0) then
    l.foldl (fun s e => s.modCmd x e.1 q fun m => { m with state := 4 }) s
  else if l.any fun e => e.2.2.rgs.any (fun r => !r.sp && !r.wr) && s.olderStores x e.1 e.2.1 then s
  else
    let f := l.foldl (fun (f : Found) e => e.2.2.gpages.foldl (fun f p => f.page x e.1 p) f) { s }
    match f.trap, l.head? with
    | some (cause, va), some e => f.s.cmdTrap x e.1 q e.2.1 cause (BitVec.ofNat 64 va)
    | _, _ =>
      if f.wait then f.s
      else if !f.tags.isEmpty then
        l.foldl (fun s e =>
          let tags := e.2.2.gpages.filterMap fun p => tfind f.tags p.pg
          s.modCmd x e.1 q fun m => { m with state := if tags.isEmpty then rest else 1, tags := tags.eraseDups }) f.s
      else
        let out := fun (t : Stp) => t.gpages.any fun p => p.wr && (match tfind f.pm p.pg with
          | some (pa, _) => regionOf pa == some .herbor || regionOf pa == some .host
          | none => false)
        if l.any fun e => !f.s.stepPort x e.2.1 (out e.2.2) then
          (l.foldl (fun s e => if out e.2.2 then s.modCmd x e.1 q (·.hold (s.ctxAt x).ckpt) else s) f.s).modCtx x
              fun k => { k with ckpt := { k.ckpt with due := true } }
        else
          let pm := f.pm.map fun e => (e.1, e.2.1)
          l.foldl (fun s e => s.startStep x e.1 q e.2.1 e.2.2 pm) (l.foldl (fun s e => ({ f with s } : Found).fill x e.1 e.2.2) f.s)

/-- ENGINE_STEP: the command at the head of a queue begins its next step, with the other members of its gang; one with no
step left ends, the other members at acts of their own (R262, R264, R272, R273, R276, R288, R302). -/
def execEngineStep (x c : Nat) (q : EngQ) (s : State) : Out :=
  match s.headCmd x c q with
  | none => .next s
  | some m =>
    let l := s.party x c q m
    if m.over && !m.trapped then .next (s.endCmd x c q)
    else if !(l.all fun e => s.engineFree x e.1 q) || (m.gang.isSome && !m.freed) ||
        (l.any fun e => e.2.busy.isSome || !e.2.tags.isEmpty || e.2.step != m.step) then .next s
    else if m.step = 0 ∧ chainBad ((s.ctxAt x).coreAt c) m = true then .next (s.cmdTrap x c q m 0x27 (operandVal 5 (headHandle m.op)))
    else
      match stepsOf l with
      | none => .next (s.endCmd x c q)
      | some l => .next (s.beginStep x q l)

/-! ## Retiring a step (R51, R53, R234, R264) -/

/-- A byte with masked bits written. -/
def putBits (old mask v : Byte) : Byte := (old &&& ~~~mask) ||| (v &&& mask)

/-- The scratchpad writes of a step. -/
def State.spadWrites (s : State) (x c bs : Nat) (l : List (Nat × Byte × Byte)) : State :=
  l.foldl (fun s w => s.spWrite x c bs w.1 [putBits (s.spByte x c bs w.1) w.2.1 w.2.2]) s

/-- The global writes of a step on core `core`, gathered by 64-byte line and applied at home; answers the latest wts. Another package
takes those to its memory (R229, R266, R325, R340). -/
def State.globWrites (s : State) (who : Who) (core : Nat) (l : List (Nat × Byte × Byte)) : State × Option (BitVec 24) :=
  ((l.map fun w => w.1 / 64).eraseDups).foldl (fun (q : State × Option (BitVec 24)) ln =>
    let ws := l.filter fun w => w.1 / 64 = ln
    let lo := ((ws.map Prod.fst).min?).getD 0
    let hi := ((ws.map Prod.fst).max?).getD 0
    let far := regionOf lo == some .herbor
    let old := if far then q.1.farRead lo (hi - lo + 1) else q.1.curRead lo (hi - lo + 1)
    let b := ws.foldl (fun b w => b.set (w.1 - lo) (putBits (b.getD (w.1 - lo) 0) w.2.1 w.2.2)) old
    if far then (q.1.farWrite lo b, q.2)
    else
      let (s, w) := q.1.homeWrite1 who (some (q.1.coreAt core).lt) lo b
      (s, laterOpt q.2 (some w))) (s, none)

/-- One member's step has made its global writes, the latest at `time`: its other writes are made, its pins released (R185, R264,
R268). -/
def State.stepDone (s : State) (x c : Nat) (q : EngQ) (m : Cmd) (w : StepW) (time : Option (BitVec 24)) : State :=
  let t := Tid.cmp x c m.slot
  let core := s.physOf x c
  let s := s.spadWrites x c m.blk w.spad
  let s := match time with
    | some v => (s.modPhys core fun k => { k with engT := later k.engT v }).modThr t fun th =>
        let l := th.par.batches.map fun (b : Batch) => if q = EngQ.copy ∧ b.num = m.batch then { b with time := laterOpt b.time time } else b
        { th with par := { th.par with batches := l } }
    | none => s
  let s := s.modCore x c fun k => w.tiles.foldl (fun k e => k.setTile e.1 { e.2 with queue := (k.tileAt e.1).queue, owner := (k.tileAt e.1).owner }) k
  let s := match w.kreg with
    | some (n, v) => s.modThr t (·.setK n v)
    | none => s
  let s := match w.chain with
    | some l => s.modBlk x c m.blk fun b => { b with chain := some l }
    | none => s
  let s := if w.flags = 0 then s else s.modThr t fun th => { th with fpflags := th.fpflags ||| BitVec.ofNat 32 w.flags }
  let s := s.modCmd x c q fun m => { m with step := m.step + 1, busy := none, port := none, gen := w.gen, band := w.band, tags := [],
                                            time := laterOpt m.time time, state := if s.runs x then 0 else 2 }
  s.modCore x c fun k =>
    (w.pages.foldl (fun k v => k.modPage m.blk v fun e => { e with pin := e.pin - 1 }) k).setInfl m.blk w.pages

/-- The image of the last committed cut, in which the command stands before the step, has it past the step (R325). -/
def State.stepInImage (s : State) (x c : Nat) (q : EngQ) (m : Cmd) (w : StepW) (time : Option (BitVec 24)) : State :=
  s.inImage x fun s =>
    match s.headCmd x c q with
    | some n => if n.slot = m.slot ∧ n.pc = m.pc ∧ n.mark = m.mark ∧ n.step = m.step then
        s.stepDone x c q n { w with pages := [], spad := w.spad.filter fun b => (((s.ctxAt x).coreAt c).page n.blk (b.1 / pageSize)).res } time else s
    | none => s

/-- One member's step retires: its writes are performed. One that was held over the last committed cut is done in that cut's image too, and
its writes stand for good, so that no rollback makes it again (R264, R268, R325). -/
def State.retireStep (s : State) (x c : Nat) (q : EngQ) (m : Cmd) (w : StepW) : State :=
  let (s', time) := s.globWrites (.bank x (m.port.getD (s.ctxAt x).ckpt.intv)) (s.physOf x c) w.glob
  let s' := s'.stepDone x c q m w time
  if m.port.isSome then s'.stepInImage x c q m w time else s'

/-- After its step has retired, a command raises the poison trap of an enabled cause, or, where `last` says that this act is its
own, ends with its last step (R51, R264, R302, R312). -/
def State.afterStep (s : State) (x c : Nat) (q : EngQ) (m : Cmd) (w : StepW) (last : Bool) : State :=
  if w.cause &&& fpPtrap m.fpmode ≠ 0 then s.cmdTrap x c q m 0x2B (BitVec.ofNat 64 w.cause) (late := true)
  else if last && decide (m.steps.length ≤ m.step + 1) then s.endCmd x c q else s

/-- STEP_RETIRE: a step's writes are performed, in every member of a gang at once, as soon as the host holds no line of them
(R264, R273, R346). Of a gang's last step, the other members' counters fall at acts of their own (R302). -/
def execStepRetire (x c : Nat) (q : EngQ) (s : State) : Out :=
  match s.headCmd x c q with
  | none => .next s
  | some m =>
    let l := (s.party x c q m).filterMap fun e => e.2.busy.map fun w => (e.1, e.2, w)
    match s.claimAll (l.flatMap fun e => e.2.2.glob.map fun w => w.1 / lineSize).eraseDups with
    | (s, false) => .next s
    | (s, true) =>
      let s := l.foldl (fun s e => s.retireStep x e.1 q e.2.1 e.2.2) s
      .next (l.foldl (fun s e => s.afterStep x e.1 q e.2.1 e.2.2 (e.1 == c)) s)

/-! ## The rendezvous (R272) -/

/-- The function code of an instruction of major 0x3B (R278). -/
def fnOf : Instr → Nat
  | .mma _ _ _ _ => 0
  | .mmas _ _ _ _ => 1
  | .mmab _ _ _ _ => 2
  | .mmam _ _ _ _ => 3
  | .mmaz _ _ _ _ => 4
  | _ => 5

/-- What the commands of an instance must agree in: FN, the captured B, the steps, K and N (R272). -/
def Cmd.sig (m : Cmd) : Nat × BitVec 512 × Nat × Nat × Nat :=
  let B := Desc.of (m.descs.getD 1 0)
  (fnOf m.op, m.descs.getD 1 0, m.steps.length, redLen m.op B, B.sz 1)

/-- GANG_ARRIVAL: the joint command at the head of a core's matrix queue arrives at its gang's latch; the last arrival
releases them all, or is a mismatch (R272). -/
def execGangArrival (x c : Nat) (s : State) : Out :=
  match s.headCmd x c .matrix with
  | none => .next s
  | some m =>
    match m.gang with
    | none => .next s
    | some g =>
      if m.inst.isSome || !s.engineFree x c .matrix then .next s
      else
        let k := s.ctxAt x
        let b := (k.coreAt c).blkAt m.blk
        let n := b.joint
        let la := k.launchAt b.launch
        let count := tget 0 la.latch (g, n) + 1
        let here := s.party x c .matrix { m with inst := some n }
        let full := decide (grpCount (tget 0 la.grp g) ≤ count)
        if full && here.any (fun e => e.2.sig != m.sig) then .next (s.cmdTrap x c .matrix m 0x29 (BitVec.ofNat 64 g))
        else
          let s := (s.modBlk x c m.blk fun b => { b with joint := n + 1 }).modLaunch x b.launch
            fun a => { a with latch := tput (g, n) count a.latch }
          let s := s.modCmd x c .matrix fun m => { m with inst := some n, state := 3, freed := full }
          .next (if full then here.foldl (fun s e => s.modCmd x e.1 .matrix fun m => { m with freed := true }) s else s)

end Sys2Proof.Machine
end

