-- ==== Sys2Proof/Machine/Halt.lean ====
section
/-! DEFINITION. Sys2Proof/Machine/Halt.lean: the stop-record area, the stop of a partition, thread items, RDTS, WRTS and
RESUME (R95 to R97, R311 to R319). -/

namespace Sys2Proof.Machine

/-! ## The pieces of the stop-record area (R314 to R316) -/

/-- The header; zero for an image of a context that is not halted (R315). -/
def Ctx.header (k : Ctx) : List Byte :=
  match k.halt with
  | none => List.replicate 32 0
  | some h =>
    let t := h.trap
    leBytes (t.tval ++ t.pc ++ 0#7 ++ BitVec.ofNat 8 t.cause ++ BitVec.ofNat 4 t.unit ++ BitVec.ofNat 9 t.core ++
      BitVec.ofNat 10 t.slot ++ 0#17 ++ BitVec.ofNat 16 h.ntrap ++ k.hseq ++ 0#31 ++ 1#1).toNat 32

/-- The entries of a table of the context, one after another. -/
def tableBytes {n : Nat} (t : Tab Nat (BitVec n)) (count : Nat) : List Byte :=
  (List.range count).flatMap fun i => leBytes (tget 0 t i).toNat (n / 8)

/-- The restart vector of a running command (R265). -/
def Cmd.restart (m : Cmd) (e : Nat) : BitVec 256 :=
  let iv := match m.nextStep with
    | some t => t.iv
    | none => []
  let i := fun (d : Nat) => BitVec.ofNat 32 (iv.getD d 0)
  BitVec.ofNat 32 m.step ++ i 4 ++ i 3 ++ i 2 ++ i 1 ++ i 0 ++ m.gen ++ BitVec.ofNat 8 e ++ 0#8 ++ 0#12 ++ BitVec.ofNat 4 m.state

/-- A captured hint slot in the layout of THX (R316). -/
def hintBytes (h : Option (BitVec 23)) : List Byte :=
  leBytes (match h with
    | some p => 2 ^ 31 + p.toNat
    | none => 0) 4

/-- A sequencer record (R316). -/
def Cmd.recBytes (m : Cmd) (e : Nat) : List Byte :=
  leBytes (m.restart e).toNat 32 ++ leBytes (m.trapped.toNat + 2 * m.discard.toNat) 4 ++ leBytes ((encode m.op).getD 0).toNat 4 ++
  hintBytes m.hints.hx ++ hintBytes m.hints.hm ++ hintBytes m.hints.he ++ hintBytes m.hints.hs ++ leBytes m.fpmode.toNat 4 ++
  List.replicate 4 0 ++ ((List.range 3).flatMap fun i => leBytes (m.descs.getD i 0).toNat 64) ++ leBytes m.kmask.toNat 32

/-- The offset of core `c`'s block (R314). -/
def areaCore (c : Nat) : Nat := 0x8000 + 0x40000 * c

/-- The operand log holds an access of the thread (R95, R207). -/
def Ctx.replays (k : Ctx) (c slot : Nat) : Bool :=
  k.infl.any fun e => e.2.ofThread c slot && (match e.2.phase, e.2.op with
    | _, .illegalInstruction _ => false
    | .logged _, _ | .replay, _ => true
    | _, _ => false)

/-- The core holds any state of the context (R314). -/
def CtxCore.inUse (u : CtxCore) : Bool :=
  !u.blocks.isEmpty || !u.threads.isEmpty || !u.stt.isEmpty || !u.xfers.isEmpty || u.tiles.any (fun e => e.2 != {}) ||
  [EngQ.matrix, .copy, .chain, .scout].any fun q => !(u.q q).isEmpty

/-- The core summary (R314). -/
def Ctx.summary (k : Ctx) (c : Nat) : List Byte :=
  let u := k.coreAt c
  leBytes (u.inUse.toNat + 256 * u.blocks.length + 65536 * (u.threads.filter fun e => k.replays c e.1).length) 4

/-- An STT entry as a stop record or an image holds it (R180). -/
def SttE.bits (e : SttE) (bs v : Nat) : BitVec 128 :=
  BitVec.ofNat 6 bs ++ BitVec.ofNat 9 v ++ 1#1 ++ BitVec.ofBool e.res ++ BitVec.ofBool e.dirty ++ BitVec.ofBool e.infl ++
  BitVec.ofBool e.fix ++ BitVec.ofBool e.zero ++ BitVec.ofBool e.ref ++ BitVec.ofNat 6 e.pin ++ BitVec.ofNat 9 e.frame ++ e.baddr ++
  0#45

/-- The entry of a transfer's page. -/
def Ctx.xferBits (k : Ctx) (c : Nat) (t : Xfer) : BitVec 128 := ((k.coreAt (t.home.getD c)).page t.bs t.vpn).bits t.bs t.vpn

/-- The Fixer's record: the transfers begun, and the entry and address of a failed one (R186, R314). -/
def Ctx.fixerRec (k : Ctx) (c : Nat) : List Byte :=
  let u := k.coreAt c
  let bad := u.failed.map fun t => (k.xferBits c t, backAddr ((k.coreAt (t.home.getD c)).page t.bs t.vpn).baddr)
  (List.range 256).map (Config.fixerByte (u.xfers.map (k.xferBits c)) bad)

/-- The records of a core, but for those whose layout within their bytes no rule gives. -/
def Ctx.coreRecs (k : Ctx) (c : Nat) : List (Nat × List Byte) :=
  (areaCore c, k.summary c) :: (areaCore c + 0xB00, k.fixerRec c) :: [EngQ.matrix, .copy, .chain, .scout].filterMap fun q => match (k.coreAt c).q q with
    | m :: _ => some (areaCore c + 0x100 + 0x200 * engineOf q m, m.recBytes (engineOf q m))
    | [] => none

/-- The records of a core whose layout within their bytes no rule gives: the pond's, the copy batches'. -/
def CtxCore.openRecs (u : CtxCore) (c : Nat) : List (Nat × Nat) :=
  let batches := (u.threads.map fun e => e.2.par.batches.length).sum
  (areaCore c + 0x1000, 16 * (u.threads.filter fun e => e.2.live).length) ::
    (List.range batches).map fun i => (areaCore c + 0x5000 + 16 * i, 16)

/-- The pieces of an area for context `k` (R314), with the state after drawing the bytes no rule states. -/
def State.areaOf (s : State) (k : Ctx) : State × List (Nat × List Byte) :=
  let fixed := [(0, k.header), (0x20, tableBytes k.bind 64), (0x1000, tableBytes k.grp 256), (0x2000, tableBytes k.td 256)]
  k.cores.foldl (fun (q : State × List (Nat × List Byte)) e =>
    let (s, o) := (e.2.openRecs e.1).foldl (fun (q : State × List (Nat × List Byte)) r =>
      let (s, b) := q.1.freeList r.2
      (s, q.2 ++ [(r.1, b)])) (q.1, [])
    (s, q.2 ++ k.coreRecs e.1 ++ o)) (s, fixed)

/-- Where, in a core's block of an image, the STT, the barrier and ticket state, the operand log and the accumulators stand; the
manual gives them no place, and for whole accumulators no room (R314, log 79). -/
def areaStt : Nat := 0x25000
/-- Of the barrier and ticket state: 64 bytes a block slot. -/
def areaBars : Nat := 0x29000
/-- Of the operand log: 64 bytes an entry. -/
def areaLog : Nat := 0x2A000
/-- Of the accumulators: 0x2400 bytes a tile. -/
def areaTiles : Nat := 0x2E000

/-- The pieces that a core adds where the area serves as a spill or checkpoint image (R180, R314): the STT as R180 lays it out, and
the sizes of those of which no rule gives the layout. -/
def Ctx.imageRecs (k : Ctx) (c : Nat) : List (Nat × List Byte) × List (Nat × Nat) :=
  let u := k.coreAt c
  let log := (k.infl.filter fun e => e.2.core == c && k.replays c e.2.slot).length
  (u.stt.zipIdx.map fun e => (areaCore c + areaStt + 16 * e.2, leBytes (e.1.2.bits e.1.1.1 e.1.1.2).toNat 16),
   (u.blocks.map fun b => (areaCore c + areaBars + 64 * b.1, 64)) ++ (List.range log).map (fun i => (areaCore c + areaLog + 64 * i, 64)) ++
     u.tiles.map fun t => (areaCore c + areaTiles + 0x2400 * t.1, 0x2400))

/-- The pieces of an image beyond those of a halt's area, with the state after drawing the bytes no rule states (R314). -/
def State.imageOf (s : State) (k : Ctx) : State × List (Nat × List Byte) :=
  k.cores.foldl (fun (q : State × List (Nat × List Byte)) e =>
    let (fixed, o) := k.imageRecs e.1
    o.foldl (fun (q : State × List (Nat × List Byte)) r =>
      let (s, b) := q.1.freeList r.2
      (s, q.2 ++ [(r.1, b)])) (q.1, q.2 ++ fixed)) (s, [])

/-! ## The area in memory (R314) -/

/-- Bytes of an area. -/
abbrev areaSize : Nat := 2 ^ 27 + 2 ^ 15

/-- The area of a bank: SRAREA; none while it reads as zero (R314, R352). -/
def State.areaBase (s : State) (x : Nat) : Option Nat :=
  let a := (tget 0 (s.winAt (s.partDie (x / 2))).srarea x).toNat
  if a = 0 then none else some a

/-- Every byte of an area lies in memory: of the package, the host or another package (R193). -/
def areaThere (a : Nat) : Bool := memAddr a && regionOf a == regionOf (a + areaSize - 1)

/-- The lines of `n` bytes at `a` that may hold or be read as anything but zero. -/
def State.usedLines (s : State) (a n : Nat) : List Nat :=
  let inside := fun (l : Nat) => decide (a / lineSize ≤ l) && decide (l < (a + n) / lineSize)
  (((s.mem.map fun e => e.1 / lineSize) ++ (s.far.map fun e => e.1 / lineSize) ++ s.coh.l2.map Prod.fst).filter inside).eraseDups

/-- Writes the pieces of an area. -/
def State.putPieces (s : State) (a : Nat) (l : List (Nat × List Byte)) : State := l.foldl (fun s e => s.hwWrite (a + e.1) e.2) s

/-- Writes an area: every byte no piece assigns is zero (R314). -/
def State.putArea (s : State) (a : Nat) (l : List (Nat × List Byte)) : State :=
  let s := if regionOf a == some .herbor then s.farWrite a (List.replicate areaSize 0)
    else (s.usedLines a areaSize).foldl (fun s ln => (s.homeWrite1 .nobody none (lineSize * ln) (List.replicate lineSize 0)).1) s
  s.putPieces a l

/-! ## The stop (R311, R312) -/

/-- A command of the bank has a step that had begun writing. -/
def Ctx.stepping (k : Ctx) : Bool :=
  k.cores.any fun e => [EngQ.matrix, .copy, .chain, .scout].any fun q => (e.2.q q).any fun m => m.busy.isSome

/-- The core with `f` applied to the command at the head of every queue. -/
def CtxCore.mapHeads (k : CtxCore) (f : Cmd → Cmd) : CtxCore :=
  [EngQ.matrix, .copy, .chain, .scout].foldl (fun k q => k.setQ q (match k.q q with
    | m :: r => f m :: r
    | [] => [])) k

/-- The bank with `f` applied to every core. -/
def Ctx.mapCores (k : Ctx) (f : CtxCore → CtxCore) : Ctx := { k with cores := k.cores.map fun e => (e.1, f e.2) }

/-- Every unit of a halted bank has stopped: the area is written, and the partition-halted interrupt raised (R311, R314); or the
address of an area that is no memory. While the host holds a line of the area, the stop waits, and PARTITION_STOPPED is made again once it
has given the line up (R346). -/
def State.stopNow (s : State) (x : Nat) : State ⊕ Nat :=
  let k := s.ctxAt x
  let k := { k.mapCores (·.mapHeads Cmd.parked) with halt := k.halt.map fun h => { h with stopped := true } }
  match s.areaBase x with
  | none => .inl ((s.setCtx x { k with area := [] }).raiseIrq (s.partDie (x / 2)) (x / 2))
  | some a =>
    if !areaThere a then .inr a
    else if let ln :: l := s.heldIn a areaSize then .inl ((s.claimAll (ln :: l)).1.holdFor ln (.partitionStopped (x / 2)))
    else
      let (s, l) := s.areaOf k
      .inl (((s.setCtx x { k with area := l }).putArea a l).raiseIrq (s.partDie (x / 2)) (x / 2))

/-- The outcome of a stop. -/
def stopOut : State ⊕ Nat → Out
  | .inl s => .next s
  | .inr a => .fault (.noSuchAddress a)

/-- The banks of a partition that a halt has struck and that have not stopped: of the running context, and of one whose save the Fixer
could not make or that is loaded (R186, R311, R316). -/
def State.stopping (s : State) (p : Nat) : List Nat :=
  [2 * p, 2 * p + 1].filter fun x =>
    ((s.partAt p).active == some (x % 2) || (s.ctxAt x).st == .spill || (s.ctxAt x).st == .ready) && (match (s.ctxAt x).halt with
      | some h => !h.stopped
      | none => false)

/-- PARTITION_STOPPED: every unit has stopped and every step that had begun writing has retired; the area is written, and
the partition-halted interrupt raised (R311, R314). -/
def execPartitionStopped (p : Nat) (s : State) : Out :=
  let l := s.stopping p
  if l.any fun x => (s.ctxAt x).stepping then .next s
  else l.foldl (fun r x => match r with
    | .next s => stopOut (s.stopNow x)
    | e => e) (.next s)

/-! ## Thread items (R95, R96) -/

/-- The words an RDTS or WRTS names: partition, core, slot, class, index. -/
structure Item where
  p    : Nat
  c    : Nat
  slot : Nat
  z    : Nat
  cls  : Nat
  idx  : Nat

/-- The fields of gs and gs + 1 (R95). -/
def Item.of (a b : Word) : Item where
  p := (a.extractLsb' 29 3).toNat
  c := (a.extractLsb' 20 9).toNat
  slot := (a.extractLsb' 0 10).toNat
  z := (a.extractLsb' 10 10).toNat
  cls := (b.extractLsb' 24 8).toNat
  idx := (b.extractLsb' 0 24).toNat

/-- The halted bank of a partition: every unit of it has stopped (R95, R311). -/
def State.haltedBank (s : State) (p : Nat) : Option Nat :=
  match (s.partAt p).active with
  | none => none
  | some b =>
    match (s.ctxAt (2 * p + b)).halt with
    | some h => if h.stopped then some (2 * p + b) else none
    | none => none

/-- Indices of an item class for a thread: how many there are (R95). -/
def itemCount (th : Thread) : Nat → Nat
  | 0 => th.alloc
  | 1 => 1
  | 2 => 16
  | 3 => 16
  | 4 => 64
  | 5 => 2
  | 6 => 4
  | 7 => 16
  | 8 => 256
  | 9 => 1
  | _ => 0

/-- The item is a destination of a word that issued before the halt and is still in flight (R96, R311); one that waits behind a
logged access of its thread waits on the replay (R208). -/
def Ctx.inFlight (k : Ctx) (c slot : Nat) (d : Nat → Bool) : Bool :=
  k.infl.any (fun e => e.2.ofThread c slot && (match e.2.phase, e.2.pa with
    | .logged _, _ | .replay, _ | .applied _, _ | .issued, none => false
    | _, _ => (dests e.2.op).any d)) ||
  k.msgs.any fun e => e.2.src.isNone && e.2.core == c && e.2.slot == slot && d e.2.gd

/-- WAIT of thread status; 0 in a wait that the table does not name (R95, log 86). -/
def Thread.waitCode (th : Thread) : Nat :=
  match th.par.place with
  | .exited => 3
  | .parked (.join _) | .parked .team => 1
  | .parked .split | .bundle _ | .pond _ _ _ => match th.par.held with
    | some .split | none => 0
    | some _ => 2
  | .parked _ => 2

/-- Thread status (R95). -/
def Ctx.thrStatus (k : Ctx) (c slot : Nat) (th : Thread) : Word :=
  BitVec.ofNat 32 (8 * (k.inFlight c slot fun _ => true).toNat + 4 * (k.replays c slot).toNat + th.waitCode)

/-- Half `w` of a 64-bit register. -/
def halfOf (v : Dword) (w : Nat) : Word := v.extractLsb' (32 * w) 32

/-- A 64-bit register with half `w` at `v`. -/
def putHalf (r : Dword) (w : Nat) (v : Word) : Dword := if w = 0 then r.extractLsb' 32 32 ++ v else v ++ r.extractLsb' 0 32

/-- A slot of the pending-hint register (R95). -/
def Hints.slot (h : Hints) : Nat → Option (BitVec 23)
  | 0 => h.hx
  | 1 => h.hm
  | 2 => h.he
  | _ => h.hs

/-- The pending-hint register with a slot at `v`. -/
def Hints.setSlot (h : Hints) (i : Nat) (v : Option (BitVec 23)) : Hints :=
  match i with
  | 0 => { h with hx := v }
  | 1 => { h with hm := v }
  | 2 => { h with he := v }
  | _ => { h with hs := v }

/-- A slot as software reads it, in the layout of THX: V, and the payload, of a slot that holds no hint too (R95). -/
def Hints.item (h : Hints) (i : Nat) : Word :=
  match h.slot i with
  | some p => 1#1 ++ 0#8 ++ p
  | none => 0#9 ++ tget 0 h.idle i

/-- The register with a slot written as software writes it (R95). -/
def Hints.putItem (h : Hints) (i : Nat) (v : Word) : Hints :=
  let p := v.extractLsb' 0 23
  if v.getLsbD 31 then { h.setSlot i (some p) with idle := tdel i h.idle }
  else { h.setSlot i none with idle := if p = 0 then tdel i h.idle else tput i p h.idle }

/-- The value of an item of a thread (R95). -/
def State.readItem (s : State) (x : Nat) (i : Item) : Word :=
  let t := Tid.cmp x i.c i.slot
  let th := s.thr t
  match i.cls with
  | 0 => th.gr i.idx
  | 1 => BitVec.ofNat 32 (((List.range 7).map fun n => if th.pr n then 2 ^ n else 0).sum)
  | 2 => halfOf (th.ar (i.idx / 2)) (i.idx % 2)
  | 3 => halfOf (th.mr (i.idx / 2)) (i.idx % 2)
  | 4 => (th.kr (i.idx / 8)).extractLsb' (32 * (i.idx % 8)) 32
  | 5 => if i.idx = 0 then th.pc.extractLsb' 0 32 else (th.pc.extractLsb' 32 25).zeroExtend 32
  | 6 => th.hints.item i.idx
  | 7 => BitVec.ofNat 32 ((th.par.armed.getLsbD i.idx).toNat + 2 * (th.par.arrived.getLsbD i.idx).toNat)
  | 8 => s.csrUser t i.idx
  | _ => (s.ctxAt x).thrStatus i.c i.slot th

/-- The status of an access to an item but for the checks of a written value (R96). -/
def State.itemStatus (s : State) (i : Item) (wr : Bool) : Nat :=
  match s.haltedBank i.p with
  | none => 1
  | some x =>
    let k := (s.ctxAt x).coreAt i.c
    match tfind k.threads i.slot with
    | none => 2
    | some th =>
      if s.coreCount i.p ≤ i.c then 2
      else if i.z != 0 || decide (itemCount th i.cls ≤ i.idx) || (i.cls == 8 && !(csrUserRw i.idx || csrUserRo i.idx)) then 3
      else if wr && (i.cls == 9 || (i.cls == 8 && csrUserRo i.idx)) then 4
      else if i.cls == 0 && (s.ctxAt x).inFlight i.c i.slot (· == i.idx) then 5
      else 0

/-- The hint word of a slot and payload is legal (R60). -/
def hintLegal (slot : Nat) (p : BitVec 23) : Bool :=
  (decode (BitVec.ofNat 32 (0xFC000000 + slot * 2 ^ 23 + p.toNat))).isSome

/-- A thread with an item written, or none where the item's checks reject the value; class 5 and 7 as R318 states what
happens before RESUME (R95, R318). -/
def Thread.writeItem (th : Thread) (cls idx : Nat) (v : Word) : Option Thread :=
  match cls with
  | 0 => some (th.setG idx v)
  | 1 => some ((List.range 7).foldl (fun th n => th.setP n (v.getLsbD n)) th)
  | 2 => some (th.setA (idx / 2) (putHalf (th.ar (idx / 2)) (idx % 2) v))
  | 3 => some (th.setM (idx / 2) (putHalf (th.mr (idx / 2)) (idx % 2) v))
  | 4 =>
    let sh := 32 * (idx % 8)
    let r := th.kr (idx / 8)
    some (th.setK (idx / 8) ((r &&& ~~~((0xFFFFFFFF : BitVec 256) <<< sh)) ||| (v.zeroExtend 256 <<< sh)))
  | 5 =>
    let th := { th with pc := if idx = 0 then lowWord th.pc v else highWord th.pc v, iss := none, entry := none, met := false, acq := none }
    match th.par.place with
    | .parked (.join j) => some (th.joinBits j (th.par.armed.getLsbD j) false)
    | _ => some th
  | 6 =>
    if v.getLsbD 31 && !hintLegal idx (v.extractLsb' 0 23) then none else some { th with hints := th.hints.putItem idx v }
  | 7 => some (if v.getLsbD 0 == th.par.armed.getLsbD idx then th else th.joinBits idx (v.getLsbD 0) false)
  | 8 => if csrLegal idx v then some (th.setCsr idx v) else none
  | _ => some th

/-- Notes that a thread's program counter was written (R318). -/
def Ctx.noteWrote (k : Ctx) (c slot : Nat) : Ctx :=
  { k with halt := k.halt.map fun h => { h with wrotePc := if h.wrotePc.contains (c, slot) then h.wrotePc else (c, slot) :: h.wrotePc } }

/-- Writes `v` to an item: the state and the status (R96). -/
def State.writeItem (s : State) (i : Item) (v : Word) : State × Nat :=
  match s.itemStatus i true, s.haltedBank i.p with
  | 0, some x =>
    let t := Tid.cmp x i.c i.slot
    match (s.thr t).writeItem i.cls i.idx v with
    | none => (s, 3)
    | some th =>
      let s := s.setThr t th
      (if i.cls = 5 then s.modCtx x (·.noteWrote i.c i.slot) else s, 0)
  | n, _ => (s, n)

/-- RDTS (R95, R96). -/
def execRdts (pg : BitVec 3) (d g : BitVec 7) (s : State) : Out :=
  let th := s.me
  let i := Item.of (th.gr g.toNat) (th.gr (g.toNat + 1))
  let st := s.itemStatus i false
  let v : Word := match st, s.haltedBank i.p with
    | 0, some x => s.readItem x i
    | _, _ => 0
  regWord { i := .rdts pg d g, pg, gs := [d.toNat, d.toNat + 1, g.toNat, g.toNat + 1], need := .kernel } s
    fun th => (th.setG d.toNat v).setG (d.toNat + 1) (BitVec.ofNat 32 st)

/-- WRTS (R95, R96, R318). -/
def execWrts (pg : BitVec 3) (d g : BitVec 7) (s : State) : Out :=
  let th := s.me
  let r := s.writeItem (Item.of (th.gr g.toNat) (th.gr (g.toNat + 1))) (th.gr d.toNat)
  runWord { i := .wrts pg d g, pg, gs := [d.toNat, d.toNat + 1, g.toNat, g.toNat + 1], need := .kernel } s
    (.next (r.1.modMe (·.setG (d.toNat + 1) (BitVec.ofNat 32 r.2))))

/-! ## Reloading an area (R316) -/

/-- Which bits of a piece's byte are checked: not DISCARD of a sequencer record, nor the RW fields of the binding table
(R220) and the tensor descriptor table (R257, R316). -/
def areaMask (off i : Nat) : Byte :=
  if 0x20 ≤ off ∧ off < 0x1000 then
    BitVec.ofNat 8 ((((127 * 2 ^ 185 + (2 ^ 32 - 1) * 2 ^ 96 + 127 * 2 ^ 57 + 6) / 2 ^ (8 * (i % 24))) : Nat) % 256)
  else if 0x2000 ≤ off ∧ off < 0x8000 then 0
  else if 0x8000 ≤ off ∧ 0x100 ≤ (off - 0x8000) % 0x40000 ∧ (off - 0x8000) % 0x40000 < 0xB00 ∧ i = 0x20 then 0xFD
  else 0xFF

/-- The memory's bytes of a piece agree with those written, where they may not differ. -/
def areaSame (off : Nat) (old new : List Byte) : Bool :=
  (old.zip new).zipIdx.all fun e => e.1.1 &&& areaMask off e.2 == e.1.2 &&& areaMask off e.2

/-- The unit and core that reload the record at an offset (R316). -/
def areaUnit (off : Nat) : Nat × Nat :=
  if off < 0x8000 then (8, 0)
  else
    let r := (off - 0x8000) % 0x40000
    let c := (off - 0x8000) / 0x40000
    if 0x100 ≤ r ∧ r < 0xB00 then (2 + (r - 0x100) / 0x200, c)
    else if (0xB00 ≤ r ∧ r < 0xC00) ∨ (areaStt ≤ r ∧ r < areaBars) then (7, c)
    else if 0x1000 ≤ r ∧ r < 0x5000 then (1, c)
    else (0, c)

/-- A table of the context from its bytes. -/
def tableOf (n : Nat) (b : List Byte) (count : Nat) : Tab Nat (BitVec n) :=
  (List.range count).filterMap fun i =>
    let v := BitVec.ofNat n (leVal ((b.drop (n / 8 * i)).take (n / 8)))
    if v = 0 then none else some (i, v)

/-- What a reloaded piece changes in the context. -/
def Ctx.reloadPiece (k : Ctx) (off : Nat) (b : List Byte) : Ctx :=
  if off = 0x20 then { k with bind := tableOf 192 b 64 }
  else if off = 0x2000 then { k with td := tableOf 512 b 256 }
  else
    match areaUnit off with
    | (0, _) | (1, _) | (7, _) | (8, _) => k
    | (u, c) =>
      let on := ((b.getD 0x20 0).getLsbD 1)
      k.setCore c ([EngQ.matrix, .copy, .chain, .scout].foldl (fun v q => v.setQ q (match v.q q with
        | m :: r => (if engineOf q m = u - 2 then { m with discard := on } else m) :: r
        | [] => [])) (k.coreAt c))

/-- The record of core blocks that holds an offset, and the bits of its byte that a reload checks where nothing was written
(R314, R316); of the STT in an image. -/
def recordAt (img : Bool) (off : Nat) : Option (Nat × Byte) :=
  let r := (off - 0x8000) % 0x40000
  let blk := off - r
  if off < 0x8000 then none
  else if r = 0 then some (blk, 1)
  else if r < 4 then some (blk, 0xFF)
  else if 0x100 ≤ r ∧ r < 0xB00 then
    let q := (r - 0x100) % 0x200
    if q = 0x20 then some (off - q, 0xFD)
    else if q < 0x3C ∨ (0x40 ≤ q ∧ q < 0x120) then some (off - q, 0xFF) else none
  else if 0xB00 ≤ r ∧ r < 0xC00 then some (blk + 0xB00, 0xFF)
  else if 0x1000 ≤ r ∧ r < 0x5000 then some (blk + 0x1000, 0xFF)
  else if 0x5000 ≤ r ∧ r < 0x25000 then some (off - (r - 0x5000) % 16, 0xFF)
  else if img = true ∧ areaStt ≤ r ∧ r < areaBars then some (off - (r - areaStt) % 16, 0xFF)
  else none

/-- A piece that an area has only as an image (R314, log 79). -/
def imagePiece (off : Nat) : Bool := decide (0x8000 ≤ off) && decide (areaStt ≤ (off - 0x8000) % 0x40000)

/-- The records of the partition's `count` core blocks at `a` in which a byte that was written as zero is zero no more;
none where no area was written (R316). -/
def State.strayRecords (s : State) (k : Ctx) (a count : Nat) : List Nat :=
  let put := fun (off : Nat) => k.area.any fun e => decide (e.1 ≤ off) && decide (off < e.1 + e.2.length)
  let img := k.area.any fun e => imagePiece e.1
  if k.area.isEmpty then []
  else (s.usedLines a areaSize).flatMap fun ln => ((s.hwRead (lineSize * ln) lineSize).zipIdx).filterMap fun (e : Byte × Nat) =>
    let off := lineSize * ln + e.2 - a
    if e.1 == 0 || put off || decide (0x8000 + 0x40000 * count ≤ off) then none
    else match recordAt img off with
      | some (st, m) => if e.1 &&& m = 0 then none else some st
      | none => none

/-- Reloads an area at `a` into a context: the context, or the offset of the first record refused (R316). -/
def State.reload (s : State) (k : Ctx) (a count : Nat) : Ctx ⊕ Nat :=
  let bad := (k.area.filter fun e => !areaSame e.1 e.2 (s.hwRead (a + e.1) e.2.length)).map Prod.fst ++ s.strayRecords k a count
  match bad.min? with
  | some off => .inr off
  | none => .inl (k.area.foldl (fun k e => k.reloadPiece e.1 (s.hwRead (a + e.1) e.2.length)) k)

/-- The trap of a refused record (R313, R316). -/
def refusedTrap (off clk : Nat) : TrapRec :=
  { cause := 0x2D, tval := BitVec.ofNat 64 off, pc := 0, unit := (areaUnit off).1, core := (areaUnit off).2, slot := 0, clk }

/-- Bank `x`, as `k`, halts again at once with cause 0x2D: the record at `off` is refused (R316, R327). `h` is what the halt keeps of
the one before. -/
def State.refuse (s : State) (x : Nat) (k : Ctx) (h : Halt) (off : Nat) : State ⊕ Nat :=
  (s.setCtx x { k with hseq := k.hseq + 1,
                       halt := some { h with trap := refusedTrap off s.clock, ntrap := 1, hit := [], stopped := false } }).stopNow x

/-! ## RESUME (R97, R316, R318, R319) -/

/-- A thread as RESUME makes it of what the handler wrote (R318): `wrote` its program counter, `dur` the clocks the halt
lasted. -/
def Thread.applyWrites (th : Thread) (wrote : Bool) (now dur : Nat) : Thread :=
  let off := fun (v : BitVec 16) (b : Nat) => v &&& ~~~(BitVec.ofNat 16 (2 ^ b))
  let go := fun (th : Thread) => th.pondAt now 0 false
  match th.par.place with
  | .parked (.join j) =>
    if !th.par.armed.getLsbD j then go (if wrote then th else th.past) else if !th.par.arrived.getLsbD j then go th else th
  | .parked .team => if wrote then go { th with par := { th.par with team := none, teamN := th.par.teamN - 1 } } else th
  | .parked (.bar b) | .parked (.await b) => if wrote then go { th with par := { th.par with barArr := off th.par.barArr b } } else th
  | .parked (.barg _) => if wrote then go { th with par := { th.par with barg := none } } else th
  | .parked (.sleep w) => if wrote then go th else th.park (.sleep (w + dur))
  | .parked _ => if wrote then go th else th
  | _ => th

/-- A core as RESUME makes it of what the handler wrote (R318). -/
def CtxCore.applyWrites (u : CtxCore) (c : Nat) (wrote : List (Nat × Nat)) (now dur : Nat) : CtxCore :=
  let threads := u.threads.map fun (t : Nat × Thread) => (t.1, t.2.applyWrites (wrote.contains (c, t.1)) now dur)
  let tiles := u.tiles.map fun (t : Nat × Tile) => (t.1, { t.2 with queue := t.2.queue.filter fun n => !wrote.contains (c, n) })
  { u with threads := threads, tiles := tiles }

/-- Discards the broken SYNCT instances of a core: their threads arrive again (R156). -/
def CtxCore.dropBroken (k : CtxCore) (now : Nat) : CtxCore :=
  k.blocks.foldl (fun k e =>
    let bad := (e.2.synct.filter fun i => i.2.broken).map Prod.fst
    (k.setBlk e.1 { e.2 with synct := e.2.synct.filter fun i => !i.2.broken }).mapThr
      (fun th => th.par.blk == e.1 && th.parkedAt .synct && bad.contains (th.par.tidx / width)) fun th => th.pondAt now 0 false) k

/-- Every thread of a bundle, and every thread that left one to wait, enters the pond at its program counter; its word issues
anew (R122, R319). -/
def CtxCore.allToPond (k : CtxCore) (now : Nat) : CtxCore :=
  { k.mapThr (fun th => match th.par.place with
      | .bundle _ | .parked .split => true
      | _ => false) (fun th => { th.pondAt now 0 false with iss := none, entry := none, met := false, acq := none }) with bundles := [] }

/-- The state with `f` applied for every core of a bank. -/
def State.eachCore (s : State) (x : Nat) (f : State → Nat → State) : State := ((s.ctxAt x).cores.map Prod.fst).foldl f s

/-- The queues of a core go on from their restart vectors; an abandoned command ends (R316, R319). -/
def State.continueQueues (s : State) (x c : Nat) : State :=
  let s := [EngQ.matrix, .copy, .chain, .scout].foldl (fun s q => match s.headCmd x c q with
    | some m => if m.discard then s.endCmd x c q else s
    | none => s) s
  s.modCore x c (·.mapHeads fun m => { m with trapped := false, discard := false, state := if m.state = 2 then 0 else m.state })

/-- Steps 2 to 7 of RESUME for a bank whose area has been reloaded (R319): `wrote` lists the threads whose program counter
was written, `dur` is how long the bank was halted. -/
def State.resumeBank (s : State) (x : Nat) (wrote : List (Nat × Nat)) (dur : Nat) : State :=
  let now := s.clock
  let s := s.modCtx x fun k =>
    let bins := k.bins.map fun (e : Nat × Bin) => (e.1, { e.2 with timer := e.2.timer.map (· + dur) })
    { k with cores := k.cores.map fun e => (e.1, (e.2.applyWrites e.1 wrote now dur).dropBroken now), bins := bins }
  let s := s.eachCore x fun s c => ((((s.ctxAt x).coreAt c).blocks.map Prod.fst).foldl (fun s bs => s.blockChecks x c bs) s)
  let s := s.modCtx x (·.mapCores (·.allToPond now))
  let s := s.eachCore x fun s c => s.continueQueues x c
  (s.modCtx x fun k => { k with halt := none, area := [] }).takeLate x

/-- Releases a halted bank, or halts it again when its area is refused (R316, R319). -/
def State.resume (s : State) (x : Nat) (h : Halt) : State ⊕ Nat :=
  let k := s.ctxAt x
  match s.reload k ((s.areaBase x).getD 0) (s.coreCount (x / 2)) with
  | .inr off => s.refuse x k h off
  | .inl k => .inl ((s.setCtx x k).resumeBank x h.wrotePc (s.clock - h.start))

/-- RESUME (R97, R319). -/
def execResume (pg : BitVec 3) (d : BitVec 7) (n : BitVec 3) (s : State) : Out :=
  runWord { i := .resume pg d n, pg, gs := [d.toNat], need := .kernel } s
    (match s.haltedBank n.toNat with
     | none => .next (s.modMe (·.setG d.toNat 1))
     | some x =>
       match (s.ctxAt x).halt with
       | none => .next (s.modMe (·.setG d.toNat 1))
       | some h => match s.resume x h with
         | .inl s => .next (s.modMe (·.setG d.toNat 0))
         | .inr a => .fault (.noSuchAddress a))

end Sys2Proof.Machine
end

