-- ==== Sys2Proof/Machine/Contexts.lean ====
section
/-! DEFINITION. Sys2Proof/Machine/Contexts.lean: the two context banks, swaps, saves and fills, checkpoints and rollback,
uncorrectable errors (R178, R187, R320 to R330). -/

namespace Sys2Proof.Machine

/-! ## Swaps (R321, R322, R325) -/

/-- The bank that a swap brings in: the one that is not active; without an active one, a READY bank before one that is being
loaded, for which the swap waits, and that before a FREE one, bank 0 before bank 1. -/
def State.shadow (s : State) (p : Nat) : Nat :=
  match (s.partAt p).active with
  | some b => 2 * p + (1 - b)
  | none =>
    match [BankState.ready, .fill, .free].findSome? fun b => [2 * p, 2 * p + 1].find? fun x => (s.ctxAt x).st == b with
    | some x => x
    | none => 2 * p + 1

/-- The bank that a fill loads: the one that is not active; without an active one, a FREE bank, bank 0 before bank 1. -/
def State.fillBank (s : State) (p : Nat) : Nat :=
  match (s.partAt p).active with
  | some b => 2 * p + (1 - b)
  | none => if (s.ctxAt (2 * p)).st = .free then 2 * p else 2 * p + 1

/-- The active bank of a partition. -/
def State.activeBank (s : State) (p : Nat) : Option Nat := (s.partAt p).active.map (2 * p + ·)

/-- A write of the context is held for a forced boundary (R325). -/
def Ctx.heldWrite (k : Ctx) : Bool :=
  k.infl.any (fun e => e.2.phase == .held) ||
  k.cores.any fun e => e.2.xfers.any (fun t => t.port.isSome) ||
    [EngQ.matrix, .copy, .chain, .scout].any fun q => (e.2.q q).any fun m => m.port.isSome

/-- Discards a snapshot: the logs of its interval and of the next stand together (R325). -/
def Ctx.abandon (k : Ctx) : Ctx :=
  { k with ckpt := { k.ckpt with
      log := k.ckpt.log.map fun r => if k.ckpt.done ≤ r.intv then { r with intv := k.ckpt.intv } else r
      due := k.ckpt.due || k.heldWrite } }

/-- The bank runs: the threads of its bundles are in the pond, its parked sequencers continue, and late answers take effect
(R122, R213, R322). -/
def State.bringIn (s : State) (x : Nat) : State :=
  let s := s.modCtx x fun k => { k.mapCores (·.allToPond s.clock) with st := .active }
  if (s.ctxAt x).halt.isSome then s
  else (s.modCtx x (·.mapCores (·.mapHeads fun m => { m with state := if m.state = 2 then 0 else m.state }))).takeLate x

/-- The outgoing bank's sequencers are ordered to park, and it is to be saved (R265, R322). -/
def State.sendOut (s : State) (p : Nat) (abandon : Bool) : State :=
  match s.activeBank p with
  | none => s
  | some x => s.modCtx x fun k =>
    let k := if abandon then k.abandon else k
    { k.mapCores (·.mapHeads Cmd.parked) with st := .spill }

/-- A swap proceeds, or waits for the shadow bank (R321). -/
def State.trySwap (s : State) (p : Nat) : State :=
  match (s.partAt p).swap with
  | none => s
  | some abandon =>
    let y := s.shadow p
    let fin := fun (s : State) (b : Option Nat) => s.modPart p fun q => { q with active := b, swap := none }
    match (s.ctxAt y).st with
    | .ready => (fin (s.sendOut p false) (some (y % 2))).bringIn y
    | .free => fin (s.sendOut p false) none
    | .snap => if abandon then (fin (s.sendOut p true) none).modCtx y fun k => { k with st := .free } else s
    | _ => s

/-- SWAP (R321, R322). -/
def execSwap (p : Nat) (abandon : Bool) (s : State) : Out :=
  if (s.partAt p).cfg.isNone then .next s
  else .next ((s.modPart p fun q => { q with swap := some abandon }).trySwap p)

/-! ## Saving and loading a bank (R186, R187, R321, R322) -/

/-- An access waits on the kernel's answer or the replay: it stands in the operand log, or is untranslated behind one that does
(R207, R208). -/
def InFlight.onReplay (f : InFlight) : Bool :=
  match f.phase with
  | .logged _ | .replay => true
  | .issued => f.pa.isNone
  | _ => false

/-- An access of an outgoing context may stand in its image: in the operand log, waiting for a page, or held at a port
(R213, R322). -/
def InFlight.rests (f : InFlight) : Bool :=
  f.onReplay || (match f.phase with
    | .page | .held => true
    | _ => false)

/-- The access `e` waits until the older access `a` of its core, which touches its words, has been performed: by the order of its thread
or of its core's buffer (R208, R219, R231). -/
def Ctx.behind (k : Ctx) (a e : Nat × InFlight) : Bool :=
  a.2.core == e.2.core && a.2.phase != .page && e.2.phase != .page && a.2.meets e.2 &&
  (k.before e.1 e.2 a || (a.2.buffered && decide (a.1 < e.1)))

/-- The accesses in flight that `bad` names, with those that wait behind one of them, one after another. -/
def Ctx.stuck (k : Ctx) (bad : InFlight → Bool) : List Nat :=
  k.infl.foldl (fun (l : List Nat) _ => l ++ (k.infl.filter fun e =>
    !l.contains e.1 && k.infl.any fun a => l.contains a.1 && k.behind a e).map Prod.fst)
    ((k.infl.filter fun e => bad e.2).map Prod.fst)

/-- Nothing of an outgoing bank is still to complete into it: what is in flight rests, or waits behind what does; a page transfer waits
for the kernel's answer, or at the port (R213, R322, R325). -/
def Ctx.settled (k : Ctx) : Bool :=
  !k.stepping && k.infl.all (fun e => (k.stuck InFlight.rests).contains e.1) &&
  k.cores.all fun e => e.2.xfers.all fun t => t.tag.isSome || t.port.isSome || t.data.isSome

/-- A page without its frame. -/
def SttE.gone (e : SttE) : SttE := { e with res := false, fix := false, dirty := false, ref := false, infl := false, pin := 0, held := none, frame := 0 }

/-- The frame that holds a page's bytes: core and frame. -/
def SttE.where' (e : SttE) (c : Nat) : Option (Nat × Nat) :=
  match e.held with
  | some h => some h
  | none => if e.res || e.fix then some (c, e.frame) else none

/-- The transfer that writes page `key` of core `c` out, among those of the core whose frame holds it. -/
def CtxCore.outOf (k : CtxCore) (c sc : Nat) (key : Nat × Nat) : Option Xfer :=
  k.xfers.find? fun t => t.out && (t.bs, t.vpn) == key && t.home == (if sc = c then none else some c)

/-- The write-out trap of a bank being saved is raised again as long as the partition runs on with it undone (R186). -/
def State.flushTrap (s : State) (x c : Nat) (t : Xfer) (r : XRes × Option Nat) (b : BitVec 46) : State :=
  let halted := match s.otherActive x with
    | some y => (s.ctxAt y).halt.isSome
    | none => (s.ctxAt x).halt.isSome
  match r with
  | (.trap _, _) => if halted then s else s.xferStop x c t r b
  | _ => s.xferStop x c t r b

/-- Writes a page of an outgoing bank to its backing address and releases its frame; `false` where it must wait: for the kernel's
answer to a fault record, or for the host's copy of a line (R186, R187, R346). The bytes of a page whose write is to be held for a forced
boundary leave their frame and stand at the port until the context runs again and a checkpoint of it has committed (R325, log 80). A page with
INFL is written out with the rest (log 87). -/
def State.flushPage (s : State) (x c : Nat) (key : Nat × Nat) (e : SttE) : State × Bool :=
  let drop := fun (sc : Nat) (k : CtxCore) => { k with xfers := k.xfers.filter fun t => some t != k.outOf c sc key }
  let put := fun (s : State) (e : SttE) => s.modCore x c fun k => { k with stt := tput key e k.stt }
  if ((s.ctxAt x).coreAt c).atPort key then (s, true)
  else match e.where' c with
  | none => (put s e.gone, true)
  | some (sc, sf) =>
    if !(e.dirty || e.fix) then (put s e.gone, true)
    else
      let t := (((s.ctxAt x).coreAt sc).outOf c sc key).getD
        { bs := key.1, vpn := key.2, out := true, frame := sf, home := if sc = c then none else some c }
      if t.tag.isSome then (s, false)
      else
        match s.xFixer x c e.baddr true with
        | (.ok s' pa _ ac, _) =>
          let n := t.port.getD (s.ctxAt x).ckpt.intv
          let b := s.xferBytes x sc t
          if !s'.portFree x pa t.port then
            let w : Xfer := { bs := key.1, vpn := key.2, out := true, frame := 0, port := some n, data := some b }
            (((put (s.modCore x sc (drop sc)) { e.gone with fix := true }).modCore x c fun k => { k with xfers := k.xfers ++ [w] }).askBoundary x n,
              true)
          else
            match s'.claimAll (linesOf pa pageSize) with
            | (s', false) => (s', false)
            | (s', true) =>
              let s := put ((s'.backWrite x sc pa n b ac).modCore x sc (drop sc)) e.gone
              (if t.port.isSome then s.inImage x fun s => s.writtenOut x sc t else s, true)
        | (.wait s', _) => (s', false)
        | r =>
          let s := s.modCore x sc fun k => if (k.outOf c sc key).isSome then k else { k with xfers := k.xfers ++ [t] }
          (s.flushTrap x sc t r e.baddr, false)

/-- Writes every page of an outgoing bank. -/
def State.flushPages (s : State) (x : Nat) : State × Bool :=
  (s.ctxAt x).cores.foldl (fun (q : State × Bool) e =>
    e.2.stt.foldl (fun (q : State × Bool) u =>
      let (s, ok) := q.1.flushPage x e.1 u.1 u.2
      (s, q.2 && ok)) q) (s, true)

/-- Invalidates the L1s of a partition's cores. -/
def State.dropL1s (s : State) (p : Nat) : State :=
  (List.range (s.coreCount p)).foldl (fun s c => s.modPhys (s.physOf (2 * p) c) fun k => { k with l1 := [], prefs := [] }) s

/-- A fault of the active bank that the Fixer has still to serve comes before the write-outs of an outgoing bank (R183). -/
def State.activeFaults (s : State) (p : Nat) : Bool :=
  match s.activeBank p with
  | none => false
  | some x => s.runs x && (s.ctxAt x).cores.any fun e => e.2.want.any (s.unserved x e.1)

/-- A bank that holds no context; its root register stays (R321, R352). -/
def Ctx.freed (k : Ctx) : Ctx := { root := k.root }

/-- The area of a bank as a spill image: every bank-resident item is added, in place of those of an image before; the area of a halted
context stands as its halt wrote it (R314, R322). -/
def State.spillArea (s : State) (a : Nat) (k : Ctx) : State × Ctx :=
  let done := match k.halt with
    | some h => h.stopped
    | none => false
  if !areaThere a then (s, k)
  else
    let k := k.mapCores (·.mapHeads Cmd.parked)
    let (s, o) := s.imageOf k
    let (old, base) := k.area.partition fun e => imagePiece e.1
    if done then ((s.putPieces a (old.map fun e => (e.1, List.replicate e.2.length 0))).putPieces a o, { k with area := base ++ o })
    else
      let (s, l) := s.areaOf k
      (s.putArea a (l ++ o), { k with area := l ++ o })

/-- Saves bank `x` of partition `p` if nothing of it is still to complete, and the host holds no line of its area: true when it has become
FREE (R183, R187, R322, R346). -/
def State.save (s : State) (p x : Nat) : State × Bool :=
  if !(s.ctxAt x).settled || s.activeFaults p then (s, false)
  else
    match s.flushPages x with
    | (s, false) => (s, false)
    | (s, true) =>
      let s := s.dropL1s p
      let a := (tget 0 (s.winAt (s.partDie p)).srarea x).toNat
      let l := if areaThere a then s.heldIn a areaSize else []
      if !l.isEmpty then ((s.claimAll l).1, false)
      else
      let (s, k) := s.spillArea a (s.ctxAt x)
      ((({ s with images := tput a { k with home := a } s.images } : State).setCtx x k.freed).raiseIrq (s.partDie p) 10, true)

/-- The bank of a partition in state `b`. -/
def State.bankIn (s : State) (p : Nat) (b : BankState) : Option Nat :=
  [2 * p, 2 * p + 1].find? fun x => (s.ctxAt x).st == b

/-- A context whose area no save has written: the binding and tensor descriptor tables are the area's, the bins' entries
are not stated (R174, R220, R257, R314). -/
def State.newContext (s : State) (a : Nat) : State × Ctx :=
  let (s, bins) := (List.range 64).foldl (fun (q : State × Tab Nat Bin) n =>
    let (lo, s) := q.1.takeFree
    let (hi, s) := s.takeFree
    (s, q.2 ++ [(n, { entry := hi ++ lo })])) (s, [])
  (s, { bins := bins, bind := tableOf 192 (s.hwRead (a + 0x20) 1536) 64, td := tableOf 512 (s.hwRead (a + 0x2000) 16384) 256 })

/-- The binding table of an area that no save wrote has a bit set in a RSV field (R220, R316). -/
def State.bindRsv (s : State) (a : Nat) : Bool := (s.hwRead (a + 0x20) 1536).zipIdx.any fun e => e.1 &&& areaMask 0x20 e.2 != 0

/-- What waits for a fault record that has been answered while the context was at rest is made again (R207, R213). -/
def Ctx.unwait (k : Ctx) (open' : Nat → Bool) : Ctx :=
  let up := fun (e : Nat × InFlight) => match e.2.phase with
    | .logged t => if open' t then e else (e.1, { e.2 with phase := .replay })
    | _ => e
  let queues := k.queues.map fun (e : Nat × HwQueue) => (e.1, { e.2 with recs := e.2.recs.map fun r =>
    { r with tag := r.tag.bind fun t => if open' t then some t else none } })
  let core := fun (u : CtxCore) =>
    let u := u.mapHeads fun m => { m with tags := m.tags.filter open' }
    { u with xfers := u.xfers.map fun t => { t with tag := t.tag.bind fun n => if open' n then some n else none } }
  let bins := k.bins.map fun (e : Nat × Bin) => (e.1, { e.2 with tag := e.2.tag.bind fun t => if open' t then some t else none })
  { k.mapCores core with infl := k.infl.map up, queues := queues, bins := bins }

/-- The fault record of a tag stands unanswered, or its answer waits for the context to run (R213). -/
def State.tagOpen (s : State) (t : Nat) : Bool := s.tr.recs.any (fun r => !r.notice && r.tag == t) || s.tr.late.any fun e => e.1 == t

/-- CONTEXT_FILL: a FREE bank starts loading a context from its save area (R321); a root with SID 0 or EN 0 is refused (R195,
R196). -/
def execContextFill (p area : Nat) (s : State) : Out :=
  let y := s.fillBank p
  if (s.partAt p).cfg.isNone || (s.ctxAt y).st != .free || !areaThere area || (s.ctxAt y).root.sid == 0 ||
      !(s.ctxAt y).root.en then .next s
  else
    let (s, k) := match tfind s.images area with
      | some k => (s, k)
      | none => s.newContext area
    .next (s.setCtx y { k with st := .fill, home := area, root := (s.ctxAt y).root })

/-- FILL_COMPLETE: the load is complete; an image with a changed read-only byte, or a new context's table with a RSV field set,
halts its context (R220, R316, R321). -/
def execFillComplete (p : Nat) (s : State) : Out :=
  match s.bankIn p .fill with
  | none => .next s
  | some y =>
    let k := s.ctxAt y
    let go := fun (r : State ⊕ Nat) => match r with
      | .inl s => .next (s.trySwap p)
      | .inr a => .fault (.noSuchAddress a)
    let ready := fun (k : Ctx) => { k.unwait s.tagOpen with st := .ready }
    let bad := fun (off : Nat) => s.refuse y (ready k) { start := s.clock, trap := refusedTrap off s.clock } off
    if k.area.isEmpty && s.bindRsv k.home then go (bad 0x20)
    else
      match s.reload k k.home (s.coreCount p) with
      | .inl k => go (.inl (s.setCtx y (ready (if k.halt.isSome then k else { k with area := [] }))))
      | .inr off => go (bad off)

/-! ## Checkpoints (R323 to R325) -/

/-- CHECKPOINT_ENABLE: an interval of 1 ms to 10 s and two areas (R323). -/
def execCheckpointEnable (p us areaA areaB : Nat) (s : State) : Out :=
  match s.activeBank p with
  | none => .next s
  | some x =>
    if us < 1000 || 10000000 < us || !areaThere areaA || !areaThere areaB || areaA == areaB then .next s
    else
      let n := (s.ctxAt x).ckpt.intv + 1
      .next (s.modCtx x fun k => { k with ckpt := { on := true, us, areaA, areaB, start := s.clock, intv := n, done := n } })

/-- CHECKPOINT_INTERVAL_EXPIRY: the interval, in µs of 1,800 clocks, has passed (R324; log 3). -/
def execCheckpointIntervalExpiry (p : Nat) (s : State) : Out :=
  match s.activeBank p with
  | none => .next s
  | some x =>
    let c := (s.ctxAt x).ckpt
    if !c.on || decide (s.clock < c.start + 1800 * c.us) then .next s
    else .next (s.modCtx x fun k => { k with ckpt := { k.ckpt with due := true } })

/-- The area that the next checkpoint goes to: the one not used last (R324). -/
def Ckpt.target (c : Ckpt) : Bool := c.last == some false

/-- A write of the context whose word has issued and that is not yet applied, and stands in no operand log. -/
def InFlight.unapplied (f : InFlight) : Bool :=
  (f.counted || (match f.op with
    | .rel _ _ _ _ => true
    | _ => false)) &&
  match f.phase with
  | .issued | .own | .held => true
  | _ => false

/-- Writes that are not yet issued to memory, though their words have been: untranslated, or behind an access that waits on the replay
(R208, log 56). -/
def Ctx.unsent (k : Ctx) : List Nat := k.stuck InFlight.onReplay

/-- An atomic on its way: its old value is still to be returned, and it waits for no forced boundary to come (R325). -/
def InFlight.atomOut (f : InFlight) (c : Ckpt) : Bool :=
  f.unapplied && !(f.phase == .held && decide (c.done ≤ f.epoch)) && (match f.op with
    | .atom _ _ _ _ _ _ => true
    | _ => false)

/-- A unit's write that a commit has released still stands at its port (R325). -/
def Ctx.leaving (k : Ctx) : Bool :=
  k.cores.any fun e => e.2.xfers.any (fun t => k.ckpt.released t.port && t.tag.isNone) ||
    [EngQ.matrix, .copy, .chain, .scout].any fun q => ((e.2.q q).take 1).any fun m => k.ckpt.released m.port && m.tags.isEmpty

/-- The cut may be made now: no atomic is on its way but behind what waits, and no write that a commit released stands at its port (R324,
R325, log 56). -/
def Ctx.cuttable (k : Ctx) : Bool :=
  let w := k.stuck fun f => f.onReplay || (f.phase == .held && decide (k.ckpt.done ≤ f.epoch))
  !(k.infl.any fun e => e.2.atomOut k.ckpt && !w.contains e.1) && !k.leaving

/-- The image of a bank at the cut, whose clock its counts are measured from: the writes issued before it are not in it (R324, R325), and the
frames are. -/
def State.snapshot (s : State) (x : Nat) : Ctx :=
  let k := s.ctxAt x
  let w := k.unsent
  let infl := (k.infl.filter fun e => w.contains e.1 || !(e.2.unapplied || (match e.2.phase with
    | .applied _ => true
    | _ => false))).map fun (e : Nat × InFlight) => if w.contains e.1 && e.2.unapplied then (e.1, { e.2 with pa := none }) else e
  let core := fun (e : Nat × CtxCore) =>
    let n := fun (bs : Nat) => (infl.filter fun f => f.2.counted && s.ofBlock x e.1 bs f.2).length
    let blocks := e.2.blocks.map fun (b : Nat × Block) => (b.1, { b.2 with unack := n b.1 })
    (e.1, { e.2 with blocks := blocks, img := (s.coreAt (s.physOf x e.1)).frames })
  { k with infl := infl, cores := k.cores.map core, ckpt := { k.ckpt with start := s.clock } }

/-- The bank after the cut: a new interval, to which the writes that are not yet issued to memory belong (R324). -/
def Ctx.afterCut (k : Ctx) (now : Nat) : Ctx :=
  let w := k.unsent
  let n := k.ckpt.intv + 1
  { k with ckpt := { k.ckpt with due := false, start := now, intv := n },
           infl := k.infl.map fun (e : Nat × InFlight) => if w.contains e.1 then (e.1, { e.2 with epoch := n }) else e }

/-- SNAPSHOT_SWAP: a due checkpoint waits for a FREE shadow bank, a READY one being spilled first; the cut begins a new
interval (R324). -/
def execSnapshotSwap (p : Nat) (s : State) : Out :=
  match s.activeBank p with
  | none => .next s
  | some x =>
    let k := s.ctxAt x
    let y := s.shadow p
    if !k.ckpt.on || !k.ckpt.due || k.halt.isSome then .next s
    else
      match (s.ctxAt y).st with
      | .ready => .next (s.modCtx y fun k => { k with st := .spill })
      | .free =>
        if !k.cuttable then .next s
        else
          let image := s.snapshot x
          let s := { s with images := tput (k.ckpt.area k.ckpt.target) image s.images }
          .next ((s.modCtx x (·.afterCut s.clock)).modCtx y fun k => { k with st := .snap })
      | _ => .next s

/-- A write of the old epoch is still to be applied, and neither is held for this commit nor waits behind one that is (R324, R325). -/
def Ctx.oldOut (k : Ctx) : Bool :=
  let w := k.stuck fun f => f.phase == .held
  k.infl.any fun e => e.2.unapplied && !w.contains e.1 && decide (e.2.epoch < k.ckpt.intv)

/-- CHECKPOINT_COMMIT: the image is written, once the host holds no line of the area, and every write of the old epoch has been applied, but
for those held for this commit; a SWAP that waits goes on when the bank is READY (R321, R324, R325, R346). -/
def execCheckpointCommit (p : Nat) (s : State) : Out :=
  match s.activeBank p with
  | none => .next s
  | some x =>
    let k := s.ctxAt x
    let y := s.shadow p
    if (s.ctxAt y).st != .snap || k.oldOut then .next s
    else
      let t := k.ckpt.target
      let a := k.ckpt.area t
      s.claimThen (s.heldIn a areaSize) fun s =>
        let image := tget {} s.images a
        let (s, l) := s.areaOf image
        let (s, o) := s.imageOf image
        let s := { s.putArea a (l ++ o) with images := tput a { image with area := l ++ o } s.images }
        let s := (s.modCtx x fun k => { k with ckpt := { k.ckpt with last := some t, done := k.ckpt.intv,
                                                                       log := k.ckpt.log.filter fun r => decide (k.ckpt.intv ≤ r.intv) } }).modCtx y
          fun k => { k with st := .free }
        .next (s.raiseIrq (s.partDie p) 11)

/-! ## Rollback (R327) -/

/-- The records of the negative log since the last committed cut, newest first (R327). -/
def Ckpt.since (c : Ckpt) : List NegRec := c.log.filter fun r => decide (c.done ≤ r.intv)

/-- Replays the negative log since the last committed cut, newest first (R327). -/
def State.replayLog (s : State) (x : Nat) : State :=
  (s.ctxAt x).ckpt.since.foldl (fun s r => s.homeWrite .nobody none (64 * r.line) r.old) s

/-- The writes of the bank that were issued before the last committed cut and have not left the package (R325). -/
def Ctx.carried (k : Ctx) : Tab Nat InFlight :=
  k.infl.filter fun e => e.2.unapplied && e.2.pa.isSome && decide (e.2.epoch < k.ckpt.done)

/-- Loads a checkpoint image into the active bank: frames, context, writes still held; a new interval begins (R327). -/
def State.loadImage (s : State) (x : Nat) (image : Ctx) : State :=
  let k := s.ctxAt x
  let n := k.ckpt.intv + 1
  let s := image.cores.foldl (fun s e => s.modPhys (s.physOf x e.1) fun c => { c with frames := memOf e.2.img }) s
  let s := s.setCtx x { (image.mapCores fun c => { c with img := [] }) with
    st := .active, root := k.root, hseq := k.hseq, halt := none, area := [], nextId := max k.nextId image.nextId,
    infl := image.infl ++ k.carried,
    ckpt := { k.ckpt with start := s.clock, intv := n, done := n, log := [], due := false, roll := false } }
  let s := k.carried.foldl (fun s e => if e.2.counted then
    s.modBlk x e.2.core (((s.ctxAt x).coreAt e.2.core).thrAt e.2.slot).par.blk (fun b => { b with unack := b.unack + 1 }) else s) s
  s.modCtx x fun k => k.unwait s.tagOpen

/-- The self-test has excluded a unit of the partition, which waits to be configured anew (R327, R329). -/
def State.fencedIn (s : State) (p : Nat) : Bool := (s.partAt p).cfg.isNone

/-- Steps 2 to 7 of a rollback, of active bank `x` with its last committed cut in area `b`: the counts of the cut go on from where they
stood, and a partition of which the self-test has excluded a unit is not resumed (R327, R329, logs 56 and
57). -/
def State.rollBack (s : State) (p x : Nat) (b : Bool) : State ⊕ Nat :=
  let k := s.ctxAt x
  let a := k.ckpt.area b
  let s := ((s.replayLog x).dropL1s p).modCtx (s.shadow p) fun k => if k.st = .snap then { k with st := .free } else k
  match s.reload (tget {} s.images a) a (s.coreCount p) with
  | .inr off =>
    s.refuse x { s.ctxAt x with ckpt := { (s.ctxAt x).ckpt with roll := false } } { start := s.clock, trap := refusedTrap off s.clock } off
  | .inl image =>
    let s := (s.loadImage x image).raiseIrq (s.partDie p) 12
    if s.fencedIn p then .inl (s.modCtx x fun k => { k with ckpt := { k.ckpt with roll := true } })
    else .inl (s.resumeBank x [] (s.clock - image.ckpt.start))

/-- The rollback goes on once the host holds no line of the log (R327, R346). -/
def State.rollLog (s : State) (p x : Nat) (b : Bool) : Out :=
  s.claimFor ((s.ctxAt x).ckpt.since.map NegRec.line).eraseDups (.rollback p) fun s => stopOut (s.rollBack p x b)

/-- ROLLBACK: the partition halts, and the context of the active bank is restored to its last committed cut; while the shadow
bank is being saved and its frames are not free, the restoring waits for the save (R327). -/
def execRollback (p : Nat) (s : State) : Out :=
  match s.activeBank p with
  | none => .next s
  | some x =>
    let k := s.ctxAt x
    match k.ckpt.on, k.ckpt.last with
    | true, some b =>
      let s := s.modCtx x fun k => { k with ckpt := { k.ckpt with roll := true } }
      let (s, free) := if (s.ctxAt (s.shadow p)).st = .spill then s.save p (s.shadow p) else (s, true)
      if !free then .next s else s.rollLog p x b
    | _, _ => .next s

/-- SAVE_COMPLETE: a rollback that waited goes on, else a SWAP that waited (R322, R327). -/
def execSaveComplete (p : Nat) (s : State) : Out :=
  match s.bankIn p .spill with
  | none => .next s
  | some x =>
    match s.save p x with
    | (s, false) => .next s
    | (s, true) =>
      match s.activeBank p with
      | none => .next (s.trySwap p)
      | some y =>
        let c := (s.ctxAt y).ckpt
        match c.roll, c.last with
        | true, some b => if s.fencedIn p then .next s else s.rollLog p y b
        | _, _ => .next (s.trySwap p)

/-! ## Errors (R326, R328 to R330) -/

/-- An address of HBM or the second tier. -/
def onPackage (pa : Nat) : Bool := regionOf pa == some .hbm || regionOf pa == some .second

/-- The trap of a data loss (R313, R326). -/
def State.dataLoss (s : State) (x pa : Nat) : State := s.unitTrap x 0 0 0 0 0x2E (BitVec.ofNat 64 pa)

/-- The context can be rolled back: a checkpoint of it has committed (R323). -/
def Ctx.canRoll (k : Ctx) : Bool := k.ckpt.on && k.ckpt.last.isSome

/-- The dump region: the top 64 GiB of die 3's second tier (R350). -/
def dumpBase : Nat := 0x028000000000 - 2 ^ 36

/-- The bytes of dump number `k` (R330). -/
def dumpOf (k : Nat) : List Byte := (List.range (min (Config.dumpBytes k) (2 ^ 36))).map (Config.dumpByte k)

/-- Everything stops and volatile state ends; firmware writes the dump to its region (R330). Memory and what survives a boot stay.
Without power nothing happens (R2). -/
def State.fatal (s : State) : State :=
  if s.boot.stage = .off then s else
  { s with mem := memWrite dumpBase (dumpOf s.fresh) s.mem, ctl := [], parts := [], ctxs := [], cores := [], coh := {}, tr := {}, win := [], hst := {}, images := [], fenced := [],
           fresh := s.fresh + 1, boot := { s.boot with stage := .stopped, stat := 0, dumped := some s.fresh, taken := [] } }

/-- FATAL_STOP (R330). -/
def execFatalStop (s : State) : Out := .next s.fatal

/-- The context state that an error struck is lost: `f` makes of it what the manual does not state, and the partition halts, where no
committed checkpoint restores it (R326). -/
def State.ctxError (s : State) (p : Nat) (f : State → Nat → State) : State :=
  match s.activeBank p with
  | none => s
  | some x => if (s.ctxAt x).canRoll then { s with agenda := .event (.rollback p) :: s.agenda } else (f s x).dataLoss x 0

/-- UNCORRECTABLE_ERROR: by where it lies (R326). A context without a committed checkpoint cannot be rolled back, and its
data is lost: a row of an accumulator is poisoned with cause LOST (R49); a register and a frame hold free values (log 52). -/
def execUncorrectableError (e : ErrSite) (s : State) : Out :=
  match e with
  | .fatal => .next s.fatal
  | .kernelMemory die pa =>
    s.powered (.next (if die < 4 then s.trap (.ctl (5 * die + 4)) 0x11 (BitVec.ofNat 64 pa) true else s))
  | .context p => .next (s.ctxError p fun s _ => s)
  | .accumulator p c tile row => .next (s.ctxError p fun s x => s.modCore x c fun k => k.setTile tile ((k.tileAt tile).spoil row cLOST))
  | .register p c slot n => .next (s.ctxError p fun s x =>
      let (v, s) := s.takeFree
      s.modCore x c fun k => match tfind k.threads slot with
        | some th => if n < th.alloc then k.setThr slot (th.setG n (v.extractLsb' 0 32)) else k
        | none => k)
  | .frame p c fr => .next (s.ctxError p fun s x =>
      let (s, b) := s.freeList pageSize
      if fr < s.frameCount x then s.fillFrame x c fr b else s)
  | .userMemory p pa =>
    match s.activeBank p with
    | none => .next s
    | some x =>
      if !onPackage pa then .next s
      else s.claimThen [pa / lineSize] fun s =>
        let k := s.ctxAt x
        let (s, b) := s.freeList 64
        let s := (s.homeWrite1 .nobody none (pa / 64 * 64) b).1
        .next (if k.canRoll && k.ckpt.log.any (fun r => r.line == pa / 64 && r.intv == k.ckpt.intv) then
          { s with agenda := .event (.rollback p) :: s.agenda } else s.dataLoss x pa)

/-- KERNEL_LINE_RESTORE: the line is rewritten from its mirror, so it holds what it held before the error, and the kernel
is told (R328). -/
def execKernelLineRestore (die line : Nat) (s : State) : Out :=
  if s.boot.stage == .off || regionOf (lineSize * line) != some .hbm then .next s
  else s.claimThen [line] fun s =>
    .next ((s.homeWrite1 .nobody none (lineSize * line) (s.lineBytes line)).1.raiseIrq die 14)

/-- Cores of a partition are excluded: its contexts end, and it is to be configured anew (R329). -/
def State.exclude (s : State) (p : Nat) (cores : List Nat) : State :=
  let s := { s with fenced := s.fenced ++ (cores.filter (decide <| · < s.coreCount p)).map (s.physOf (2 * p)) }
  ((s.modCtx (2 * p) Ctx.freed).modCtx (2 * p + 1) Ctx.freed).modPart p fun q => { q with cfg := none, active := none, swap := none }

/-- SELF_TEST: a lasting fault of a core or cluster excludes it; the retirement of pages is the kernel's; the outcome is reported
(R329). -/
def execSelfTest (die : Nat) (f : TestOutcome) (s : State) : Out :=
  let found := match f with
    | .transient | .lastingMemory _ | .lastingLink _ _ => s
    | .lastingCore p c => s.exclude p [c]
    | .lastingCluster p n => s.exclude p [4 * n, 4 * n + 1, 4 * n + 2, 4 * n + 3]
  s.powered (.next (found.raiseIrq die 13))

end Sys2Proof.Machine
end

