-- ==== Sys2Proof/Machine/Time.lean ====
section
/-! DEFINITION. Sys2Proof/Machine/Time.lean: the tick and the raising of logical time, the sweepers of the caches (R229,
R232, R338). -/

namespace Sys2Proof.Machine

/-- The cores of a die: 128 compute cores, four control cores and the Gecko pair. -/
def dieCores (d : Nat) : List Nat := (List.range 128).map (128 * d + ·) ++ (List.range 5).map (512 + 5 * d + ·)

/-- LOGICAL_TIME_TICK: one tick for every 64 clocks (R229). -/
def execLogicalTimeTick (core : Nat) (s : State) : Out :=
  let c := s.coreAt core
  if s.boot.stage == .off || decide (s.clock / 64 ≤ c.ticked) then .next s
  else .next (s.modPhys core fun c => { c.setLt s.clock (c.lt + 1) with ticked := c.ticked + 1 })

/-- The latest time of any core of the package (R338). -/
def State.latestLt (s : State) : BitVec 24 :=
  ((List.range 4).flatMap dieCores).foldl (fun t c => later t (s.coreAt c).lt) (s.coreAt 0).lt

/-- LOGICAL_TIME_RAISE: every 1,024 clocks, each core of the die that lies more than 2^20 behind the latest time of the
package's cores is raised to that time minus 2^20 (R232, R338). -/
def execLogicalTimeRaise (die : Nat) (s : State) : Out :=
  if s.boot.stage == .off || s.clock % 1024 != 0 || 3 < die then .next s
  else
    let t := s.latestLt
    .next ((dieCores die).foldl (fun s c =>
      let v := (s.coreAt c).lt
      if tle v t && decide (2 ^ 20 < (t - v).toNat) then s.modPhys c fun k => k.setLt s.clock (t - BitVec.ofNat 24 (2 ^ 20)) else s) s)

/-- L1_SWEEP: lines whose lease end lies 2^21 or more behind the core's time go (R232). -/
def execL1Sweep (core : Nat) (s : State) : Out :=
  s.powered (.next (s.modPhys core fun c => { c with l1 := c.l1.filter fun e => !(tle e.2.fin c.lt && decide (2 ^ 21 ≤ (c.lt - e.2.fin).toNat)) }))

/-- The die floor: the earliest time of the die's cores (R232). -/
def State.dieFloor (s : State) (d : Nat) : BitVec 24 :=
  (dieCores d).foldl (fun t c => if tle (s.coreAt c).lt t then (s.coreAt c).lt else t) (s.coreAt (128 * d)).lt

/-- A timestamp that lies more than 2^21 behind the floor is raised to it (R232). -/
def liftTo (f t : BitVec 24) : BitVec 24 := if tle t f && decide (2 ^ 21 < (f - t).toNat) then f else t

/-- L2_SWEEP: the timestamps of the slice's lines, of the replicas it holds, and its MTS are raised to the die floor (R232,
R338). -/
def execL2Sweep (die slice : Nat) (s : State) : Out :=
  let f := s.dieFloor die
  let key := 32 * die + slice
  let l2 := s.coh.l2.map fun (e : Nat × L2Line) =>
    if sliceKey e.1 = key then (e.1, { e.2 with wts := liftTo f e.2.wts, rts := liftTo f e.2.rts }) else e
  let reps := s.coh.reps.map fun (e : (Nat × Nat) × Replica) =>
    if e.1.2 = die ∧ sliceOf (lineSize * e.1.1) = slice then (e.1, { e.2 with wts := liftTo f e.2.wts, rts := liftTo f e.2.rts }) else e
  s.powered (.next { s with coh := { s.coh with l2 := l2, reps := reps, mts := tput key (liftTo f (tget 0 s.coh.mts key)) s.coh.mts } })

end Sys2Proof.Machine
end

