-- ==== Sys2Proof/Machine/HostPort.lean ====
section
/-! DEFINITION. Sys2Proof/Machine/HostPort.lean: die-to-die links, inbound Herbor and CXL.io requests, the host's accesses
and snoops, access counters (R210, R215, R333, R340, R341, R344 to R347, R350). -/

namespace Sys2Proof.Machine

/-! ## Links (R333) -/

/-- The link between two dies, `a` below `b`, is up. -/
def State.linkUp (s : State) (a b : Nat) : Bool := !s.coh.down.any fun l => (l.1, l.2.1) == (min a b, max a b)

/-- FLIT_REPLAY: a flit of the link between two dies is sent again; 64 replays in a row fail the link, and a message that the link
delivers ends the row (R333). -/
def execFlitReplay (a b : Nat) (s : State) : Out :=
  if s.boot.stage == .off || !(decide (a < b) && decide (b < 4)) || !s.linkUp a b then .next s
  else .next { s with coh := { s.coh with replays := tput (a, b) (min 64 (tget 0 s.coh.replays (a, b) + 1)) s.coh.replays } }

/-- LINK_DOWN: a failed link is taken down and reported to the self-test, and its traffic runs through another die whose links to
both ends are up; no message is lost or overtaken (R329, R333). -/
def execLinkDown (a b via : Nat) (s : State) : Out :=
  if tget 0 s.coh.replays (a, b) < 64 || via == a || via == b || 3 < via || !s.linkUp a via || !s.linkUp via b then .next s
  else execSelfTest a (.lastingLink a b)
    { s with coh := { s.coh with down := (a, b, via) :: s.coh.down, replays := tdel (a, b) s.coh.replays } }

/-! ## Requests under a SID (R195, R210, R340, R350) -/

/-- A read or write of `n` bytes. -/
def inboundOf : Option (List Byte) → Inbound
  | none => .rd
  | some b => .wr b

/-- The bytes an access of an agent outside the package names. -/
def inSize (n : Nat) : Inbound → Nat
  | .at' o _ => atomSize o
  | _ => n

/-- A read's bytes or an atomic's old value to the requester, a write or the new value at home, by an agent outside the package
(R244, R325, R340, R341). -/
def State.serve (s : State) (pa n : Nat) : Inbound → State
  | .rd => { s with hst := { s.hst with ret := s.curRead pa n } }
  | .wr b => s.homeWrite .inbound none pa (b.take n)
  | .at' o ops =>
    let old := s.curRead pa (atomSize o)
    let s := s.homeWrite .inbound none pa (leBytes (atomNew o (leVal old) ops) (atomSize o))
    { s with hst := { s.hst with ret := old } }

/-- What an access of an agent outside the package asks of its translation (R200, R340): an atomic, to be read and written. -/
def inboundReq (r : Root) (w : Inbound) : XReq :=
  let q : XReq := { die := 0, root := r, user := true }
  match w with
  | .rd => { q with rd := true }
  | .wr _ => { q with wr := true }
  | .at' _ _ => { q with rd := true, wr := true }

/-- The lines that a write or an atomic touches. -/
def inLines (pa n : Nat) : Inbound → List Nat
  | .rd => []
  | _ => linesOf pa n

/-- The root of a request from outside the package: of a context, and for the storage path of any unit that serves the SID (R195, R340). -/
def State.inRoot (s : State) (a : Acc) (sid : Nat) : Option Root :=
  if a == .herbor then s.ctxRoot (BitVec.ofNat 16 sid) else s.rootOf (BitVec.ofNat 16 sid)

/-- A request of the Herbor port or of the storage path: refused where no context has its SID, held on a fault record or until the
host has given up a line, or served, each line that misses being counted (R200, R210, R214, R340, R346). It lies within a page, and reaches
no page of another package or of a configuration window; an atomic is aligned. -/
def State.request (s : State) (self : Instr) (a : Acc) (sid : Nat) (va : Dword) (n : Nat) (w : Inbound) : State :=
  let n := inSize n w
  if s.boot.stage != .run || 4096 < va.toNat % 4096 + n || !canonical va || (match w with
      | .at' _ _ => va.toNat % n != 0
      | _ => false) then s
  else
    match s.inRoot a sid with
    | none => s
    | some r =>
      match s.translate (inboundReq r w) va with
      | .trap _ => s
      | .flt kind level size =>
        let (s, tag) := s.addFault (s.partOfSid r.sid) r.sid kind level a va 0 0x1FF size
        { s with hst := { s.hst with waits := s.hst.waits ++ [(tag, self)] } }
      | .wait s => s.holdOn self
      | .ok s pa _ ac =>
        if regionOf pa == some .herbor then s
        else
          match s.claimAll (inLines pa n w) with
          | (s, true) => ((linesOf pa n).foldl (fun s ln => s.ensureLine ln 0 (s.partOfSid r.sid) ac) s).serve pa n w
          | (s, false) => s.holdOn self

/-- HERBOR_INBOUND_ACCESS (R340). -/
def execHerborInboundAccess (src sid : Nat) (va : BitVec 64) (n : Nat) (wr : Inbound) (s : State) : Out :=
  .next (s.request (.herborInboundAccess src sid va n wr) .herbor sid va n wr)

/-- STORAGE_PATH_REQUEST (R210, R344). -/
def execStoragePathRequest (sid : Nat) (va : BitVec 64) (n : Nat) (wr : Option (List Byte)) (s : State) : Out :=
  .next (s.request (.storagePathRequest sid va n wr) .cxlio sid va n (inboundOf wr))

/-! ## The host's CXL port (R344 to R347, R350) -/

/-- A write of a unit of bank `x`'s core `c` to a virtual address goes to the line. -/
def State.leadsTo (s : State) (x c : Nat) (va : Dword) (ln : Nat) : Bool :=
  match s.translate { die := s.dieOf x c, root := (s.ctxAt x).root, user := true, wr := true, marks := false } va with
  | .ok _ pa _ _ => pa / lineSize == ln
  | _ => false

/-- A step of the command that has begun, or stands at its port, writes the line. -/
def State.stepStores (s : State) (x c ln : Nat) (m : Cmd) : Bool :=
  match m.busy, m.nextStep with
  | some w, _ => w.glob.any fun b => b.1 / lineSize == ln
  | none, some t => m.port.isSome && t.rgs.any fun r => !r.sp && r.wr &&
      (List.range (r.hi / lineSize - r.lo / lineSize + 1)).any fun i =>
        decide ((r.lo / lineSize + i) % (4096 / lineSize) = ln % (4096 / lineSize)) &&
          s.leadsTo x c (BitVec.ofNat 64 ((r.lo / lineSize + i) * lineSize)) ln
  | none, none => false

/-- A page write-out of the core that stands at its port writes the line. -/
def State.pageStores (s : State) (x c ln : Nat) (t : Xfer) : Bool :=
  t.out && t.port.isSome &&
    let b := backAddr (((s.ctxAt x).coreAt (t.home.getD c)).page t.bs t.vpn).baddr
    (List.range (pageSize / lineSize)).any fun i => s.leadsTo x c (b + BitVec.ofNat 64 (i * lineSize)) ln

/-- A store of the device to the line has not been applied: of a thread, of a control core, of an engine's step that has begun or is
held, or of the Fixer held at its port (R325, R345). -/
def State.storesTo (s : State) (ln : Nat) : Bool :=
  s.ctl.any (fun e => match e.2.waitingStore with
    | some q => q.wts.isNone && q.pa / lineSize == ln
    | none => false) ||
  s.ctxs.any fun e =>
    e.2.infl.any (fun f => f.2.unapplied && (match f.2.pa with
      | some (pa, _) => pa / lineSize == ln
      | none => false)) ||
    e.2.cores.any fun u => u.2.xfers.any (s.pageStores e.1 u.1 ln) ||
      [EngQ.matrix, .copy, .chain, .scout].any fun q => ((u.2.q q).take 1).any (s.stepStores e.1 u.1 ln)

/-- The rts of a line, or of a line that has left L2 what its slice keeps of it (R229). -/
def State.lineRts (s : State) (ln : Nat) : BitVec 24 := match tfind s.coh.l2 ln with
  | some l => l.rts
  | none => s.mtsOf ln

/-- HOST_SNOOP: the slice answers once the device's stores to the line have been applied and die 0's floor lies beyond the
line's rts; the line leaves the device (R345). -/
def execHostSnoop (line : Nat) (s : State) : Out :=
  let f := s.dieFloor 0
  let r := s.lineRts line
  if s.boot.stage != .run || regionOf (lineSize * line) != some .host || s.storesTo line || !tle r f || r == f then .next s
  else .next (({ s with hst := { s.hst with ret := s.lineBytes line } } : State).evictLine line)

/-- The host may write a line of its memory that no L2 holds: no store of the device to it is still to be applied, and no core of die 0 can
read an older value (R345). -/
def State.hostClear (s : State) (ln : Nat) : Bool :=
  let f := s.dieFloor 0
  let r := s.lineRts ln
  (tfind s.coh.l2 ln).isNone && !s.storesTo ln &&
    ((tle r f && r != f) || !(dieCores 0).any fun c => (s.coreAt c).l1.any fun e => e.1 / 4 == ln)

/-- Lines of a die's snoop filter: 2^20 (R346). -/
def State.filterFull (s : State) (d : Nat) : Bool := decide (2 ^ 20 ≤ (s.hst.held.filter fun l => lineHome l == d).length)

/-- HOST_MEMORY_ACCESS: the host reads or writes device memory at HDMBASE plus its address, at the home slice; a full
filter first recalls an entry, and the access waits (R346). Not offered in reduced service (R350). -/
def execHostMemoryAccess (addr n : Nat) (wr : Option (List Byte)) (s : State) : Out :=
  let pa := addr - s.hst.hdmbase
  let ln := pa / lineSize
  if s.boot.stage != .run || addr < s.hst.hdmbase || !onPackage pa || lineSize < pa % lineSize + n then .next s
  else if !s.hst.held.contains ln && s.filterFull (lineHome ln) then
    match s.hst.held.find? fun l => lineHome l == lineHome ln with
    | some v => .next (if s.hst.inval.contains v then s else { s with hst := { s.hst with inval := v :: s.hst.inval } })
    | none => .next s
  else
    let s := s.serve pa n (inboundOf wr)
    .next (if s.hst.held.contains ln then s else { s with hst := { s.hst with held := ln :: s.hst.held } })

/-- BACK_INVALIDATION_RESPONSE: the host no longer holds the line, and what waited for it may go on; a request held for it is made
again, and the arbiter's writes of the telemetry page go on (R346, R356). -/
def execBackInvalidationResponse (line : Nat) (s : State) : Out :=
  if s.hst.inval.contains line then
    let telem := if s.power.telemW.isEmpty || s.agenda.contains .telem then [] else [Act.telem]
    let again := (s.hst.waits.filter fun w => w.1 == hostTag + line).map (fun w => Act.event w.2) ++ telem
    .next { s with agenda := again ++ s.agenda,
                   hst := { s.hst with inval := s.hst.inval.filter (· != line), held := s.hst.held.filter (· != line),
                                       waits := s.hst.waits.filter fun w => w.1 != hostTag + line } }
  else .next s

/-- HDMBASE_WRITE (R346). -/
def execHdmbaseWrite (v : Nat) (s : State) : Out := s.powered (.next { s with hst := { s.hst with hdmbase := v } })

/-! ## The world outside (R215, R340, R342, R344, R347; log 70) -/

/-- What the world outside the package does: it writes memory of its own, sends a message, reads or writes a configuration window,
takes an interrupt; the kernel sets the threshold of the access counters. The host writes a line of its memory that no L2 holds:
before, its snoop must have been answered (R345). -/
def State.outside (s : State) (o : Outside) : State :=
  if s.boot.stage != .run then s
  else
    match o with
    | .farWrite pa b => if 2 ^ 80 ≤ pa then s.farWrite pa b else s
    | .farMessage x launch dst words src =>
      if (s.ctxAt x).st == .free || words.length != 4 || BitVec.ofNat 8 src = Config.pkg then s
      else
        let id := (s.ctxAt x).nextId
        let m : RMsg := { core := 0, slot := 0, gd := 0, launch, dst, words, src := some src }
        s.modCtx x fun k => { k with msgs := tput id m k.msgs, nextId := id + 1 }
    | .hostWrite pa b =>
      if (lineRuns b.length pa b).all fun e => regionOf e.1 == some .host && s.hostClear (e.1 / lineSize) then
        { s with mem := memWrite pa b s.mem }
      else s
    | .windowRead die off n =>
      if die < 4 then { s with hst := { s.hst with ret := ((leBytes (s.winRead die (off / 8 * 8)).toNat 8).drop (off % 8)).take n } } else s
    | .windowWrite die off v => if die < 4 then s.winWrite die off v else s
    | .msix v => { s with hst := { s.hst with msix := s.hst.msix ++ [v] } }
    | .threshold n => if 1 ≤ n ∧ n ≤ 65535 then { s with tr := { s.tr with limit := some n } } else s

/-- ACCESS_COUNTER_REARM: the four counts of a region clear, and counting goes on (R215). -/
def execAccessCounterRearm (region : Nat) (s : State) : Out :=
  .next { s with tr := { s.tr with counts := tdel region s.tr.counts } }

end Sys2Proof.Machine
end

