-- ==== Sys2Proof/Machine/Boot.lean ====
section
/-! DEFINITION. Sys2Proof/Machine/Boot.lean: power, boot, images, measurement and the mailbox (R2, R9, R348 to R351). -/

namespace Sys2Proof.Machine

/-! ## Power and reset (R2, R348) -/

/-- The part at the start of a boot: flash and fuses stay, and what lies in other packages; everything else is as after reset. -/
def State.restart (s : State) (stage : Stage) (dump : Option Nat) : State :=
  { State.reset with
    agenda := s.agenda, fresh := s.fresh, far := s.far,
    boot := { stage, slotA := s.boot.slotA, slotB := s.boot.slotB, digest0 := s.boot.digest0, digest1 := s.boot.digest1,
              version := s.boot.version, secret := s.boot.secret, dumped := dump,
              taken := if dump.isSome then s.boot.taken else [] } }

/-- POWER_OFF (R2). -/
def execPowerOff (s : State) : Out := .next (s.restart .off none)

/-- POWER_ON: a cold boot begins (R348). -/
def execPowerOn (s : State) : Out := if s.boot.stage = .off then .next (s.restart .rom none) else .next s

/-- Memory whose contents may survive but are not guaranteed (R348): each listed byte becomes the free value numbered from
`n` on, but those that `keep` names. -/
def freeCells (keep : Nat → Bool) (n : Nat) : List Host.Cell → List Host.Cell
  | [] => []
  | (a, v) :: r =>
    if keep a then (a, v) :: freeCells keep (n + 1) r
    else
      let b := (Config.free64 n).truncate 8
      if b = 0 then freeCells keep (n + 1) r else (a, b) :: freeCells keep (n + 1) r

/-- An address of the dump region (R350). -/
def inDump (a : Nat) : Bool := decide (dumpBase ≤ a) && decide (a < dumpBase + 2 ^ 36)

/-- The host has read a byte of the dump region since the fatal stop (R348). -/
def Boot.took (b : Boot) (a : Nat) : Bool := b.taken.any fun e => decide (dumpBase + e.1 ≤ a) && decide (a < dumpBase + e.1 + e.2)

/-- A byte of the dump of a fatal stop that the host has neither read nor released (R348). -/
def Boot.keeps (b : Boot) (a : Nat) : Bool := b.dumped.isSome && inDump a && !b.took a

/-- WARM_BOOT: as a cold boot, but the dump region stays after a fatal stop till the host has taken it, and other memory may survive
(R330, R348). -/
def execWarmBoot (s : State) : Out :=
  if s.boot.stage = .off then .next s
  else
    let t := s.restart .rom s.boot.dumped
    .next { t with mem := freeCells s.boot.keeps s.fresh s.mem, fresh := s.fresh + s.mem.length }

/-! ## Images (R349, R351) -/

/-- The bytes of an image: header, body and signature (R349). -/
def imageBytes (i : Image) : List Byte := i.body ++ i.sig

/-- The digest of an image's header and body (R349). -/
def imageDigest (i : Image) : BitVec 256 := Config.sha3 i.body

/-- The signature verifies under the image's key, and the version is not below the fused counter (R349). -/
def Boot.signed (b : Boot) (i : Image) : Bool := Config.mldsaVerify i.key (imageDigest i) i.sig && decide (b.version ≤ i.version)

/-- A firmware image is accepted (R349). -/
def Boot.accepts (b : Boot) (i : Image) : Bool :=
  b.signed i && (Config.sha3 i.key == b.digest0 || Config.sha3 i.key == b.digest1)

/-- A digest as bytes. -/
def digestBytes (d : BitVec 256) : List Byte := leBytes d.toNat 32

/-- The measurement register and log extended by an image (R351). -/
def Boot.extend (b : Boot) (i : Image) : Boot :=
  { b with measure := Config.sha3 (digestBytes b.measure ++ digestBytes (imageDigest i)), log := b.log ++ [imageDigest i] }

/-- The firmware image that booted. -/
def Boot.firmware (b : Boot) : Option Image :=
  match b.booted with
  | some false => b.slotA
  | some true => b.slotB
  | none => none

/-- Die `d`'s firmware entry address (R348). -/
def entryOf (d : Nat) : Nat := d * 0x003000000000 + 0x00100000

/-! ## The stages (R348) -/

/-- Stage 0 reads the image of a slot into die 0's HBM (R348); what an empty slot has is nothing. -/
def State.readSlot (s : State) (i : Option Image) : State :=
  match i with
  | some i => s.homeWrite .nobody none (entryOf 0) (imageBytes i)
  | none => s

/-- The image of a slot is accepted (R349). -/
def Boot.slotOk (b : Boot) (i : Option Image) : Bool :=
  match i with
  | some i => b.accepts i
  | none => false

/-- ROM_BOOT: stage 0 reads slot A in and verifies it, else slot B; without either the module stays in reduced service (R348 to R350). -/
def execRomBoot (s : State) : Out :=
  if s.boot.stage != .rom then .next s
  else
    let b := s.boot
    let slot := if b.slotOk b.slotA then some false else if b.slotOk b.slotB then some true else none
    let s := s.readSlot b.slotA
    let s := if b.slotOk b.slotA then s else s.readSlot b.slotB
    match ({ b with booted := slot } : Boot).firmware with
    | none => .next { s with boot := { b with stage := .reduced } }
    | some i => .next { s with boot := { (b.extend i) with booted := slot, stage := .firmware, stat := 1 } }

/-- A stage that works under the firmware's image extends the measurement by it (R351, log 83). -/
def Boot.stageDone (b : Boot) (next : Stage) : Boot := match b.firmware with
  | some i => { b.extend i with stage := next }
  | none => { b with stage := next }

/-- FIRMWARE_BRINGUP: stage 1; links, memory and ports are trained, and the dump region is set aside (R348, R350, R351). -/
def execFirmwareBringup (s : State) : Out :=
  if s.boot.stage != .firmware then .next s else .next { s with boot := s.boot.stageDone .cores }

/-- START_CORES: stage 2 copies the image to every die and starts every Gecko pair and control core (R9, R348, R351). -/
def execStartCores (s : State) : Out :=
  match s.boot.stage, s.boot.firmware with
  | .cores, some i =>
    let s := [1, 2, 3].foldl (fun s d => s.homeWrite .nobody none (entryOf d) (imageBytes i)) s
    .next { s with ctl := (List.range 20).map fun n => (n, { Ctl.reset n with running := true }), boot := s.boot.stageDone .started }
  | _, _ => .next s

/-- KERNEL_LOAD: stage 3 loads the kernel's image, verifies it against the key the firmware names, measures it, and enters it at
kernel level on control core 0 of die 0, at the address it was loaded to (R348, R349, R351). -/
def execKernelLoad (img : Image) (loc : Nat) (s : State) : Out :=
  match s.boot.stage, s.boot.firmware with
  | .started, some fw =>
    if regionOf loc != some .hbm || loc % 4 != 0 then .next s
    else
      let s := s.homeWrite .nobody none loc (imageBytes img)
      if !s.boot.signed img || img.key != Config.kernelKey fw.body then .next s else
      let s := s.modCtl 0 fun c => { c with pl := .kernel, running := true, t := c.t.goTo (BitVec.ofNat 57 loc) }
      .next { s with boot := { (s.boot.extend img) with stage := .kernel, stat := 2 } }
  | _, _ => .next s

/-! ## The mailbox (R348, R350, R351) -/

/-- The mailbox answers: the module has power and is not held in reset. -/
def Boot.answers (b : Boot) : Bool := b.stage != .off && b.stage != .stopped

/-- A mailbox command that reduced service accepts too. -/
def State.mailbox (s : State) (f : Boot → Boot) : Out := .next (if s.boot.answers then { s with boot := f s.boot } else s)

/-- A mailbox command that only full service accepts (R350). -/
def State.mailboxRun (s : State) (f : Boot → Boot) : Out := .next (if s.boot.stage = .run then { s with boot := f s.boot } else s)

/-- MAILBOX_STATUS: BOOTSTAT (R350). -/
def execMailboxStatus (s : State) : Out := s.mailbox fun b => { b with reply := leBytes b.stat.toNat 8 }

/-- MAILBOX_LOAD: an image that R349 accepts goes to the slot that did not boot; to slot A when neither did (R350). -/
def execMailboxLoad (img : Image) (s : State) : Out :=
  s.mailbox fun b =>
    if !b.accepts img then b
    else if b.booted = some false then { b with slotB := some img } else { b with slotA := some img }

/-- MAILBOX_DUMP: bytes of the dump region; a warm boot need not keep those any longer (R330, R348, R350, log 82). -/
def execMailboxDump (off n : Nat) (s : State) : Out :=
  let n := min n (2 ^ 36 - off)
  s.mailbox fun b => { b with reply := s.curRead (dumpBase + off) n, taken := if b.dumped.isSome then (off, n) :: b.taken else b.taken }

/-- MAILBOX_CLEAR: the dump is released (R348). -/
def execMailboxClear (s : State) : Out := s.mailboxRun fun b => { b with dumped := none, taken := [] }

/-- MAILBOX_ATTEST: the measurement log, and its signature with the nonce by the identity key (R351). -/
def execMailboxAttest (nonce : List Byte) (s : State) : Out :=
  s.mailboxRun fun b =>
    match b.firmware with
    | none => b
    | some fw =>
      if nonce.length != 32 then b
      else
        let log := b.log.flatMap digestBytes
        { b with reply := log ++ Config.mldsaSign (Config.identityKey b.secret fw.version) (Config.sha3 (nonce ++ log)) }

/-- VERSION_COUNTER_RAISE: a command of the resident kernel; the counter is never lowered (R349). -/
def execVersionCounterRaise (v : Nat) (s : State) : Out :=
  if s.boot.stage = .kernel ∨ s.boot.stage = .run then .next { s with boot := { s.boot with version := max s.boot.version v } }
  else .next s

end Sys2Proof.Machine
end

