-- ==== Sys2Proof/Machine/Control.lean ====
section
/-! DEFINITION. Sys2Proof/Machine/Control.lean: hints, address and modulo registers, branches and calls (R19, R60, R84,
R88 to R90). -/

namespace Sys2Proof.Machine

/-! ## Hint words (R19, R60) -/

/-- HX (R60). -/
def execHx (e : BitVec 23) (s : State) : Out :=
  hintWord (.hx e) s Hints.hx fun h => { h with hx := some e }

/-- HM: NEG, SAT, RND, CACHE (R60). -/
def execHm (n t : BitVec 1) (r : BitVec 3) (c : BitVec 2) (s : State) : Out :=
  hintWord (.hm n t r c) s Hints.hm fun h => { h with hm := some (n ++ t ++ r ++ c ++ 0#16) }

/-- HE: GANG, KREG, KMODE, EVEN, EVNUM, TN3 (R60). -/
def execHe (g : BitVec 1) (k : BitVec 3) (m v : BitVec 1) (e : BitVec 6) (t : BitVec 8) (s : State) : Out :=
  hintWord (.he g k m v e t) s Hints.he fun h => { h with he := some (g ++ k ++ m ++ v ++ e ++ t ++ 0#3) }

/-- HS: HOLDC, RGNOW, PACK (R60). -/
def execHs (h : BitVec 7) (r k : BitVec 1) (s : State) : Out :=
  hintWord (.hs h r k) s Hints.hs fun x => { x with hs := some (h ++ r ++ k ++ 0#14) }

/-! ## Address and modulo registers (R84) -/

/-- LDA (R84). -/
def execLda (pg x : BitVec 3) (g : BitVec 7) (s : State) : Out :=
  regWord { i := .lda pg x g, pg, gs := [g.toNat, g.toNat + 1], rs := [.a x.toNat] } s fun th =>
    th.setA x.toNat (th.pair g.toNat)

/-- STA (R84). -/
def execSta (pg x : BitVec 3) (g : BitVec 7) (s : State) : Out :=
  regWord { i := .sta pg x g, pg, gs := [g.toNat, g.toNat + 1], rs := [.a x.toNat] } s fun th =>
    th.setPair g.toNat (th.ar x.toNat)

/-- ADDA (R84). -/
def execAdda (pg x : BitVec 3) (g : BitVec 7) (s : State) : Out :=
  regWord { i := .adda pg x g, pg, gs := [g.toNat], rs := [.a x.toNat] } s fun th =>
    th.setA x.toNat (th.ar x.toNat + (th.gr g.toNat).signExtend 64)

/-- ADDAI, with a 33-bit constant under HX (R62, R84). -/
def execAddai (pg x : BitVec 3) (i : BitVec 10) (s : State) : Out :=
  regWord { i := .addai pg x i, pg, rs := [.a x.toNat], hu := { hx := true } } s fun th =>
    th.setA x.toNat (th.ar x.toNat + BitVec.ofInt 64 (th.hints.imm i))

/-- SETM (R84). -/
def execSetm (pg x : BitVec 3) (g : BitVec 7) (s : State) : Out :=
  regWord { i := .setm pg x g, pg, gs := [g.toNat, g.toNat + 1], rs := [.m x.toNat] } s fun th =>
    th.setM x.toNat (th.pair g.toNat)

/-- CLRM (R84). -/
def execClrm (pg x : BitVec 3) (s : State) : Out :=
  regWord { i := .clrm pg x, pg, rs := [.m x.toNat] } s fun th => th.setM x.toNat 0

/-! ## Branches and calls (R88, R89) -/

/-- The target of a word-offset branch (R59, R88). -/
def braTarget (th : Thread) (o : BitVec 23) : BitVec 57 := th.pc + BitVec.ofInt 57 (4 * th.hints.imm o)

/-- The link of a call: the next word's address in canonical form (R88). -/
def link (th : Thread) : Dword := (th.pc + 4).signExtend 64

/-- BRA (R88). -/
def execBra (pg : BitVec 3) (o : BitVec 23) (s : State) : Out :=
  runWord { i := .bra pg o, pg, hu := { hx := true } } s (.jump s (braTarget s.me o))

/-- CALL (R88). -/
def execCall (pg : BitVec 3) (o : BitVec 23) (s : State) : Out :=
  runWord { i := .call pg o, pg, rs := [.a 7], hu := { hx := true } } s
    (.jump (s.modMe (·.setA 7 (link s.me))) (braTarget s.me o))

/-- A branch to a register's value: canonical, then aligned, then taken (R89). -/
def regBranch (t : Dword) (s' : State) : Res :=
  if !canonical t then .trap 0x04 t false
  else if t.extractLsb' 0 2 != 0 then .trap 0x02 t false
  else .jump s' (t.extractLsb' 0 57)

/-- BRX (R89). -/
def execBrx (pg x : BitVec 3) (s : State) : Out :=
  runWord { i := .brx pg x, pg, rs := [.a x.toNat] } s (regBranch (s.me.ar x.toNat) s)

/-- CALLX: the target is read before a7 is written (R89). -/
def execCallx (pg x : BitVec 3) (s : State) : Out :=
  runWord { i := .callx pg x, pg, rs := [.a x.toNat, .a 7] } s
    (regBranch (s.me.ar x.toNat) (s.modMe (·.setA 7 (link s.me))))

/-- RET (R89). -/
def execRet (pg : BitVec 3) (s : State) : Out :=
  runWord { i := .ret pg, pg, rs := [.a 7] } s (regBranch (s.me.ar 7) s)

end Sys2Proof.Machine
end

