-- ==== Sys2Proof/Machine/Integer.lean ====
section
/-! DEFINITION. Sys2Proof/Machine/Integer.lean: integer arithmetic, logic, shifts, immediates, bit fields, predicates
and tile masks (R72 to R83, R87). -/

namespace Sys2Proof.Machine

/-! ## Results -/

/-- SATWRAP (R72): saturated to the signed 32-bit range under HM.SAT, then mod 2^32. -/
def satWrap (sat : Bool) (v : Int) : Word :=
  BitVec.ofInt 32 (if sat then Max.max (-2147483648) (Min.min v 2147483647) else v)

/-- SHL with a count that may be 32 or more (R76). -/
def shlW (x : Word) (c : Nat) : Word := if 32 ≤ c then 0 else x <<< c

/-- SHR (R76). -/
def shrW (x : Word) (c : Nat) : Word := if 32 ≤ c then 0 else x >>> c

/-- SAR (R76). -/
def sarW (x : Word) (c : Nat) : Word := x.sshiftRight (Min.min c 31)

/-- ROTR (R76). -/
def rotrW (x : Word) (c : Nat) : Word := x.rotateRight (c % 32)

/-- Number of leading zero bits, 32 for zero (R73). -/
def clzW (x : Word) : Nat := ((List.range 32).find? fun i => x.getLsbD (31 - i)).getD 32

/-- Number of one bits (R73, R87). -/
def popcount {n : Nat} (x : BitVec n) : Nat := ((List.range n).filter fun i => x.getLsbD i).length

/-- Bit i of the result is bit 31 - i of the source (R73). -/
def brevW (x : Word) : Word :=
  (List.range 32).foldl (fun r i => if x.getLsbD (31 - i) then r ||| (1 <<< i) else r) 0

/-- ABS (R73). -/
def absW (x : Word) : Word := BitVec.ofNat 32 x.toInt.natAbs

/-- Position and length of a bit field (R79). -/
def fieldOf (b : Word) : Nat × Nat :=
  let pos := (b.extractLsb' 0 8).toNat
  (pos, if 32 ≤ pos then 0 else Min.min (b.extractLsb' 8 8).toNat (32 - pos))

/-- BFEU (R79). -/
def bfeuW (a b : Word) : Word :=
  let (pos, n) := fieldOf b
  BitVec.ofNat 32 (a.toNat >>> pos % 2 ^ n)

/-- BFE: the field sign-extended from its width; 0 for an empty one (R79). -/
def bfeW (a b : Word) : Word :=
  let (pos, n) := fieldOf b
  let f := a.toNat >>> pos % 2 ^ n
  if n = 0 then 0 else BitVec.ofInt 32 (if f < 2 ^ (n - 1) then f else (f : Int) - 2 ^ n)

/-- BFI (R79). -/
def bfiW (d a b : Word) : Word :=
  let (pos, n) := fieldOf b
  let mask : Word := BitVec.ofNat 32 ((2 ^ n - 1) * 2 ^ pos)
  (d &&& ~~~mask) ||| ((a <<< pos) &&& mask)

/-- PRMT (R80): the selector, then bytes 0 to 3 of ga and 4 to 7 of gb. -/
def prmtW (d a b : Word) : Word :=
  let src : BitVec 64 := b ++ a
  let byte := fun (i : Nat) =>
    let x : BitVec 8 := src.extractLsb' (8 * (d.extractLsb' (4 * i) 3).toNat) 8
    if d.getLsbD (4 * i + 3) then (if x.getLsbD 7 then 0xFF else 0x00) else x
  byte 3 ++ byte 2 ++ byte 1 ++ byte 0

/-- A SETP condition on two values, signed and unsigned (R65, R81). -/
def icond (c : ICond) (sx sy : Int) (ux uy : Nat) : Bool :=
  match c with
  | .eq => ux == uy
  | .ne => ux != uy
  | .lt => decide (sx < sy)
  | .le => decide (sx ≤ sy)
  | .gt => decide (sy < sx)
  | .ge => decide (sy ≤ sx)
  | .ltu => decide (ux < uy)
  | .leu => decide (ux ≤ uy)
  | .gtu => decide (uy < ux)
  | .geu => decide (uy ≤ ux)

/-- The lowest set bit at or after `i`, or 0xFFFF_FFFF (R87). -/
def knextW (k : BitVec 256) (i : Word) : Word :=
  match (List.range 256).find? fun j => decide (i.toNat ≤ j) && k.getLsbD j with
  | some j => BitVec.ofNat 32 j
  | none => 0xFFFFFFFF

/-! ## Majors 0x01, 0x04, 0x05 (R72) -/

/-- ADD (R72). -/
def execAdd (pg : BitVec 3) (d a b : BitVec 7) (s : State) : Out :=
  alu3 (.add pg d a b) pg d a b s { sat := true } fun h x y => satWrap h.sat (x.toInt + y.toInt)

/-- SUB (R72). -/
def execSub (pg : BitVec 3) (d a b : BitVec 7) (s : State) : Out :=
  alu3 (.sub pg d a b) pg d a b s { sat := true } fun h x y => satWrap h.sat (x.toInt - y.toInt)

/-- ADDC: the carry (R72). -/
def execAddc (pg : BitVec 3) (d a b : BitVec 7) (s : State) : Out :=
  alu3 (.addc pg d a b) pg d a b s {} fun _ x y => if 2 ^ 32 ≤ x.toNat + y.toNat then 1 else 0

/-- SUBB: the borrow (R72). -/
def execSubb (pg : BitVec 3) (d a b : BitVec 7) (s : State) : Out :=
  alu3 (.subb pg d a b) pg d a b s {} fun _ x y => if x.toNat < y.toNat then 1 else 0

/-- MUL (R72). -/
def execMul (pg : BitVec 3) (d a b : BitVec 7) (s : State) : Out :=
  alu3 (.mul pg d a b) pg d a b s { sat := true } fun h x y => satWrap h.sat (x.toInt * y.toInt)

/-- MULHU (R72). -/
def execMulhu (pg : BitVec 3) (d a b : BitVec 7) (s : State) : Out :=
  alu3 (.mulhu pg d a b) pg d a b s {} fun _ x y => BitVec.ofNat 32 (x.toNat * y.toNat / 2 ^ 32)

/-- MULHS: an arithmetic shift of the exact product (R72). -/
def execMulhs (pg : BitVec 3) (d a b : BitVec 7) (s : State) : Out :=
  alu3 (.mulhs pg d a b) pg d a b s {} fun _ x y => BitVec.ofInt 32 ((x.toInt * y.toInt) / 2 ^ 32)

/-- MAD: D is also the addend (R72). -/
def execMad (pg : BitVec 3) (d a b : BitVec 7) (s : State) : Out :=
  alu3d (.mad pg d a b) pg d a b s { sat := true } fun h c x y => satWrap h.sat (c.toInt + x.toInt * y.toInt)

/-- MIN (R72). -/
def execMin (pg : BitVec 3) (d a b : BitVec 7) (s : State) : Out :=
  alu3 (.min pg d a b) pg d a b s {} fun _ x y => if x.toInt ≤ y.toInt then x else y

/-- MAX (R72). -/
def execMax (pg : BitVec 3) (d a b : BitVec 7) (s : State) : Out :=
  alu3 (.max pg d a b) pg d a b s {} fun _ x y => if y.toInt ≤ x.toInt then x else y

/-- MINU (R72). -/
def execMinu (pg : BitVec 3) (d a b : BitVec 7) (s : State) : Out :=
  alu3 (.minu pg d a b) pg d a b s {} fun _ x y => if x.toNat ≤ y.toNat then x else y

/-- MAXU (R72). -/
def execMaxu (pg : BitVec 3) (d a b : BitVec 7) (s : State) : Out :=
  alu3 (.maxu pg d a b) pg d a b s {} fun _ x y => if y.toNat ≤ x.toNat then x else y

/-! ## Majors 0x06, 0x07 (R73, R74) -/

/-- CLZ (R73). -/
def execClz (pg : BitVec 3) (d a : BitVec 7) (s : State) : Out :=
  alu2 (.clz pg d a) pg d a s {} fun _ x => BitVec.ofNat 32 (clzW x)

/-- POPC (R73). -/
def execPopc (pg : BitVec 3) (d a : BitVec 7) (s : State) : Out :=
  alu2 (.popc pg d a) pg d a s {} fun _ x => BitVec.ofNat 32 (popcount x)

/-- BREV (R73). -/
def execBrev (pg : BitVec 3) (d a : BitVec 7) (s : State) : Out :=
  alu2 (.brev pg d a) pg d a s {} fun _ x => brevW x

/-- ABS; HM.SAT does not apply (R73). -/
def execAbs (pg : BitVec 3) (d a : BitVec 7) (s : State) : Out :=
  alu2 (.abs pg d a) pg d a s {} fun _ x => absW x

/-- Major 0x07 on pairs: the result of the pair at A and the registers at B written to the pair at D (R74). -/
def alu64 (i : Instr) (pg : BitVec 3) (d a : BitVec 7) (bs : List Nat) (s : State) (f : Thread → Dword → Dword) : Out :=
  regWord { i, pg, gs := [d.toNat, d.toNat + 1, a.toNat, a.toNat + 1] ++ bs } s fun th =>
    th.setPair d.toNat (f th (th.pair a.toNat))

/-- ADD64 (R74). -/
def execAdd64 (pg : BitVec 3) (d a b : BitVec 7) (s : State) : Out :=
  alu64 (.add64 pg d a b) pg d a [b.toNat, b.toNat + 1] s fun th x => x + th.pair b.toNat

/-- SUB64 (R74). -/
def execSub64 (pg : BitVec 3) (d a b : BitVec 7) (s : State) : Out :=
  alu64 (.sub64 pg d a b) pg d a [b.toNat, b.toNat + 1] s fun th x => x - th.pair b.toNat

/-- SHL64: a single count register; 0 for a count of 64 or more (R74). -/
def execShl64 (pg : BitVec 3) (d a b : BitVec 7) (s : State) : Out :=
  alu64 (.shl64 pg d a b) pg d a [b.toNat] s fun th x =>
    if 64 ≤ (th.gr b.toNat).toNat then 0 else x <<< (th.gr b.toNat).toNat

/-- SHR64 (R74). -/
def execShr64 (pg : BitVec 3) (d a b : BitVec 7) (s : State) : Out :=
  alu64 (.shr64 pg d a b) pg d a [b.toNat] s fun th x =>
    if 64 ≤ (th.gr b.toNat).toNat then 0 else x >>> (th.gr b.toNat).toNat

/-! ## Logic and shifts (R75, R76) -/

/-- AND (R75). -/
def execAnd (pg : BitVec 3) (d a b : BitVec 7) (s : State) : Out :=
  alu3 (.and pg d a b) pg d a b s {} fun _ x y => x &&& y

/-- OR (R75). -/
def execOr (pg : BitVec 3) (d a b : BitVec 7) (s : State) : Out :=
  alu3 (.or pg d a b) pg d a b s {} fun _ x y => x ||| y

/-- XOR (R75). -/
def execXor (pg : BitVec 3) (d a b : BitVec 7) (s : State) : Out :=
  alu3 (.xor pg d a b) pg d a b s {} fun _ x y => x ^^^ y

/-- ANDN (R75). -/
def execAndn (pg : BitVec 3) (d a b : BitVec 7) (s : State) : Out :=
  alu3 (.andn pg d a b) pg d a b s {} fun _ x y => x &&& ~~~y

/-- SHL (R76). -/
def execShl (pg : BitVec 3) (d a b : BitVec 7) (s : State) : Out :=
  alu3 (.shl pg d a b) pg d a b s {} fun _ x y => shlW x y.toNat

/-- SHR (R76). -/
def execShr (pg : BitVec 3) (d a b : BitVec 7) (s : State) : Out :=
  alu3 (.shr pg d a b) pg d a b s {} fun _ x y => shrW x y.toNat

/-- SAR (R76). -/
def execSar (pg : BitVec 3) (d a b : BitVec 7) (s : State) : Out :=
  alu3 (.sar pg d a b) pg d a b s {} fun _ x y => sarW x y.toNat

/-- ROTR (R76). -/
def execRotr (pg : BitVec 3) (d a b : BitVec 7) (s : State) : Out :=
  alu3 (.rotr pg d a b) pg d a b s {} fun _ x y => rotrW x y.toNat

/-- SHLI (R76). -/
def execShli (pg : BitVec 3) (d a : BitVec 7) (n : BitVec 5) (s : State) : Out :=
  alu2 (.shli pg d a n) pg d a s {} fun _ x => shlW x n.toNat

/-- SHRI (R76). -/
def execShri (pg : BitVec 3) (d a : BitVec 7) (n : BitVec 5) (s : State) : Out :=
  alu2 (.shri pg d a n) pg d a s {} fun _ x => shrW x n.toNat

/-- SARI (R76). -/
def execSari (pg : BitVec 3) (d a : BitVec 7) (n : BitVec 5) (s : State) : Out :=
  alu2 (.sari pg d a n) pg d a s {} fun _ x => sarW x n.toNat

/-- ROTRI (R76). -/
def execRotri (pg : BitVec 3) (d a : BitVec 7) (n : BitVec 5) (s : State) : Out :=
  alu2 (.rotri pg d a n) pg d a s {} fun _ x => rotrW x n.toNat

/-! ## Immediates (R77, R78) -/

/-- ADDI, with SATWRAP (R77). -/
def execAddi (pg : BitVec 3) (d a : BitVec 7) (i : BitVec 9) (s : State) : Out :=
  alu2 (.addi pg d a i) pg d a s { hx := true, sat := true } fun h x =>
    satWrap h.sat (x.toInt + (BitVec.ofInt 32 (h.imm i)).toInt)

/-- ANDI (R77). -/
def execAndi (pg : BitVec 3) (d a : BitVec 7) (i : BitVec 9) (s : State) : Out :=
  alu2 (.andi pg d a i) pg d a s { hx := true } fun h x => x &&& BitVec.ofInt 32 (h.imm i)

/-- ORI (R77). -/
def execOri (pg : BitVec 3) (d a : BitVec 7) (i : BitVec 9) (s : State) : Out :=
  alu2 (.ori pg d a i) pg d a s { hx := true } fun h x => x ||| BitVec.ofInt 32 (h.imm i)

/-- XORI (R77). -/
def execXori (pg : BitVec 3) (d a : BitVec 7) (i : BitVec 9) (s : State) : Out :=
  alu2 (.xori pg d a i) pg d a s { hx := true } fun h x => x ^^^ BitVec.ofInt 32 (h.imm i)

/-- MOVI: the immediate's low 32 bits (R62, R78). -/
def execMovi (pg : BitVec 3) (d : BitVec 7) (i : BitVec 16) (s : State) : Out :=
  regWord { i := .movi pg d i, pg, gs := [d.toNat], hu := { hx := true } } s fun th =>
    th.setG d.toNat (BitVec.ofInt 32 (th.hints.imm i))

/-! ## Bit fields and byte permutation (R79, R80) -/

/-- BFE (R79). -/
def execBfe (pg : BitVec 3) (d a b : BitVec 7) (s : State) : Out :=
  alu3 (.bfe pg d a b) pg d a b s {} fun _ x y => bfeW x y

/-- BFEU (R79). -/
def execBfeu (pg : BitVec 3) (d a b : BitVec 7) (s : State) : Out :=
  alu3 (.bfeu pg d a b) pg d a b s {} fun _ x y => bfeuW x y

/-- BFI (R79). -/
def execBfi (pg : BitVec 3) (d a b : BitVec 7) (s : State) : Out :=
  alu3d (.bfi pg d a b) pg d a b s {} fun _ c x y => bfiW c x y

/-- PRMT (R80). -/
def execPrmt (pg : BitVec 3) (d a b : BitVec 7) (s : State) : Out :=
  alu3d (.prmt pg d a b) pg d a b s {} fun _ c x y => prmtW c x y

/-! ## Predicates and selection (R81 to R83) -/

/-- SETP on 32-bit registers (R81). -/
def execSetp (pg q : BitVec 3) (c : ICond) (a b : BitVec 7) (s : State) : Out :=
  regWord { i := .setp pg q c a b, pg, gs := [a.toNat, b.toNat], rs := [.p q.toNat] } s fun th =>
    let x := th.gr a.toNat
    let y := th.gr b.toNat
    th.setP q.toNat (icond c x.toInt y.toInt x.toNat y.toNat)

/-- SETP on pairs (R81). -/
def execSetp64 (pg q : BitVec 3) (c : ICond) (a b : BitVec 7) (s : State) : Out :=
  regWord { i := .setp64 pg q c a b, pg, gs := [a.toNat, a.toNat + 1, b.toNat, b.toNat + 1], rs := [.p q.toNat] } s
    fun th =>
      let x := th.pair a.toNat
      let y := th.pair b.toNat
      th.setP q.toNat (icond c x.toInt y.toInt x.toNat y.toNat)

/-- SETP against a signed 7-bit immediate, read as a 32-bit pattern (R81). -/
def execSetpImm (pg q : BitVec 3) (c : ICond) (a i : BitVec 7) (s : State) : Out :=
  regWord { i := .setpImm pg q c a i, pg, gs := [a.toNat], rs := [.p q.toNat] } s fun th =>
    let x := th.gr a.toNat
    let y : Word := i.signExtend 32
    th.setP q.toNat (icond c x.toInt y.toInt x.toNat y.toNat)

/-- PLOP: TT[2 * pa + pb] (R82). -/
def execPlop (pg q a b : BitVec 3) (t : BitVec 4) (s : State) : Out :=
  regWord { i := .plop pg q a b t, pg, rs := [.p q.toNat, .p a.toNat, .p b.toNat] } s fun th =>
    th.setP q.toNat (t.getLsbD (2 * (th.pr a.toNat).toNat + (th.pr b.toNat).toNat))

/-- SEL on p0 to p3 (R83). -/
def execSel (pg : BitVec 3) (d a b : BitVec 7) (n : BitVec 2) (s : State) : Out :=
  regWord { i := .sel pg d a b n, pg, gs := [d.toNat, a.toNat, b.toNat], rs := [.p n.toNat] } s fun th =>
    th.setG d.toNat (if th.pr n.toNat then th.gr a.toNat else th.gr b.toNat)

/-! ## Tile masks (R87) -/

/-- KNEXT (R87). -/
def execKnext (pg : BitVec 3) (d : BitVec 7) (k : BitVec 3) (b : BitVec 7) (s : State) : Out :=
  regWord { i := .knext pg d k b, pg, gs := [d.toNat, b.toNat], rs := [.k k.toNat] } s fun th =>
    th.setG d.toNat (knextW (th.kr k.toNat) (th.gr b.toNat))

/-- KPOP (R87). -/
def execKpop (pg : BitVec 3) (d : BitVec 7) (k : BitVec 3) (s : State) : Out :=
  regWord { i := .kpop pg d k, pg, gs := [d.toNat], rs := [.k k.toNat] } s fun th =>
    th.setG d.toNat (BitVec.ofNat 32 (popcount (th.kr k.toNat)))

/-- KGET (R87). -/
def execKget (pg : BitVec 3) (d : BitVec 7) (k : BitVec 3) (b : BitVec 7) (s : State) : Out :=
  regWord { i := .kget pg d k b, pg, gs := [d.toNat, b.toNat], rs := [.k k.toNat] } s fun th =>
    th.setG d.toNat ((th.kr k.toNat).extractLsb' (32 * ((th.gr b.toNat).extractLsb' 0 3).toNat) 32)

/-- A tile mask with its 32-bit word `w` at `v` (R87). -/
def setMaskWord (k : BitVec 256) (w : Nat) (v : Word) : BitVec 256 :=
  (k &&& ~~~((0xFFFFFFFF : BitVec 256) <<< (32 * w))) ||| ((v.zeroExtend 256) <<< (32 * w))

/-- KSET (R87). -/
def execKset (pg : BitVec 3) (d : BitVec 7) (k : BitVec 3) (b : BitVec 7) (s : State) : Out :=
  regWord { i := .kset pg d k b, pg, gs := [d.toNat, b.toNat], rs := [.k k.toNat] } s fun th =>
    th.setK k.toNat (setMaskWord (th.kr k.toNat) ((th.gr b.toNat).extractLsb' 0 3).toNat (th.gr d.toNat))

end Sys2Proof.Machine
end

