-- ==== Sys2Proof/Machine/Power.lean ====
section
/-! DEFINITION. Sys2Proof/Machine/Power.lean: the power arbiter, telemetry and thermal limits (R354 to R357). -/

namespace Sys2Proof.Machine

/-- B before it is shared: 4,200 W less the draw outside the dies, halved above the thermal limit (R354, R357). -/
def Power.budget (p : Power) : Nat := (4200 - p.outside) / (if p.halved then 2 else 1)

/-- The repeated part of the sharing rule: fuel, watts left, dies not yet granted with their demands (R354). -/
def shareLeft : Nat → Nat → List (Nat × Nat) → Tab Nat Nat
  | 0, _, _ => []
  | f + 1, b, l =>
    let share := b / max 1 l.length
    let fit := l.filter fun e => decide (e.2 ≤ share)
    if fit.isEmpty then l.map fun e => (e.1, share)
    else fit ++ shareLeft f (b - (fit.map Prod.snd).sum) (l.filter fun e => !decide (e.2 ≤ share))

/-- The grants of an epoch (R354). -/
def grants (b : Nat) (demand : List (Nat × Nat)) : Tab Nat Nat :=
  if (demand.map Prod.snd).sum ≤ b then demand else shareLeft 5 b demand

/-- The words of a die's record of the telemetry page after the first, 56 bytes (R356). -/
def Power.telem (p : Power) (d : Nat) : List Byte :=
  leBytes (BitVec.ofNat 64 (tget 0 p.thrclk d) ++ BitVec.ofNat 32 (tget 0 p.grant d) ++ BitVec.ofNat 32 (tget 0 p.demand d) ++
    BitVec.ofNat 16 (tget 0 p.temp d) ++ 0#48).toNat 56

/-- The EPOCH word of a record (R356). -/
def epochWord (busy : Bool) (n : Nat) : List Byte := leBytes (BitVec.ofBool busy ++ BitVec.ofNat 63 n).toNat 8

/-- The writes that make a die's record anew, in their order: the EPOCH word with BUSY and the count as before, the other words, the
EPOCH word with the new count (R356). -/
def Power.rewrite (p : Power) (base d : Nat) : List (Nat × List Byte) :=
  [(base + 64 * d, epochWord true (p.epochs - 1)), (base + 64 * d + 8, p.telem d), (base + 64 * d, epochWord false p.epochs)]

/-- Core-clocks that a die withholds in an epoch of 14,400 clocks at most (R355). -/
def Power.withheld (p : Power) (d : Nat) : Nat :=
  let w := tget 0 p.demand d
  14400 * 133 * (w - tget 0 p.grant d) / max 1 w

/-- A die withholds some of the clocks it may; how many is timing (R355, log 3). -/
def State.throttle (s : State) (d : Nat) : State :=
  let m := s.power.withheld d
  if m = 0 then s
  else
    let (v, s) := s.takeFree
    { s with power := { s.power with thrclk := tput d (tget 0 s.power.thrclk d + v.toNat % (m + 1)) s.power.thrclk } }

/-- One write of the telemetry page is made; while more are to come, the arbiter goes on after what stands on the agenda, and where the
host holds the line, when it has given it up (R346, R356, log 59). -/
def State.telemStep (s : State) : Out :=
  match s.power.telemW with
  | [] => .next s
  | (a, b) :: r =>
    if !memAddr a then .fault (.noSuchAddress a)
    else s.claimThen (linesOf a b.length) fun s =>
      let s := s.hwWrite a b
      let again := if r.isEmpty then [] else [Act.telem]
      .next { s with power := { s.power with telemW := r }, agenda := s.agenda ++ again }

/-- An epoch ends: its demands and grants go to the telemetry page, and the arbiter grants each die its share of B for the next one
(R354 to R356). -/
def State.newEpoch (s : State) (outside : Nat) (demand temp : List Nat) : State :=
  let s := [0, 1, 2, 3].foldl State.throttle s
  let p := { s.power with outside := outside }
  let dies := [0, 1, 2, 3]
  let want := dies.map fun d => (d, demand.getD d 0)
  let p := { p with temp := dies.map fun d => (d, temp.getD d 0), epochs := p.epochs + 1, last := s.clock, clamped := [] }
  let base := (s.winAt 0).telem.toNat
  let l := if base = 0 then [] else dies.flatMap (p.rewrite base)
  { s with power := { p with demand := want, grant := grants p.budget want, telemW := l } }

/-- POWER_EPOCH: every 8 µs, which are 14,400 clocks and no fewer after the epoch before, the arbiter grants each die its share of B for the next epoch, and rewrites
the telemetry page, one write at an act (R354 to R356). `outside` is the draw outside the dies in the last epoch. -/
def execPowerEpoch (outside : Nat) (demand temp : List Nat) (s : State) : Out :=
  if s.boot.stage = .off then .next s
  else if !s.power.telemW.isEmpty || decide (s.clock < s.power.last + 14400) then .next s
  else (s.newEpoch outside demand temp).telemStep

/-- CURRENT_SURGE: the die clamps a surge until the next grant (R355). -/
def execCurrentSurge (die : Nat) (s : State) : Out :=
  s.powered (.next { s with power := { s.power with clamped := if s.power.clamped.contains die then s.power.clamped else die :: s.power.clamped } })

/-- THERMAL_LIMIT: a junction at 100 °C halves B (R357); temperatures are in 1/16 °C. -/
def execThermalLimit (temp : Nat) (s : State) : Out :=
  s.powered (.next (if temp < 1600 then s else { s with power := { s.power with halved := true } }))

/-- THERMAL_RECOVERY: every junction has fallen below 95 °C (R357). -/
def execThermalRecovery (temps : List Nat) (s : State) : Out :=
  .next (if temps.all fun t => decide (t < 1520) then { s with power := { s.power with halved := false } } else s)

/-- THERMAL_SHUTDOWN: a junction at 110 °C causes a fatal stop (R330, R357). -/
def execThermalShutdown (temp : Nat) (s : State) : Out := .next (if temp < 1760 then s else s.fatal)

end Sys2Proof.Machine
end

