-- ==== Sys2Proof/Machine/System.lean ====
section
/-! DEFINITION. Sys2Proof/Machine/System.lean: TRAP, BKPT, RTE, WFI and the interrupt event (R27 to R29, R92 to R94). -/

namespace Sys2Proof.Machine

/-- TRAP: cause 0x0D with the code; from kernel level it goes to monitor (R27, R93). -/
def execTrap (pg : BitVec 3) (c : BitVec 12) (s : State) : Out :=
  runWord { i := .trap pg c, pg } s (.trap 0x0D (c.zeroExtend 64) (s.level s.cur == .kernel))

/-- BKPT: cause 0x0C (R93). -/
def execBkpt (pg : BitVec 3) (s : State) : Out := runWord { i := .bkpt pg, pg } s (.trap 0x0C 0 false)

/-- The control core that executes; agent 0 for a compute thread, which never reaches a privileged body. -/
def ctlOf : Tid → Nat
  | .ctl n => n
  | .cmp _ _ _ => 0

/-- RTE (R29). -/
def execRte (pg : BitVec 3) (s : State) : Out :=
  runWord { i := .rte pg, pg, need := .kernel } s (.placed (s.modCtl (ctlOf s.cur) Ctl.rte))

/-- WFI: completes at once when an interrupt that would be taken is pending; else the core waits past it (R94). -/
def execWfi (pg : BitVec 3) (s : State) : Out :=
  runWord { i := .wfi pg, pg, need := .kernel } s
    (.next (s.modCtl (ctlOf s.cur) fun c => if c.awake then c else { c with wfi := true }))

/-- The event of interrupt source `src` reaching control core `n`: it becomes pending, and a source that R28 lets the
core take is taken between two words (R28, R331). Sources 15 and above do not exist, and without power no register holds one (R2). -/
def execInterrupt (n src : Nat) (s : State) : Out :=
  if src < 15 then
    s.powered (.next (s.modCtl n fun c =>
      let c := c.pendIrq src
      match c.takes with
      | some k => c.interrupt k
      | none => c))
  else .next s

/-- A word that is no instruction: the illegal-instruction trap, cause 0x00, with the word in TVAL (R69). -/
def execIllegalInstruction (w : BitVec 32) (s : State) : Out := (Res.trap 0x00 (w.zeroExtend 64) false).finish s

end Sys2Proof.Machine
end

