-- ==== Sys2Proof/Machine/Dispatch.lean ====
section
/-! DEFINITION. Sys2Proof/Machine/Dispatch.lean: one arm per constructor of Instr, each a direct call of its meaning. -/

namespace Sys2Proof.Machine

def exec (i : Instr) (s : State) : Host.Outcome State Fault Refusal :=
  match i with
  | .add pg d a b => Sys2Proof.Machine.execAdd pg d a b s
  | .sub pg d a b => Sys2Proof.Machine.execSub pg d a b s
  | .addc pg d a b => Sys2Proof.Machine.execAddc pg d a b s
  | .subb pg d a b => Sys2Proof.Machine.execSubb pg d a b s
  | .and pg d a b => Sys2Proof.Machine.execAnd pg d a b s
  | .or pg d a b => Sys2Proof.Machine.execOr pg d a b s
  | .xor pg d a b => Sys2Proof.Machine.execXor pg d a b s
  | .andn pg d a b => Sys2Proof.Machine.execAndn pg d a b s
  | .shl pg d a b => Sys2Proof.Machine.execShl pg d a b s
  | .shr pg d a b => Sys2Proof.Machine.execShr pg d a b s
  | .sar pg d a b => Sys2Proof.Machine.execSar pg d a b s
  | .rotr pg d a b => Sys2Proof.Machine.execRotr pg d a b s
  | .mul pg d a b => Sys2Proof.Machine.execMul pg d a b s
  | .mulhu pg d a b => Sys2Proof.Machine.execMulhu pg d a b s
  | .mulhs pg d a b => Sys2Proof.Machine.execMulhs pg d a b s
  | .mad pg d a b => Sys2Proof.Machine.execMad pg d a b s
  | .min pg d a b => Sys2Proof.Machine.execMin pg d a b s
  | .max pg d a b => Sys2Proof.Machine.execMax pg d a b s
  | .minu pg d a b => Sys2Proof.Machine.execMinu pg d a b s
  | .maxu pg d a b => Sys2Proof.Machine.execMaxu pg d a b s
  | .clz pg d a => Sys2Proof.Machine.execClz pg d a s
  | .popc pg d a => Sys2Proof.Machine.execPopc pg d a s
  | .brev pg d a => Sys2Proof.Machine.execBrev pg d a s
  | .abs pg d a => Sys2Proof.Machine.execAbs pg d a s
  | .add64 pg d a b => Sys2Proof.Machine.execAdd64 pg d a b s
  | .sub64 pg d a b => Sys2Proof.Machine.execSub64 pg d a b s
  | .shl64 pg d a b => Sys2Proof.Machine.execShl64 pg d a b s
  | .shr64 pg d a b => Sys2Proof.Machine.execShr64 pg d a b s
  | .addi pg d a i0 => Sys2Proof.Machine.execAddi pg d a i0 s
  | .andi pg d a i0 => Sys2Proof.Machine.execAndi pg d a i0 s
  | .ori pg d a i0 => Sys2Proof.Machine.execOri pg d a i0 s
  | .xori pg d a i0 => Sys2Proof.Machine.execXori pg d a i0 s
  | .shli pg d a n => Sys2Proof.Machine.execShli pg d a n s
  | .shri pg d a n => Sys2Proof.Machine.execShri pg d a n s
  | .sari pg d a n => Sys2Proof.Machine.execSari pg d a n s
  | .rotri pg d a n => Sys2Proof.Machine.execRotri pg d a n s
  | .movi pg d i0 => Sys2Proof.Machine.execMovi pg d i0 s
  | .bfe pg d a b => Sys2Proof.Machine.execBfe pg d a b s
  | .bfeu pg d a b => Sys2Proof.Machine.execBfeu pg d a b s
  | .bfi pg d a b => Sys2Proof.Machine.execBfi pg d a b s
  | .prmt pg d a b => Sys2Proof.Machine.execPrmt pg d a b s
  | .setp pg q c a b => Sys2Proof.Machine.execSetp pg q c a b s
  | .setp64 pg q c a b => Sys2Proof.Machine.execSetp64 pg q c a b s
  | .setpImm pg q c a i0 => Sys2Proof.Machine.execSetpImm pg q c a i0 s
  | .plop pg q a b t => Sys2Proof.Machine.execPlop pg q a b t s
  | .sel pg d a b s0 => Sys2Proof.Machine.execSel pg d a b s0 s
  | .lda pg x g => Sys2Proof.Machine.execLda pg x g s
  | .sta pg x g => Sys2Proof.Machine.execSta pg x g s
  | .adda pg x g => Sys2Proof.Machine.execAdda pg x g s
  | .addai pg x i0 => Sys2Proof.Machine.execAddai pg x i0 s
  | .setm pg x g => Sys2Proof.Machine.execSetm pg x g s
  | .clrm pg x => Sys2Proof.Machine.execClrm pg x s
  | .csrr pg d c => Sys2Proof.Machine.execCsrr pg d c s
  | .csrw pg d c => Sys2Proof.Machine.execCsrw pg d c s
  | .csrs pg d c => Sys2Proof.Machine.execCsrs pg d c s
  | .csrc pg d c => Sys2Proof.Machine.execCsrc pg d c s
  | .fadd pg d a b => Sys2Proof.Machine.execFadd pg d a b s
  | .fsub pg d a b => Sys2Proof.Machine.execFsub pg d a b s
  | .fmul pg d a b => Sys2Proof.Machine.execFmul pg d a b s
  | .fmin pg d a b => Sys2Proof.Machine.execFmin pg d a b s
  | .ffma pg d a b => Sys2Proof.Machine.execFfma pg d a b s
  | .ffms pg d a b => Sys2Proof.Machine.execFfms pg d a b s
  | .fmax pg d a b => Sys2Proof.Machine.execFmax pg d a b s
  | .fcpys pg d a b => Sys2Proof.Machine.execFcpys pg d a b s
  | .fsetp pg q c a b t => Sys2Proof.Machine.execFsetp pg q c a b t s
  | .frcp pg d a t => Sys2Proof.Machine.execFrcp pg d a t s
  | .frsq pg d a t => Sys2Proof.Machine.execFrsq pg d a t s
  | .fsqrt pg d a t => Sys2Proof.Machine.execFsqrt pg d a t s
  | .fexp2 pg d a t => Sys2Proof.Machine.execFexp2 pg d a t s
  | .flog2 pg d a t => Sys2Proof.Machine.execFlog2 pg d a t s
  | .fsin pg d a t => Sys2Proof.Machine.execFsin pg d a t s
  | .fcos pg d a t => Sys2Proof.Machine.execFcos pg d a t s
  | .ftanh pg d a t => Sys2Proof.Machine.execFtanh pg d a t s
  | .fsigm pg d a t => Sys2Proof.Machine.execFsigm pg d a t s
  | .fabs pg d a t => Sys2Proof.Machine.execFabs pg d a t s
  | .fneg pg d a t => Sys2Proof.Machine.execFneg pg d a t s
  | .frnd pg d a t => Sys2Proof.Machine.execFrnd pg d a t s
  | .fclass pg d a t => Sys2Proof.Machine.execFclass pg d a t s
  | .dadd pg d a b => Sys2Proof.Machine.execDadd pg d a b s
  | .dsub pg d a b => Sys2Proof.Machine.execDsub pg d a b s
  | .dmul pg d a b => Sys2Proof.Machine.execDmul pg d a b s
  | .dfma pg d a b => Sys2Proof.Machine.execDfma pg d a b s
  | .dmin pg d a b => Sys2Proof.Machine.execDmin pg d a b s
  | .dmax pg d a b => Sys2Proof.Machine.execDmax pg d a b s
  | .drcpa pg d a => Sys2Proof.Machine.execDrcpa pg d a s
  | .drsqa pg d a => Sys2Proof.Machine.execDrsqa pg d a s
  | .badd2 pg d a b => Sys2Proof.Machine.execBadd2 pg d a b s
  | .bmul2 pg d a b => Sys2Proof.Machine.execBmul2 pg d a b s
  | .bfma2 pg d a b => Sys2Proof.Machine.execBfma2 pg d a b s
  | .bmax2 pg d a b => Sys2Proof.Machine.execBmax2 pg d a b s
  | .hadd2 pg d a b => Sys2Proof.Machine.execHadd2 pg d a b s
  | .hmul2 pg d a b => Sys2Proof.Machine.execHmul2 pg d a b s
  | .hfma2 pg d a b => Sys2Proof.Machine.execHfma2 pg d a b s
  | .hmax2 pg d a b => Sys2Proof.Machine.execHmax2 pg d a b s
  | .cvt pg d a y c f => Sys2Proof.Machine.execCvt pg d a y c f s
  | .knext pg d k b => Sys2Proof.Machine.execKnext pg d k b s
  | .kpop pg d k => Sys2Proof.Machine.execKpop pg d k s
  | .kget pg d k b => Sys2Proof.Machine.execKget pg d k b s
  | .kset pg s0 k b => Sys2Proof.Machine.execKset pg s0 k b s
  | .trap pg c => Sys2Proof.Machine.execTrap pg c s
  | .bkpt pg => Sys2Proof.Machine.execBkpt pg s
  | .rte pg => Sys2Proof.Machine.execRte pg s
  | .wfi pg => Sys2Proof.Machine.execWfi pg s
  | .rdts pg d s0 => Sys2Proof.Machine.execRdts pg d s0 s
  | .wrts pg d s0 => Sys2Proof.Machine.execWrts pg d s0 s
  | .resume pg d n => Sys2Proof.Machine.execResume pg d n s
  | .bra pg o => Sys2Proof.Machine.execBra pg o s
  | .call pg o => Sys2Proof.Machine.execCall pg o s
  | .brx pg x => Sys2Proof.Machine.execBrx pg x s
  | .callx pg x => Sys2Proof.Machine.execCallx pg x s
  | .ret pg => Sys2Proof.Machine.execRet pg s
  | .exit pg => Sys2Proof.Machine.execExit pg s
  | .jarm pg j => Sys2Proof.Machine.execJarm pg j s
  | .jdis pg j => Sys2Proof.Machine.execJdis pg j s
  | .join pg j => Sys2Proof.Machine.execJoin pg j s
  | .jtest pg q j => Sys2Proof.Machine.execJtest pg q j s
  | .shflIdx pg d a b => Sys2Proof.Machine.execShflIdx pg d a b s
  | .shflUp pg d a o => Sys2Proof.Machine.execShflUp pg d a o s
  | .shflDn pg d a o => Sys2Proof.Machine.execShflDn pg d a o s
  | .shflXor pg d a o => Sys2Proof.Machine.execShflXor pg d a o s
  | .voteAll pg q s0 => Sys2Proof.Machine.execVoteAll pg q s0 s
  | .voteAny pg q s0 => Sys2Proof.Machine.execVoteAny pg q s0 s
  | .ballot pg d s0 => Sys2Proof.Machine.execBallot pg d s0 s
  | .matchg pg d a => Sys2Proof.Machine.execMatchg pg d a s
  | .lred pg d a o => Sys2Proof.Machine.execLred pg d a o s
  | .lscan pg d a e o => Sys2Proof.Machine.execLscan pg d a e o s
  | .lstep pg d a h o => Sys2Proof.Machine.execLstep pg d a h o s
  | .lrank pg d a m => Sys2Proof.Machine.execLrank pg d a m s
  | .keygrp pg a => Sys2Proof.Machine.execKeygrp pg a s
  | .spawn pg d a b => Sys2Proof.Machine.execSpawn pg d a b s
  | .yield pg => Sys2Proof.Machine.execYield pg s
  | .sleep pg a => Sys2Proof.Machine.execSleep pg a s
  | .bar pg i0 s0 => Sys2Proof.Machine.execBar pg i0 s0 s
  | .barg pg s0 a => Sys2Proof.Machine.execBarg pg s0 a s
  | .arrive pg i0 s0 => Sys2Proof.Machine.execArrive pg i0 s0 s
  | .await pg i0 => Sys2Proof.Machine.execAwait pg i0 s
  | .synct pg a => Sys2Proof.Machine.execSynct pg a s
  | .ticket pg d k => Sys2Proof.Machine.execTicket pg d k s
  | .evset pg d n r k => Sys2Proof.Machine.execEvset pg d n r k s
  | .evsig pg d n r k => Sys2Proof.Machine.execEvsig pg d n r k s
  | .evwait pg n => Sys2Proof.Machine.execEvwait pg n s
  | .evread pg d n => Sys2Proof.Machine.execEvread pg d n s
  | .nrec pg d a b => Sys2Proof.Machine.execNrec pg d a b s
  | .launch pg d a => Sys2Proof.Machine.execLaunch pg d a s
  | .nflush pg d b => Sys2Proof.Machine.execNflush pg d b s
  | .send pg d a b => Sys2Proof.Machine.execSend pg d a b s
  | .rpoll pg d a => Sys2Proof.Machine.execRpoll pg d a s
  | .rwait pg d a => Sys2Proof.Machine.execRwait pg d a s
  | .radv pg d a b => Sys2Proof.Machine.execRadv pg d a b s
  | .ld pg d r m s0 o => Sys2Proof.Machine.execLd pg d r m s0 o s
  | .st pg d r m s0 o => Sys2Proof.Machine.execSt pg d r m s0 o s
  | .lds pg d r m s0 o => Sys2Proof.Machine.execLds pg d r m s0 o s
  | .sts pg d r m s0 o => Sys2Proof.Machine.execSts pg d r m s0 o s
  | .atom pg d r o b s0 => Sys2Proof.Machine.execAtom pg d r o b s0 s
  | .atoms pg d r o b => Sys2Proof.Machine.execAtoms pg d r o b s
  | .fence pg s0 => Sys2Proof.Machine.execFence pg s0 s
  | .acq pg g e s0 => Sys2Proof.Machine.execAcq pg g e s0 s
  | .rel pg g e s0 => Sys2Proof.Machine.execRel pg g e s0 s
  | .bind pg g r e => Sys2Proof.Machine.execBind pg g r e s
  | .unbind pg e => Sys2Proof.Machine.execUnbind pg e s
  | .pref pg r m o => Sys2Proof.Machine.execPref pg r m o s
  | .cinv pg r m o => Sys2Proof.Machine.execCinv pg r m o s
  | .cwb pg r m o => Sys2Proof.Machine.execCwb pg r m o s
  | .tdset pg h g w => Sys2Proof.Machine.execTdset pg h g w s
  | .tdget pg h g w => Sys2Proof.Machine.execTdget pg h g w s
  | .tdld pg h g => Sys2Proof.Machine.execTdld pg h g s
  | .tdinv pg h => Sys2Proof.Machine.execTdinv pg h s
  | .cp pg d s0 => Sys2Proof.Machine.execCp pg d s0 s
  | .cpc pg d s0 => Sys2Proof.Machine.execCpc pg d s0 s
  | .cpz pg d => Sys2Proof.Machine.execCpz pg d s
  | .cpseal pg d => Sys2Proof.Machine.execCpseal pg d s
  | .cpwait pg s0 => Sys2Proof.Machine.execCpwait pg s0 s
  | .cptest pg d => Sys2Proof.Machine.execCptest pg d s
  | .mma pg a b n => Sys2Proof.Machine.execMma pg a b n s
  | .mmas pg a b n => Sys2Proof.Machine.execMmas pg a b n s
  | .mmab pg a b n => Sys2Proof.Machine.execMmab pg a b n s
  | .mmam pg a b n => Sys2Proof.Machine.execMmam pg a b n s
  | .mmaz pg a b n => Sys2Proof.Machine.execMmaz pg a b n s
  | .dmma pg a b n => Sys2Proof.Machine.execDmma pg a b n s
  | .accz pg n => Sys2Proof.Machine.execAccz pg n s
  | .accld pg s0 n => Sys2Proof.Machine.execAccld pg s0 n s
  | .accst pg d n => Sys2Proof.Machine.execAccst pg d n s
  | .accrd pg d c n => Sys2Proof.Machine.execAccrd pg d c n s
  | .accwr pg s0 c n => Sys2Proof.Machine.execAccwr pg s0 c n s
  | .ownv pg n => Sys2Proof.Machine.execOwnv pg n s
  | .ownm pg n => Sys2Proof.Machine.execOwnm pg n s
  | .accpsn pg s0 c n => Sys2Proof.Machine.execAccpsn pg s0 c n s
  | .scout pg s0 q => Sys2Proof.Machine.execScout pg s0 q s
  | .dodge pg s0 t k => Sys2Proof.Machine.execDodge pg s0 t k s
  | .chset pg h => Sys2Proof.Machine.execChset pg h s
  | .chain pg d s0 => Sys2Proof.Machine.execChain pg d s0 s
  | .chain2 pg d s0 => Sys2Proof.Machine.execChain2 pg d s0 s
  | .hx e => Sys2Proof.Machine.execHx e s
  | .hm n s0 r c => Sys2Proof.Machine.execHm n s0 r c s
  | .he g k m v e t => Sys2Proof.Machine.execHe g k m v e t s
  | .hs h r k => Sys2Proof.Machine.execHs h r k s
  | .interrupt n src => Sys2Proof.Machine.execInterrupt n src s
  | .partitionStopped p => Sys2Proof.Machine.execPartitionStopped p s
  | .formationCycle x c => Sys2Proof.Machine.execFormationCycle x c s
  | .threadSplit t => Sys2Proof.Machine.execThreadSplit t s
  | .teamInstanceExecute x c blk team => Sys2Proof.Machine.execTeamInstanceExecute x c blk team s
  | .sleepExpiry t => Sys2Proof.Machine.execSleepExpiry t s
  | .loadReturn x id => Sys2Proof.Machine.execLoadReturn x id s
  | .storeAcknowledge x id => Sys2Proof.Machine.execStoreAcknowledge x id s
  | .logicalTimeTick core => Sys2Proof.Machine.execLogicalTimeTick core s
  | .logicalTimeRaise die => Sys2Proof.Machine.execLogicalTimeRaise die s
  | .l1Sweep core => Sys2Proof.Machine.execL1Sweep core s
  | .l2Sweep die slice => Sys2Proof.Machine.execL2Sweep die slice s
  | .memoryFill line victim req ac => Sys2Proof.Machine.execMemoryFill line victim req ac s
  | .reads line r => Sys2Proof.Machine.execReads line r s
  | .readown line r => Sys2Proof.Machine.execReadown line r s
  | .upgrade line r => Sys2Proof.Machine.execUpgrade line r s
  | .evictc line r => Sys2Proof.Machine.execEvictc line r s
  | .writeback line r => Sys2Proof.Machine.execWriteback line r s
  | .fwds line r => Sys2Proof.Machine.execFwds line r s
  | .fwdown line r => Sys2Proof.Machine.execFwdown line r s
  | .inv line r => Sys2Proof.Machine.execInv line r s
  | .grantm line r => Sys2Proof.Machine.execGrantm line r s
  | .flitReplay a b => Sys2Proof.Machine.execFlitReplay a b s
  | .linkDown a b via => Sys2Proof.Machine.execLinkDown a b via s
  | .hostSnoop line => Sys2Proof.Machine.execHostSnoop line s
  | .hostMemoryAccess addr n wr => Sys2Proof.Machine.execHostMemoryAccess addr n wr s
  | .herborInboundAccess src sid va n wr => Sys2Proof.Machine.execHerborInboundAccess src sid va n wr s
  | .ringAppend id => Sys2Proof.Machine.execRingAppend id s
  | .pageWalk die sid va acc => Sys2Proof.Machine.execPageWalk die sid va acc s
  | .faultRecordWrite p => Sys2Proof.Machine.execFaultRecordWrite p s
  | .operandLogReplay x id => Sys2Proof.Machine.execOperandLogReplay x id s
  | .scratchpadPageFault x c bs vpn => Sys2Proof.Machine.execScratchpadPageFault x c bs vpn s
  | .pageFillComplete x c bs vpn => Sys2Proof.Machine.execPageFillComplete x c bs vpn s
  | .writeOutAck x c bs vpn => Sys2Proof.Machine.execWriteOutAck x c bs vpn s
  | .blockMigrate x c bs dst => Sys2Proof.Machine.execBlockMigrate x c bs dst s
  | .engineStep x c q => Sys2Proof.Machine.execEngineStep x c q s
  | .stepRetire x c q => Sys2Proof.Machine.execStepRetire x c q s
  | .copyBatchComplete t => Sys2Proof.Machine.execCopyBatchComplete t s
  | .gangArrival x c => Sys2Proof.Machine.execGangArrival x c s
  | .launchRecordRead x q => Sys2Proof.Machine.execLaunchRecordRead x q s
  | .blockPlace p => Sys2Proof.Machine.execBlockPlace p s
  | .priorityWaitExpiry p q => Sys2Proof.Machine.execPriorityWaitExpiry p q s
  | .blockRetire x c bs => Sys2Proof.Machine.execBlockRetire x c bs s
  | .launchComplete x l => Sys2Proof.Machine.execLaunchComplete x l s
  | .binTimerExpiry x bin => Sys2Proof.Machine.execBinTimerExpiry x bin s
  | .doorbell x q addr => Sys2Proof.Machine.execDoorbell x q addr s
  | .ctxrootWrite die off v => Sys2Proof.Machine.execCtxrootWrite die off v s
  | .shoot die v => Sys2Proof.Machine.execShoot die v s
  | .shootdownComplete die => Sys2Proof.Machine.execShootdownComplete die s
  | .frespRetry p tag => Sys2Proof.Machine.execFrespRetry p tag s
  | .frespError p tag => Sys2Proof.Machine.execFrespError p tag s
  | .bootstatWrite die v => Sys2Proof.Machine.execBootstatWrite die v s
  | .configWindowWrite die off v => Sys2Proof.Machine.execConfigWindowWrite die off v s
  | .swap p abandon => Sys2Proof.Machine.execSwap p abandon s
  | .saveComplete p => Sys2Proof.Machine.execSaveComplete p s
  | .fillComplete p => Sys2Proof.Machine.execFillComplete p s
  | .checkpointIntervalExpiry p => Sys2Proof.Machine.execCheckpointIntervalExpiry p s
  | .snapshotSwap p => Sys2Proof.Machine.execSnapshotSwap p s
  | .checkpointCommit p => Sys2Proof.Machine.execCheckpointCommit p s
  | .uncorrectableError e => Sys2Proof.Machine.execUncorrectableError e s
  | .rollback p => Sys2Proof.Machine.execRollback p s
  | .kernelLineRestore die line => Sys2Proof.Machine.execKernelLineRestore die line s
  | .selfTest die f => Sys2Proof.Machine.execSelfTest die f s
  | .fatalStop => Sys2Proof.Machine.execFatalStop s
  | .powerOn => Sys2Proof.Machine.execPowerOn s
  | .powerOff => Sys2Proof.Machine.execPowerOff s
  | .warmBoot => Sys2Proof.Machine.execWarmBoot s
  | .romBoot => Sys2Proof.Machine.execRomBoot s
  | .firmwareBringup => Sys2Proof.Machine.execFirmwareBringup s
  | .startCores => Sys2Proof.Machine.execStartCores s
  | .kernelLoad img loc => Sys2Proof.Machine.execKernelLoad img loc s
  | .mailboxStatus => Sys2Proof.Machine.execMailboxStatus s
  | .mailboxLoad img => Sys2Proof.Machine.execMailboxLoad img s
  | .mailboxDump off n => Sys2Proof.Machine.execMailboxDump off n s
  | .mailboxClear => Sys2Proof.Machine.execMailboxClear s
  | .mailboxAttest nonce => Sys2Proof.Machine.execMailboxAttest nonce s
  | .powerEpoch outside demand temp => Sys2Proof.Machine.execPowerEpoch outside demand temp s
  | .currentSurge die => Sys2Proof.Machine.execCurrentSurge die s
  | .thermalLimit temp => Sys2Proof.Machine.execThermalLimit temp s
  | .thermalShutdown temp => Sys2Proof.Machine.execThermalShutdown temp s
  | .illegalInstruction w => Sys2Proof.Machine.execIllegalInstruction w s
  | .contextFill p area => Sys2Proof.Machine.execContextFill p area s
  | .sendAcknowledgement id => Sys2Proof.Machine.execSendAcknowledgement id s
  | .dataMessage line r => Sys2Proof.Machine.execDataMessage line r s
  | .backInvalidationResponse line => Sys2Proof.Machine.execBackInvalidationResponse line s
  | .hdmbaseWrite v => Sys2Proof.Machine.execHdmbaseWrite v s
  | .storagePathRequest sid va n wr => Sys2Proof.Machine.execStoragePathRequest sid va n wr s
  | .versionCounterRaise v => Sys2Proof.Machine.execVersionCounterRaise v s
  | .thermalRecovery temps => Sys2Proof.Machine.execThermalRecovery temps s
  | .partitionConfiguration p cfg => Sys2Proof.Machine.execPartitionConfiguration p cfg s
  | .queueConfiguration x q prio => Sys2Proof.Machine.execQueueConfiguration x q prio s
  | .checkpointEnable p us areaA areaB => Sys2Proof.Machine.execCheckpointEnable p us areaA areaB s
  | .accessCounterRearm region => Sys2Proof.Machine.execAccessCounterRearm region s

end Sys2Proof.Machine
end

