-- ==== Sys2Proof/Machine/Issue.lean ====
section
/-! DEFINITION. Sys2Proof/Machine/Issue.lean: the issue of words: a control core's next word, a bundle's next word, what goes on
by itself after every act, the passing of clocks, and what happens when the agenda is empty (R19, R28, R94, R120 to R126, R132,
R142, R158, R206, R247, R251, R348; logs 1, 2, 3, 6). -/

namespace Sys2Proof.Machine

/-! ## Fetching (R7, R200, R206) -/

/-- What a fetch answers: a word, a wait, a trap's cause, a fault record's kind, level and page size. -/
inductive Fetch where
  | word (s : State) (w : Word)
  | wait (s : State)
  | trap (cause : Nat)
  | flt (kind level size : Nat) (herbor : Bool)

/-- Fetches the word at a thread's program counter, through the core's L1. -/
def State.fetch (s : State) (t : Tid) : Fetch :=
  let th := s.thr t
  let va : Dword := th.pc.signExtend 64
  match s.xThread t { die := 0, root := {}, user := true, ex := true } va with
  | (.trap c, _) => .trap c
  | (.flt kind level size, via) => .flt kind level size via.isSome
  | (.wait s, _) => .wait s
  | (.ok s pa cc ac, via) =>
    match (match t with
      | .ctl n => s.ctlRead n va pa cc via ac 0 4
      | .cmp x c _ => s.coreLoad (s.physOf x c) va pa cc via ac (x / 2) th.lease.toNat true 4) with
    | (s, none) => .wait s
    | (s, some b) => .word s (BitVec.ofNat 32 (leVal b))

/-- The instruction of a word; a word that is none is the illegal instruction (R69). -/
def instrOf (w : Word) : Instr := (decode w).getD (.illegalInstruction w)

/-! ## Performing a word that has issued (R16, R124) -/

/-- The thread waits at its word: held where it stands, or parked till what the word asks for is so (R158, R163). -/
def Thread.waitsAt (th : Thread) : Bool :=
  th.par.held.isSome || match th.par.place with
    | .parked (.evwait _) | .parked .rwait => true
    | _ => false

/-- Executes a word of thread `t`; a word that waits stays with the thread as it has been fetched. -/
def State.perform (s : State) (t : Tid) (op : Instr) : Out :=
  let th := s.thr t
  match exec op ({ s with cur := t }.setThr t { th with par := { th.par with held := none } }) with
  | .next s' =>
    let th' := s'.thr t
    .next (if th'.waitsAt then s'.setThr t { th' with iss := some op } else s')
  | r => r

/-- The thread is ready for the word: it would not be held at it. -/
def State.ready (s : State) (t : Tid) (op : Instr) : Bool :=
  match s.perform t op with
  | .next s' => (s'.thr t).par.held.isNone
  | _ => true

/-- The word's guard is a predicate (R57). -/
def guarded (op : Instr) : Bool := ((encode op).getD 0).extractLsb' 23 3 != 7

/-! ## Control cores -/

/-- A control core's next word, the word it waits at, an interrupt before it, or nothing (R27, R28, R94, R142, R149). -/
def State.issueCtl (s : State) (n : Nat) : Out :=
  let c := s.ctlAt n
  if !c.running || c.stopped then .next s
  else
    match c.takes with
    | some src => .next (s.setCtl n (c.interrupt src))
    | none =>
      if (c.wfi && !c.awake) || (match c.sleep with
          | some w => decide (s.clock < w)
          | none => false) then .next s
      else
        let s := s.setCtl n { c with wfi := false, sleep := none }
        match c.t.iss with
        | some op => s.perform (.ctl n) op
        | none =>
          match s.fetch (.ctl n) with
          | .word s w => s.perform (.ctl n) (instrOf w)
          | .wait s => .next s
          | .trap cause => .next (s.trap (.ctl n) cause (c.t.pc.signExtend 64))
          | .flt _ _ _ _ => .next (s.trap (.ctl n) 0x05 (c.t.pc.signExtend 64))

/-! ## Bundles (R120 to R124, R132, R240) -/

/-- The thread waits for a fetch of its own that faulted (R206). -/
def Ctx.fetching (k : Ctx) (c slot : Nat) : Bool :=
  k.infl.any fun e => e.2.ofThread c slot && (match e.2.op with
    | .illegalInstruction _ => true
    | _ => false)

/-- The thread has raised a trap of the bank's halt. -/
def Ctx.hitBy (k : Ctx) (c slot : Nat) : Bool :=
  match k.halt with
  | some h => h.hit.contains (c, slot)
  | none => false

/-- The thread's fetch waits for a fault record; it takes no entry of the operand log (R206, R211, log 31). -/
def State.logFetch (s : State) (x c slot kind level size : Nat) (herbor : Bool) : State :=
  let t := Tid.cmp x c slot
  let th := s.thr t
  let f : InFlight := { op := .illegalInstruction 0, pc := th.pc, core := c, slot, ea := th.pc.signExtend 64, size := 4 }
  let q : XReq := { die := s.dieOf x c, root := {}, user := true }
  let (s, f) := s.logAccess x f q kind level size herbor .fetch
  (s.addInfl x f).setThr t { th with par := { th.par with held := some .split } }

/-- What a word was to its bundle, from the thread before and after it (R90, R122, R123, R127). -/
def Issued.of (i : Instr) (before after : Thread) : Issued :=
  let br := fun (pg : BitVec 3) (indirect : Bool) =>
    let (hold, pack) := match before.hints.hs with
      | none => (before.hold.toNat, false)
      | some p => (if p.getLsbD 15 then 0 else (p.extractLsb' 16 7).toNat, p.getLsbD 14)
    Issued.branch (before.guard pg) indirect after.pc (decide (after.pc.toNat ≤ before.pc.toNat)) hold pack
  match i with
  | .bra pg _ | .call pg _ => br pg false
  | .brx pg _ | .callx pg _ | .ret pg => br pg true
  | .join _ _ | .keygrp _ _ | .shflIdx _ _ _ _ | .shflUp _ _ _ _ | .shflDn _ _ _ _ | .shflXor _ _ _ _ | .voteAll _ _ _
  | .voteAny _ _ _ | .ballot _ _ _ | .matchg _ _ _ | .lred _ _ _ _ | .lscan _ _ _ _ _ | .lstep _ _ _ _ _ | .lrank _ _ _ _ => .dissolve
  | _ => .plain

/-- The bundle waits on some of its threads, and since when on each (R124). -/
def State.markWait (s : State) (x c b : Nat) (late : List Nat) : State :=
  s.modCore x c fun k => k.setBundle b ((k.bundleAt b).waitsOn late s.clock)

/-- A thread of bundle `b` executes the bundle's word, or the one it waits at. -/
def State.runLane (s : State) (x c b : Nat) (op : Instr) (slot : Nat) : Out :=
  let t := Tid.cmp x c slot
  let before := s.thr t
  let op := before.iss.getD op
  match s.perform t op with
  | .next s =>
    if (s.ctxAt x).hitBy c slot then .next s
    else
      let after := s.thr t
      .next (s.modCore x c fun k => k.afterWord slot b s.clock (Issued.of op before after) (guarded op) after.par.held.isSome)
  | r => r

/-- Some threads of bundle `b` execute its word, in the order given. -/
def State.runLanes (s : State) (x c b : Nat) (op : Instr) : List Nat → Out
  | [] => .next s
  | slot :: r =>
    match s.runLane x c b op slot with
    | .next s => s.runLanes x c b op r
    | e => e

/-- The threads `pend` of bundle `b`, in the order given, that are not ready for its word: each finds what those before it would leave, and one
that is not ready counts for the next ones as having executed it (R124, R157, R262). -/
def State.late (s : State) (x c b : Nat) (op : Instr) : List Nat → List Nat
  | [] => []
  | slot :: r =>
    let t := Tid.cmp x c slot
    let mark := fun (s : State) => s.modCore x c fun k =>
      let u := k.bundleAt b
      k.setBundle b { u with did := (slot, .plain) :: u.did }
    match s.perform t ((s.thr t).iss.getD op) with
    | .next s' => if (s'.thr t).par.held.isSome then slot :: (mark s).late x c b op r else (mark s').late x c b op r
    | _ => (mark s).late x c b op r

/-- A thread of a bundle that is not ready waits: what its word asks for meanwhile. -/
def State.holdLane (s : State) (x c : Nat) (op : Instr) (slot : Nat) : State :=
  let t := Tid.cmp x c slot
  match s.perform t ((s.thr t).iss.getD op) with
  | .next s' => if (s'.thr t).par.held.isSome then s' else s
  | _ => s

/-- The bundle's word is executed by the threads `pend` that have not executed it, if every one of them is ready; the addresses of
those whose guard is true are coalesced into the requests that the L1 receives (R120, R124, R132). -/
def State.issueWord (s : State) (x c b : Nat) (op : Instr) (pend : List Nat) : Out :=
  let late := s.late x c b op pend
  if !late.isEmpty then .next ((late.foldl (fun s i => s.holdLane x c op i) s).markWait x c b late)
  else
    let l := reqsOf op (pend.map fun i => s.thr (.cmp x c i))
    let n := (s.ctxAt x).nextId
    (if l.isEmpty then s else s.modCore x c fun k => { k with reqs := l, reqN := n }).runLanes x c b op pend

/-- The threads of a bundle in ascending TIDX. -/
def CtxCore.inOrder (k : CtxCore) (b : Nat) : List Nat :=
  sortBy (fun m n => decide ((k.thrAt m).par.tidx < (k.thrAt n).par.tidx)) ((k.bundleAt b).lanes.map Prod.fst)

/-- The threads of a bundle that have not executed its word, in ascending TIDX. -/
def CtxCore.pending (k : CtxCore) (b : Nat) : List Nat :=
  (k.inOrder b).filter fun i => !((k.bundleAt b).did.map Prod.fst).contains i

/-- The bundle issues its next instruction: fetched once, by its first thread that does not wait at a word already. A trap or a
fault record of the fetch is every such thread's (R120, R124, R206). -/
def State.issueBundle (s : State) (x c b : Nat) : Out :=
  let k := (s.ctxAt x).coreAt c
  let u := k.bundleAt b
  let lanes := k.inOrder b
  let pend := k.pending b
  let fresh := pend.filter fun i => (k.thrAt i).iss.isNone
  if lanes.any ((s.ctxAt x).hitBy c) || pend.any ((s.ctxAt x).fetching c) then .next s
  else
    match u.op, fresh with
    | some op, _ => s.issueWord x c b op pend
    | none, [] => s.issueWord x c b ((pend.findSome? fun i => (k.thrAt i).iss).getD (.illegalInstruction 0)) pend
    | none, i :: _ =>
      match s.fetch (.cmp x c i) with
      | .word s w =>
        let op := instrOf w
        (s.modCore x c fun k => k.setBundle b { k.bundleAt b with op := some op }).issueWord x c b op pend
      | .wait s => .next s
      | .trap cause => .next (fresh.foldl (fun s i => s.trap (.cmp x c i) cause ((s.thr (.cmp x c i)).pc.signExtend 64)) s)
      | .flt kind level size h => .next ((fresh.foldl (fun s i => s.logFetch x c i kind level size h) s).markWait x c b fresh)

/-- A compute thread's next word: its bundle's, where it stands in one and may issue (R120, R311). -/
def State.issueCmp (s : State) (x c slot : Nat) : Out :=
  if !s.going x then .next s
  else
    match (s.thr (.cmp x c slot)).par.place with
    | .bundle b => s.issueBundle x c b
    | _ => .next s

/-- The next word of the current thread, which stays the current one. -/
def State.issue (s : State) : Out :=
  let r := match s.cur with
    | .ctl n => s.issueCtl n
    | .cmp x c slot => s.issueCmp x c slot
  match r with
  | .next s' => .next { s' with cur := s.cur }
  | r => r

/-! ## What goes on by itself -/

/-- A thread that left its bundle enters the pond when its dependence resolves; one that waits at EVWAIT or RWAIT goes on when what
it waits for is so (R124, R140, R158, R163, R247). -/
def State.settleThr (s : State) (x c slot : Nat) : State :=
  let t := Tid.cmp x c slot
  let th := s.thr t
  if (s.ctxAt x).hitBy c slot then s
  else
    match th.par.place, th.iss with
    | .parked .split, some op =>
      if s.ready t op then (s.endWait t op).modThr t fun th => { th with met := true }.pondAt s.clock 0 false else s
    | .parked .split, none => if (s.ctxAt x).fetching c slot then s else s.setThr t (th.pondAt s.clock 0 false)
    | .parked (.evwait _), some op | .parked .rwait, some op =>
      match s.perform t op with
      | .next s' => { s' with cur := s.cur }
      | _ => s
    | _, _ => s

/-- The threads that a bundle waits on, less those that are ready by now: it no longer waits on those (R124). -/
def State.settleBundle (s : State) (x c b : Nat) : State :=
  let k := (s.ctxAt x).coreAt c
  let u := k.bundleAt b
  if u.waits.isEmpty then s
  else
    let pend := k.pending b
    let late := match u.op.or (pend.findSome? fun i => (k.thrAt i).iss) with
      | some op => s.late x c b op pend
      | none => pend.filter ((s.ctxAt x).fetching c)
    s.modCore x c fun k => k.setBundle b { u with waits := u.waits.filter fun e => late.contains e.1 }

/-- What goes on by itself after every act: waiting threads, lines that PREF has requested, control cores' acknowledgements. -/
def State.settle (s : State) : State :=
  let thr := fun (x c : Nat) (s : State) (e : Nat × Thread) => s.settleThr x c e.1
  let bank := fun (s : State) (e : Nat × Ctx) =>
    if s.going e.1 then e.2.cores.foldl (fun s u =>
      u.2.bundles.foldl (fun s b => s.settleBundle e.1 u.1 b.1) (u.2.threads.foldl (thr e.1 u.1) s)) s else s
  let s := s.ctxs.foldl bank s
  let s := s.cores.foldl (fun s e => s.prefetch e.1) s
  s.ctl.foldl (fun s e => s.ackCtl e.1) s

/-- A step's answer, with what goes on by itself. -/
def settled : Out → Out
  | .next s => .next s.settle
  | r => r

/-- Clocks pass, one by one; a formation cycle runs in every even one (R126). -/
def State.passClock : Nat → State → State
  | 0, s => s
  | n + 1, s => passClock n { s.regroup with clock := s.clock + 1 }.settle

/-! ## With an empty agenda -/

/-- What happens with nothing on the agenda: the boot's next stage, else the current thread's next word (R348, logs 1, 6). -/
def State.proceed (s : State) : Out :=
  match s.boot.stage with
  | .rom => execRomBoot s
  | .firmware => execFirmwareBringup s
  | .cores => execStartCores s
  | .started | .kernel | .run => s.issue
  | .off | .reduced | .stopped => .next s

/-- The state in which control core 0 of die 0 fetches the bytes of `w` as its next word (log 6): the part has booted, the
core runs above user level without translation, nothing waits before it, and no cache holds the line. -/
def State.placeWord (s : State) (w : Word) : State :=
  let c := s.ctlAt 0
  let pc : BitVec 57 := if onPackage c.t.pc.toNat then c.t.pc else 0x00100000
  let ln := pc.toNat / lineSize
  let t := { c.t with pc := pc, iss := none, entry := none, met := false, acq := none }
  let c := { c with running := true, stopped := false, irqs := [], wfi := false, sleep := none, kroot := {},
                    pl := if c.pl = .user then .monitor else c.pl, t := t }
  let coh := { s.coh with l2 := tdel ln s.coh.l2, reps := s.coh.reps.filter fun e => e.1.1 != ln,
                          msgs := s.coh.msgs.filter fun m => m.line != ln }
  ({ s with cur := .ctl 0, agenda := [], boot := { s.boot with stage := .run }, mem := memWrite pc.toNat (leBytes w.toNat 4) s.mem,
            coh := coh } : State).setCtl 0 c |>.modPhys 512 fun p => { p with l1 := [] }

end Sys2Proof.Machine
end

