-- ==== Sys2Proof/Machine/Step.lean ====
section
/-! DEFINITION. Sys2Proof/Machine/Step.lean: one step of the part, and the placing of a word where it is fetched next. -/

namespace Sys2Proof.Machine

/-- One step: the next entry of the agenda, or with an empty agenda what Issue.lean says, and what goes on by itself after it
(log 1). -/
def step (s : State) : Host.Outcome State Fault Refusal :=
  settled (match s.agenda with
    | [] => s.proceed
    | .word t :: r => ({ s with agenda := r, cur := t } : State).proceed
    | .event i :: r => exec i { s with agenda := r }
    | .pass n :: r => .next (({ s with agenda := r } : State).passClock n)
    | .outside o :: r => .next (({ s with agenda := r } : State).outside o)
    | .telem :: r => ({ s with agenda := r } : State).telemStep)

/-- `s` with the word `w` of `nbits` bits stored where `step` fetches its next instruction (log 6). -/
def State.withFetchWord (s : State) (nbits w : Nat) : State := s.placeWord (BitVec.ofNat 32 (w % 2 ^ nbits))

end Sys2Proof.Machine
end

