-- ==== Sys2Proof/Safety.lean ====
section
/-! DEFINITION. Sys2Proof/Safety.lean: what claims about the part are stated in: when a word runs (R70), the invariant of
the state, and what a step leaves alone. -/

namespace Sys2Proof.Machine

/-- The conditions under which the word `i` of the executing thread gets as far as its guard (R70): no illegal-instruction
condition holds (its operand rules, its registers lie within the thread's allocation, every pending hint applies, a
control core may execute it), the level suffices, and no register it names is pending. `gs` are the g-registers it names,
`rs` its other registers, `hu` the hints it takes, `need` the level it needs, `onCtl` whether it is a word of control cores
too. -/
structure State.Reaches (s : State) (i : Instr) (pg : BitVec 3) (gs : List Nat) (rs : List PReg := [])
    (hu : HintUse := {}) (need : Level := .user) (onCtl : Bool := true) : Prop where
  operands  : i.wf = true
  core      : onCtl = true ∨ isCtl s.cur = false
  allocated : ∀ n ∈ gs, n < s.me.alloc
  hints     : hu.ok (pg == 7) s.me.hints = true
  level     : need.num ≤ (s.level s.cur).num
  settled   : ∀ r ∈ s.me.pend, r ∉ gs.map PReg.g ++ rs ∧ (pg = 7 ∨ r ≠ .p pg.toNat)

/-- The conditions under which the word runs to its own effect: it reaches its guard, and the guard is true. -/
structure State.Runs (s : State) (i : Instr) (pg : BitVec 3) (gs : List Nat) (rs : List PReg := []) (hu : HintUse := {})
    (need : Level := .user) (onCtl : Bool := true) : Prop extends s.Reaches i pg gs rs hu need onCtl where
  guard : s.me.guard pg = true

/-- The state after a word whose effect is `f` on its own thread: the program counter past it, the hints consumed. -/
def State.did (s : State) (f : Thread → Thread) : State := (s.modMe f).modMe Thread.past

/-- The invariant of the state: memory, and the scratchpad bytes of every core, keep their canonical form (log 5). -/
def State.Inv (s : State) : Prop := Memory.wf s.mem = true ∧ ∀ e ∈ s.cores, Memory.wf e.2.frames = true

/-- Every byte of memory reads in `t` as in `s`. -/
def State.SameMem (s t : State) : Prop := ∀ a, memGet t.mem a = memGet s.mem a

/-- `s` and `t` agree on everything but control cores and context banks (which hold the threads), on every control core
but that of the executing thread, and on every other thread, block, engine and queue of the executing thread's bank. -/
def State.OnlyMe (s t : State) : Prop := ∃ th, t = s.setMe th

end Sys2Proof.Machine
end

