-- ==== Sys2Proof/Certificates/Slice0/Obligations.lean ====
section
/-! DEFINITION. Sys2Proof/Certificates/Slice0/Obligations.lean: the statements for the provers. Each docstring names the
rule of the spec it formalises; OBLIGATIONS.json lists them. -/

namespace Sys2Proof.Claims

open Sys2Proof.Machine

/-- The instruction writes `v` to g-register `d` of its thread, moves past its word, consumes its hints, and changes
nothing else. -/
def WritesG (s : State) (i : Instr) (d : BitVec 7) (v : Word) : Prop :=
  exec i s = .next (s.did fun th => th.setG d.toNat v)

/-- The instruction waits: its thread stays at the word, which is executed again. -/
def Waits (s : State) (i : Instr) : Prop :=
  exec i s = .next (s.modMe fun th => { th with par := { th.par with held := some .split } })

/-- As WritesG, for the pair at `d`. -/
def WritesPair (s : State) (i : Instr) (d : BitVec 7) (v : Dword) : Prop :=
  exec i s = .next (s.did fun th => th.setPair d.toNat v)

/-- As WritesG, for predicate `q`; predicate 7 discards the value (R10). -/
def WritesP (s : State) (i : Instr) (q : BitVec 3) (v : Bool) : Prop :=
  exec i s = .next (s.did fun th => if q = 7 then th else { th with p := tput q.toNat v th.p })

/-- The instruction raises trap `cause` with `tval` at its word (R27, R310). -/
def Traps (s : State) (i : Instr) (cause : Nat) (tval : BitVec 64) : Prop :=
  exec i s = .next (s.trap s.cur cause tval)

/-- The instruction raises the illegal-instruction trap with its word in TVAL (R69). -/
def Illegal (s : State) (i : Instr) : Prop :=
  ∃ w, encode i = some w ∧ Traps s i 0x00 (w.zeroExtend 64)

/-- A value within the signed 32-bit range, as SATWRAP bounds it under HM.SAT (R72). -/
def clamp (v : Int) : Int := max (-2 ^ 31) (min v (2 ^ 31 - 1))

/-- SATWRAP (R72). -/
def satwrap (s : State) (v : Int) : Word := BitVec.ofInt 32 (if s.me.hints.sat then clamp v else v)

/-- The 32-bit operand of an immediate field: sign-extended, or extended on its left by a pending HX and then truncated
(R62, R77, R78). -/
def immediate (s : State) {n : Nat} (f : BitVec n) : Word :=
  match s.me.hints.hx with
  | none => f.signExtend 32
  | some e => (e ++ f).setWidth 32

/-- An immediate field as a signed 64-bit value, extended on its left by a pending HX (R62). -/
def longImmediate (s : State) {n : Nat} (f : BitVec n) : Dword :=
  match s.me.hints.hx with
  | none => f.signExtend 64
  | some e => (e ++ f).signExtend 64

/-- The entry of a trap set by a trap or an interrupt of a thread at level `pl` (R27). -/
def Entered (k k' : TrapSet) (th : Thread) (cause : Nat) (v : BitVec 64) (irq : Bool) (pl : Level) : Prop :=
  let saved := fun (o : Option (BitVec 23)) => ({ v := o.isSome, payload := o.getD 0 } : SavedHint)
  k' = { k with epc := th.pc, irq := irq, code := .ofNat 8 cause, val := v,
                hx := saved th.hints.hx, hm := saved th.hints.hm, he := saved th.hints.he, hs := saved th.hints.hs,
                ppl := pl, pie := k.ie, ie := false, intrap := true }

/-- The thread at an address that a trap or a return gives it, with no hint pending (R7, R19, R27, R29). -/
def AtVector (th : Thread) (a : BitVec 57) : Thread :=
  { th with pc := a &&& ~~~3#57, hints := {}, iss := none, entry := none, met := false, acq := none }

/-- A floating-point result with its flags delivered (R54, R98): with no enabled flag raised, `write` is done, the flags
join FPFLAGS and the word is past; an enabled flag raises cause 0x0E with the enabled flags raised, and nothing is
written. -/
def Delivers (s : State) (i : Instr) (flags : Nat) (write : Thread → Thread) : Prop :=
  let en := (flags % 32) &&& ((s.me.fpmode.extractLsb' 8 5).toNat)
  (en = 0 → exec i s = .next (s.did fun th => write { th with fpflags := th.fpflags ||| .ofNat 32 flags })) ∧
  (en ≠ 0 → Traps s i 0x0E (.ofNat 64 en))

/-- As Delivers, one g-register. -/
def DeliversG (s : State) (i : Instr) (d : BitVec 7) (r : BF) : Prop :=
  Delivers s i r.2 fun th => th.setG d.toNat (.ofNat 32 r.1)

/-- As Delivers, a pair. -/
def DeliversPair (s : State) (i : Instr) (d : BitVec 7) (r : BF) : Prop :=
  Delivers s i r.2 fun th => th.setPair d.toNat (.ofNat 64 r.1)

/-- A source decoded, a subnormal of a format but FP64 read as a zero of its sign under DAZ (R33, R56). -/
def source (s : State) (f : Fmt) (x : Nat) : FV := f.decDaz (s.me.fpmode.getLsbD 3 && f.w != 64) x

/-- rnd (R56): an exact value and the flags of its operation, rounded once to a format in the captured mode (HM RND, else
FPMODE.RM with SR as RNE), saturated under HM SAT, flushed under FTZ but in FP64 (R98). -/
def rounded (s : State) (f : Fmt) (v : FV × Nat) : BF :=
  let rm := if s.me.hints.rnd = 0 then noSr (RM.ofCode (s.me.fpmode.extractLsb' 0 3).toNat)
    else RM.ofCode (s.me.hints.rnd - 1)
  let r := f.deliver { rm := rm, sat := s.me.hints.sat, ftz := s.me.fpmode.getLsbD 4 && f.w != 64 } v.1
  (r.1, v.2 ||| r.2)

/-- The captured mode is RDN, under which an exact zero sum of operands of opposite sign is -0 (R99). -/
def roundsDown (s : State) : Bool :=
  decide ((if s.me.hints.rnd = 0 then noSr (RM.ofCode (s.me.fpmode.extractLsb' 0 3).toNat)
    else RM.ofCode (s.me.hints.rnd - 1)) = .rdn)

/-- n * 2^e, as a rational number. -/
def mag (n : Nat) (e : Int) : ℚ := n * (2 : ℚ) ^ e

/-- A finite value of a sign and a magnitude n * 2^e, as a rational number. -/
def num (neg : Bool) (n : Nat) (e : Int) : ℚ := if neg then -mag n e else mag n e

/-- The distance from the magnitude m * 2^q of a format to the next one below: half of that above where `m` is the least
significand of its binade and a binade lies below. -/
def gapBelow (f : Fmt) (m : Nat) (q : Int) : ℚ := if m = 2 ^ f.fb ∧ 1 - f.bias - f.fb < q then mag 1 (q - 1) else mag 1 q

/-- R45, R47: the code is that of a magnitude `x` with a sign rounded in a mode: the neighbour the mode names, one of the two
under SR. -/
def RoundsTo (f : Fmt) (rm : RM) (neg : Bool) (x : ℚ) (code : Nat) : Prop :=
  ∃ m q, f.dec code = .fin neg m q ∧
    let below := gapBelow f m q
    let down := mag m q ≤ x ∧ x < mag m q + mag 1 q
    let up := mag m q - below < x ∧ x ≤ mag m q
    match rm with
    | .rz => down
    | .rdn => if neg then up else down
    | .rup => if neg then down else up
    | .rne => mag m q - x ≤ below / 2 ∧ x - mag m q ≤ mag 1 (q - 1) ∧
      (mag m q - x = below / 2 ∨ x - mag m q = mag 1 (q - 1) → m % 2 = 0)
    | .sr => mag m q - below < x ∧ x < mag m q + mag 1 q

/-- R32, R43, R99: an exact sum and its flags. A NaN operand, or infinities of opposite sign, give a NaN; NV (16) is raised by a
signalling NaN and by those infinities. An exact zero keeps the sign of operands of one sign, and is else +0, or -0 under RDN
(`dn`). -/
def Sum (dn : Bool) (x y : FV) (r : FV × Nat) : Prop :=
  match x, y with
  | .fin g n e, .fin h m k => r.2 = 0 ∧ ∃ u p q, r.1 = .fin u p q ∧ num u p q = num g n e + num h m k ∧
      (p = 0 → u = if g = h then g else dn)
  | .inf g, .inf h => r = if g = h then (.inf g, 0) else (.nan false, 16)
  | .inf g, .fin _ _ _ | .fin _ _ _, .inf g => r = (.inf g, 0)
  | _, _ => r = (.nan false, if x = .nan true ∨ y = .nan true then 16 else 0)

/-- R32, R43, R99: an exact product and its flags, its sign that of the signs of its operands; a zero times an infinity is a NaN
that raises NV. -/
def Product (x y : FV) (r : FV × Nat) : Prop :=
  match x, y with
  | .fin g n e, .fin h m k => r.2 = 0 ∧ ∃ p q, r.1 = .fin (g != h) p q ∧ mag p q = mag n e * mag m k
  | .inf g, .inf h => r = (.inf (g != h), 0)
  | .inf g, .fin h m _ | .fin g m _, .inf h => r = if m = 0 then (.nan false, 16) else (.inf (g != h), 0)
  | _, _ => r = (.nan false, if x = .nan true ∨ y = .nan true then 16 else 0)

/-- R99: an exact product plus an addend; a product of a zero and an infinity raises NV whatever the addend. -/
def FusedSum (dn : Bool) (x y z : FV) (r : FV × Nat) : Prop :=
  ∃ p t, Product x y p ∧ Sum dn p.1 z t ∧ r = (t.1, p.2 ||| t.2)

/-- The sums, products and fused sums that the arithmetic statements round are those of the numbers the operands stand for. -/
def ExactOps : Prop :=
  (∀ dn x y, Sum dn x y (x.add dn y)) ∧ (∀ x y, Product x y (x.mul y)) ∧ ∀ dn x y z, FusedSum dn x y z (x.fma dn y z)

/-- R45: `z` is the rational `x` rounded to an integer in a mode, SR as RNE. -/
def Integral (rm : RM) (x : ℚ) (z : Int) : Prop :=
  match rm with
  | .rz => z = if x < 0 then ⌈x⌉ else ⌊x⌋
  | .rdn => z = ⌊x⌋
  | .rup => z = ⌈x⌉
  | .rne | .sr => |x - z| ≤ 1 / 2 ∧ (|x - z| = 1 / 2 → z % 2 = 0)

/-- The bits of an operand as it was read: under DAZ a subnormal is the zero of its sign (R33, R100). -/
def asItReads (f : Fmt) (daz : Bool) (x : Nat) : Nat :=
  if daz && x / 2 ^ f.fb % 2 ^ f.eb == 0 then x / 2 ^ (f.w - 1) % 2 * 2 ^ (f.w - 1) else x

/-- R100: the selection of FMIN and FMAX on two operands as they were read. -/
def Selects (f : Fmt) (daz mx : Bool) (x y : Nat) (r : BF) : Prop :=
  let u := f.decDaz daz x
  let v := f.decDaz daz y
  let nv := if u.isSig || v.isSig then 16 else 0
  let least := u.cmp v = .lt ∨ (u.cmp v = .eq ∧ (u.isNeg = true ∨ v.isNeg = false))
  let most := v.cmp u = .lt ∨ (v.cmp u = .eq ∧ (v.isNeg = true ∨ u.isNeg = false))
  (u.isNan = true → v.isNan = true → r = (f.qnan, nv)) ∧
  (u.isNan = true → v.isNan = false → r = (asItReads f daz y, nv)) ∧
  (u.isNan = false → v.isNan = true → r = (asItReads f daz x, nv)) ∧
  (u.isNan = false → v.isNan = false →
    ((if mx then most else least) → r = (asItReads f daz x, nv)) ∧ (¬(if mx then most else least) → r = (asItReads f daz y, nv)))

/-- A result of an approximate function lies within `bound` of the value `v` that the model evaluates, both as multiples of
2^-160 times 2^k; one below 2^-126 in magnitude is zero (R107, log 10). -/
def Within (r : Nat) (v bound k : Int) : Prop :=
  ∃ g n e, fp32.dec r = .fin g n e ∧
    ((fxOf g n (e - k) - v).natAbs ≤ bound + 2 ^ 40 ∨ (n = 0 ∧ v.natAbs ≤ 2 ^ (34 - k).toNat + bound + 2 ^ 40))

/-- R112: the integer and the flags of a value converted to the range from `lo` to `hi`. -/
def ToInteger (rm : RM) (lo hi : Int) (v : FV) (k : Int) (flags : Nat) : Prop :=
  match v with
  | .nan _ => k = 0 ∧ flags = 16
  | .inf g => k = (if g then lo else hi) ∧ flags = 16
  | .fin g n e => ∃ z : Int, Integral rm (num g n e) z ∧
    (hi < z → k = hi ∧ flags = 16) ∧ (z < lo → k = lo ∧ flags = 16) ∧
    (lo ≤ z → z ≤ hi → k = z ∧ flags = if (z : ℚ) = num g n e then 0 else 1)

/-- R113: an element of an all-finite format and its flags: NSAT for a saturated one, NNAN for a NaN, NX for a finite value that
changes. -/
def narrowed (f : Fmt) (rm : RM) (draw : Nat) (v : FV) : BF :=
  match v with
  | .nan g => (0, if g then 48 else 32)
  | .inf g => (f.sign g + (2 ^ (f.w - 1) - 1), 64)
  | .fin g n e =>
    let r := f.round rm g n e draw
    if r.ovf then (f.sign g + (2 ^ (f.w - 1) - 1), 65) else (r.code, if r.inex then 1 else 0)

/-- Elements packed `w` bits each, element 0 lowest, with their flags joined. -/
def packedAs (w n : Nat) (f : Nat → BF) : Word × Nat :=
  (BitVec.ofNat 32 ((List.range n).map fun i => (f i).1 * 2 ^ (w * i)).sum, (List.range n).foldl (fun g i => g ||| (f i).2) 0)

/-- The value of an E3M5 block scale (R37). -/
def e3m5Value (c : Nat) : ℚ := if c / 32 = 0 then mag (c % 32) (-7) else mag (32 + c % 32) ((c / 32 : Nat) - 8)

/-- R38: the code of a block's scale under the band scale `b`. -/
def BlockScale (vs : List FV) (b : ℚ) (c : Nat) : Prop :=
  let inf := ∃ g, FV.inf g ∈ vs
  let above := fun (m : ℚ) => ∃ g n e, FV.fin g n e ∈ vs ∧ m < mag n e
  (inf → c = 255) ∧
  (¬inf → ¬above 0 → c = 0) ∧
  (¬inf → above (189 * b) → c = 255) ∧
  (¬inf → above 0 → ¬above (189 * b) → c < 256 ∧ ¬above (6 * e3m5Value c * b) ∧ ∀ d < c, above (6 * e3m5Value d * b))

/-- R38, R113, R114: the code and the flags of an element of a block, `s` being block scale times band scale. The quotient above
6 that records OVF without regard to its rounding is log 64's reading. -/
def BlockElement (rm : RM) (v : FV) (s : ℚ) (code flags : Nat) : Prop :=
  match v with
  | .nan g => code = 0 ∧ flags = if g then 48 else 32
  | .inf g => code = (if g then 15 else 7) ∧ flags = 64
  | .fin g n e =>
    (s = 0 → code = 0 ∧ flags = 0) ∧
    (s ≠ 0 → 6 < mag n e / s → code = (if g then 15 else 7) ∧ flags = 65) ∧
    (s ≠ 0 → mag n e / s ≤ 6 → RoundsTo e2m1 rm g (mag n e / s) code ∧
      (flags = 0 ∧ (∃ m q, e2m1.dec code = .fin g m q ∧ mag m q = mag n e / s) ∨
       flags = 1 ∧ ∀ m q, e2m1.dec code = .fin g m q → mag m q ≠ mag n e / s))

/-- R147: what LRED, LSCAN and LSTEP give register `d` from the contributing values: the operation over them, its identity where
there are none; `mode` is the FPMODE used. -/
def Combines (o : TeamOp) (mode : Word) (d : Nat) (vals : List Word) (r : TeamOut) : Prop :=
  let least := fun (le : Word → Word → Prop) (unit : Word) =>
    ∃ v, r = .g d v 0 ∧ (∀ w ∈ vals, le v w) ∧ (v ∈ vals ∨ (vals = [] ∧ v = unit))
  let rm := noSr (RM.ofCode (mode.extractLsb' 0 3).toNat)
  let daz := mode.getLsbD 3
  let read := fun (v : Word) => fp32.decDaz daz v.toNat
  let extreme := fun (mx : Bool) (unit : Word) =>
    (vals = [] → r = .g d unit 0) ∧
    (vals ≠ [] → (∀ v ∈ vals, (read v).isNan = false) → ∃ v ∈ vals, r = .g d (BitVec.ofNat 32 (asItReads fp32 daz v.toNat)) 0 ∧
      ∀ w ∈ vals, if mx then (read w).leSigned (read v) = true else (read v).leSigned (read w) = true)
  match o with
  | .add => r = .g d (vals.foldl (· + ·) 0) 0
  | .and => r = .g d (vals.foldl (· &&& ·) 0xFFFFFFFF) 0
  | .or => r = .g d (vals.foldl (· ||| ·) 0) 0
  | .xor => r = .g d (vals.foldl (· ^^^ ·) 0) 0
  | .mins => least (fun v w => v.toInt ≤ w.toInt) 0x7FFFFFFF
  | .maxs => least (fun v w => w.toInt ≤ v.toInt) 0x80000000
  | .minu => least (fun v w => v.toNat ≤ w.toNat) 0xFFFFFFFF
  | .maxu => least (fun v w => w.toNat ≤ v.toNat) 0x00000000
  | .fmin => extreme false 0x7F800000
  | .fmax => extreme true 0xFF800000
  | .fadd =>
    let inf := fun (g : Bool) => ∃ v ∈ vals, read v = .inf g
    let nan := ∃ v ∈ vals, (read v).isNan = true
    (vals = [] → r = .g d 0x80000000 0) ∧
    (nan ∨ (inf true ∧ inf false) → r = .g d 0x7FC00000 16) ∧
    (¬nan → inf true → ¬inf false → r = .g d 0xFF800000 0) ∧ (¬nan → inf false → ¬inf true → r = .g d 0x7F800000 0) ∧
    (vals ≠ [] → ¬nan → ¬inf true → ¬inf false → ∃ g n e,
      num g n e = (vals.map fun v => match read v with
        | .fin h m k => num h m k
        | _ => 0).sum ∧
      (let q := fp32.deliver { rm := rm, ftz := mode.getLsbD 4 } (.fin g n e)
       r = .g d (BitVec.ofNat 32 q.1) q.2))

/-- The elements of two packed registers through an element function, results packed and flags joined (R104). -/
def packs (f : Nat → BF) : BF := ((f 0).1 + (f 1).1 * 65536, (f 0).2 ||| (f 1).2)

/-- Element `e` of a packed register (R104). -/
def element (v : Word) (e : Nat) : Nat := (v.extractLsb' (16 * e) 16).toNat

/-- FSETP's table (R105): `un` says that an operand is NaN, `o` is the order of operands that are not. -/
def fcompares (c : FCond) (un : Bool) (o : Ordering) : Bool :=
  match c with
  | .eq => !un && o == .eq
  | .ne => un || o != .eq
  | .lt => !un && o == .lt
  | .le => !un && o != .gt
  | .gt => !un && o == .gt
  | .ge => !un && o != .lt
  | .num => !un
  | .nan => un

/-- Conditions 2 to 5 raise NV for any NaN, the others for a signalling one (R105). -/
def fcomparesNv (c : FCond) (x y : FV) : Nat :=
  match c with
  | .lt | .le | .gt | .ge => if x.isNan || y.isNan then 16 else 0
  | _ => if x.isSig || y.isSig then 16 else 0

/-- SETP's conditions: 2 to 5 compare signed, 6 to 9 unsigned (R65, R81). -/
def compares (c : ICond) {w : Nat} (x y : BitVec w) : Bool :=
  match c with
  | .eq => x == y
  | .ne => x != y
  | .lt => x.slt y
  | .le => x.sle y
  | .gt => y.slt x
  | .ge => y.sle x
  | .ltu => x.ult y
  | .leu => x.ule y
  | .gtu => y.ult x
  | .geu => y.ule x

/-- The instruction is a global access of a compute thread of bank `x` (R206, R207, R240): its translation's trap is
raised; where the walker waits for a line that the host holds (R202, R346), the word waits; else, with room in the operand log, the access is in flight under the next number with its address and data, its
destinations are pending, `up` is done, and the word is past. `r` is the state with the binding entry that a REL has read. -/
def IssuesAccess (s : State) (x : Nat) (i : Instr) (ea : Dword) (size : Nat) (data : List Byte) (up : Thread → Thread)
    (r : State := s) : Prop :=
  let walk := r.xThread s.cur (xreqOf i) ea
  (∀ c v, walk = (.trap c, v) → Traps s i c ea) ∧
  (∀ u v, walk = (.wait u, v) → exec i s = .next (u.modMe fun th => { th with par := { th.par with held := some .split } })) ∧
  ((∀ c v, walk ≠ (.trap c, v)) → (∀ u v, walk ≠ (.wait u, v)) → (s.ctxAt x).logUsed s.here.2.1 < 256 →
    ∃ t f, exec i s = .next t ∧ tfind (t.ctxAt x).infl (s.ctxAt x).nextId = some f ∧ f.op = i ∧ f.ea = ea ∧ f.size = size ∧
      f.data = data ∧ t.me = ((up s.me).hang ((dests i).map PReg.g)).past)

/-- Of a control core's word that has issued and waits: the bank KCTX named holds a context still (R142). -/
def BankHolds (s : State) (x : Nat) : Prop :=
  isCtl s.cur = true → s.me.iss ≠ none → (s.ctxAt x).st ≠ .free ∧ (s.ctxAt x).st ≠ .fill

/-- An access of control core `n` at an address of its die's HBM, above user level and without translation, to a line that
no other die or the host holds, of which the core has no copy and no write on its way or waiting. -/
def PlainAt (s : State) (n : Nat) (ea : Dword) : Prop :=
  let l := s.l2At (ea.toNat / 128)
  (s.ctlAt n).pl ≠ .user ∧ (s.ctlAt n).kroot.en = false ∧ ea.toNat < 0x00C000000000 ∧ homeDie ea.toNat = n / 5 ∧
  s.coh.reps = [] ∧ s.coh.msgs = [] ∧ ea.toNat / 128 ∉ s.hst.held ∧ l.owner = none ∧ l.busy = false ∧ l.sharers = 0 ∧
  s.wcb (512 + n) = [] ∧ (s.ctlAt n).store = none ∧ tfind (s.coreAt (512 + n)).l1 (ea.toNat / 32) = none

/-- The core's logical time may rise to that of a load, or of a store, of the line at `ea` (R229, R232). -/
def TimeFor (s : State) (n : Nat) (ea : Dword) (store : Bool) : Prop :=
  let l := (s.ensureLine (ea.toNat / 128) (n / 5) 0 false).l2At (ea.toNat / 128)
  s.jumpOk (512 + n) (if store then later (s.coreAt (512 + n)).lt (l.rts + 1) else l.wts) = true

/-- `t` holds `data` at `a`, and every other byte of memory as `s`. -/
def Stores (s t : State) (a : Nat) (data : List Byte) : Prop :=
  memRead t.mem a data.length = data ∧
  ∀ b, b < a ∨ a + data.length ≤ b → memGet t.mem b = memGet s.mem b

/-- The new value of a 4-byte atomic (R243). -/
def newWord (o : AtomOp) (old g : Word) : Word :=
  match o with
  | .add32 => old + g
  | .mins => if old.sle g then old else g
  | .maxs => if g.sle old then old else g
  | .minu => if old ≤ g then old else g
  | .maxu => if g ≤ old then old else g
  | .and => old &&& g
  | .or => old ||| g
  | .xor => old ^^^ g
  | .incw => if g ≤ old then 0 else old + 1
  | _ => g

/-- An engine instruction of a compute thread (R260, R261, R277): the first operand check that fails raises trap 0x27, then
a gang that does not hold trap 0x29, then a tile of another owner trap 0x28; else, with room in the queue and no thread of
lower TIDX of its bundle still to issue, the command it captures joins the queue, its registers are pending, and a command
of the copy queue joins the open batch. -/
def Queues (s : State) (i : Instr) (x c slot : Nat) (q : EngQ) (hs : List Nat) (vector : Bool) (kmask : BitVec 256)
    (theta : Word) (hang : List PReg) : Prop :=
  let k := (s.ctxAt x).coreAt c
  let m := s.newCmd x slot i hs kmask theta
  let fault := m.operandFault hs (k.blkAt s.me.par.blk).spq
  let ganged := s.me.hints.gang = true → s.gangOk x c s.me = true
  let tile := m.tiles.find? fun n => !ownsTile (tget {} k.tiles n) (if vector then some s.me.par.blk else none)
  (∀ n h, fault = some (n, h) → Traps s i 0x27 (BitVec.ofNat 64 (256 * n + h))) ∧
  (fault = none → ¬ganged → Traps s i 0x29 ((s.me.gang.extractLsb' 0 8).zeroExtend 64)) ∧
  (∀ n, fault = none → ganged → tile = some n → Traps s i 0x28 (BitVec.ofNat 64 n)) ∧
  (fault = none → ganged → tile = none → s.matesFirst = true → (k.q q).length < 32 →
    ∃ t, exec i s = .next t ∧ ((t.ctxAt x).coreAt c).q q = k.q q ++ [m] ∧ t.me.pc = s.me.past.pc ∧ t.me.g = s.me.g ∧
      t.me.pend = hang ++ s.me.pend ∧ s.SameMem t ∧
      (q = .copy → ∀ b, s.me.par.batches = [b] → b.num = s.me.cpopen.toNat →
        t.me.par.batches = [{ b with left := b.left + 1 }]))

/-- The word is an engine instruction of compute threads: illegal on a control core (R277), else as Queues says. -/
def EngineWord (s : State) (i : Instr) (pg : BitVec 3) (gs : List Nat) (rs : List PReg) (hu : HintUse) (q : EngQ)
    (hs : List Nat) (vector : Bool := false) (kmask : BitVec 256 := 0) (theta : Word := 0) (hang : List PReg := []) : Prop :=
  (∀ n, s.cur = .ctl n → Illegal s i) ∧
  (∀ x c slot, s.cur = .cmp x c slot → s.Runs i pg gs rs hu .user false → s.tdPending s.cur hs = false →
    Queues s i x c slot q hs vector kmask theta hang)

/-! ## What an engine's step computes (R40 to R51, R258, R270, R274 to R276, R281 to R299) -/

/-- A finite value as a rational number; a NaN or an infinity counts 0 (R43). -/
def ratOf (v : FV) : ℚ :=
  match v with
  | .fin g n e => num g n e
  | _ => 0

/-- A value that is neither a NaN nor an infinity. -/
def finite (v : FV) : Prop := ∃ g n e, v = .fin g n e

/-- R258: the bits of element `n` of a tensor, in the linear order of its dimensions. -/
def elementBits (e : Env) (D : Desc) (n : Nat) : Nat :=
  let r := n / D.dim 0
  let a := D.base + r % D.dim 1 * D.stride.getD 1 0 + r / D.dim 1 % D.dim 2 * D.stride.getD 2 0 +
    r / D.dim 1 / D.dim 2 % D.dim 3 * D.stride.getD 3 0 + r / D.dim 1 / D.dim 2 / D.dim 3 * D.stride.getD 4 0
  if D.bits = 4 then (e.byte D.space (a + n % D.dim 0 / 2)).toNat / 16 ^ (n % D.dim 0 % 2) % 16
  else leVal ((List.range (D.bits / 8)).map fun i => e.byte D.space (a + n % D.dim 0 * (D.bits / 8) + i))

/-- R48: the draw for the `i`-th element after the generator's state `g`. -/
def drawAt (g : Word) (i : Nat) : Nat := srDraw (srNext^[i] g)

/-- R282: the code and the causes (OVF 1, INV 2) of a value written to a format other than BX4. -/
def Stored (fmt : Nat) (rm : RM) (draw : Nat) (v : FV) (code c : Nat) : Prop :=
  let narrow := fun (f : Fmt) (rm : RM) =>
    let r := narrowed f rm draw v
    code = r.1 ∧ c = r.2 / 64 % 2 + 2 * (r.2 / 32 % 2)
  let ieee := fun (f : Fmt) (rm : RM) => code = (f.deliver { rm := rm, draw := draw } v).1 ∧ c = 0
  let int := fun (w : Nat) (lo hi : Int) => ∃ k fl, ToInteger rm lo hi v k fl ∧ (code : Int) = k % 2 ^ w ∧
    c = if v.isNan then 2 else if fl = 16 then 1 else 0
  match fmt with
  | 0x0 => int 8 (-128) 127
  | 0x1 => int 8 0 255
  | 0x2 => int 16 (-32768) 32767
  | 0x3 => int 32 (-2147483648) 2147483647
  | 0x4 => ieee fp16 rm
  | 0x5 => ieee bf16 rm
  | 0x6 => ieee fp32 (noSr rm)
  | 0x7 => ieee fp64 (noSr rm)
  | 0x8 => narrow e4m3 rm
  | 0x9 => narrow e5m2 rm
  | _ => narrow e2m1 (noSr rm)

/-- R38: the exponent of the band scale for the values of a band. -/
def BandScale (vs : List FV) (k : Int) : Prop :=
  let above := fun (m : ℚ) => ∃ g n e, FV.fin g n e ∈ vs ∧ m < mag n e
  k ≤ 127 ∧ -126 ≤ k ∧ (¬above 0 → k = 0) ∧
  (above 0 → (k = 127 ∨ ¬above (189 * (2 : ℚ) ^ k)) ∧ (k = -126 ∨ above (189 * (2 : ℚ) ^ (k - 1))))

/-- R48, R50, R51, R282: what a converting step writes for elements `n0` to `n1 - 1` of a destination whose element `n` has
the value and the source causes `src n`: codes, BX4 scales, poison bits of the rows with a cause and of the rows `carried`, the
causes recorded (OVF 1, INV 2, SCALE 8, and LOST 16 under `lost`), and the generator. -/
def Converted (m : Cmd) (D : Desc) (t : Stp) (f : Eff) (src : Nat → FV × Nat) (carried : Nat → Prop) (lost : Prop) : Prop :=
  let has := fun n => t.n0 ≤ n ∧ n < t.n1
  let puts := fun (l : List EW) => ∀ w ∈ l, w ∈ f.ws
  ∃ code cs : Nat → Nat,
    (∀ n, has n → puts (D.wrElem n (code n))) ∧
    (D.fmt ≠ 0xA → f.band = m.band ∧ ∀ n, has n → ∃ c,
      Stored D.fmt m.mode (drawAt m.gen (n - t.n0)) (src n).1 (code n) c ∧ cs n = (src n).2 ||| c) ∧
    (D.fmt = 0xA → ∀ i, t.n0 ≤ 8 * i → 8 * i + 8 ≤ t.n1 →
      let b := 8 * i / D.dim 0 / 64
      let n := b * 64 * D.dim 0
      ∃ B sc, (if t.n0 ≤ n then
          BandScale ((List.range (min D.count (n + 64 * D.dim 0) - n)).map fun j => (src (n + j)).1) B ∧
            puts (D.wrBytes (D.bandAddr b) (leBytes ((B + 127).toNat * 128) 2))
        else B = m.band) ∧
        BlockScale ((List.range 8).map fun j => (src (8 * i + j)).1) ((2 : ℚ) ^ B) sc ∧
        puts (D.wrBytes (D.sbase + i) [BitVec.ofNat 8 sc]) ∧ (8 * i + 8 = t.n1 → f.band = B) ∧
        ∀ j, j < 8 → ∃ fl, BlockElement m.mode (src (8 * i + j)).1 (e3m5Value sc * (2 : ℚ) ^ B) (code (8 * i + j)) fl ∧
          cs (8 * i + j) = (src (8 * i + j)).2 ||| (fl / 64 % 2 + 2 * (fl / 32 % 2))) ∧
    f.gen = (if m.mode = .sr ∧ D.fmt ∈ [0x4, 0x5, 0x8, 0x9, 0xA] then srNext^[t.n1 - t.n0] m.gen else m.gen) ∧
    (D.pbase = 0 → (f.flags.testBit 6 = true ↔ ∃ n, has n ∧ (cs n).testBit 0 = true) ∧
      (f.flags.testBit 5 = true ↔ ∃ n, has n ∧ (cs n).testBit 1 = true)) ∧
    (D.pbase ≠ 0 → f.flags = 0 ∧ (∀ n, has n → cs n ≠ 0 → puts (D.wrPoison (n / D.dim 0))) ∧
      ∀ r, carried r → puts (D.wrPoison r)) ∧
    (∀ i, f.cause.testBit i = true ↔ (∃ n, has n ∧ (cs n).testBit i = true) ∨ (i = 4 ∧ lost)) ∧
    ∀ w ∈ f.ws, (∃ n, has n ∧ w ∈ D.wrElem n (code n)) ∨ (D.fmt = 0xA ∧ w.1 = D.space ∧ D.sbase ≤ w.2.1) ∨
      ∃ r, w ∈ D.wrPoison r ∧ (carried r ∨ ∃ n, has n ∧ n / D.dim 0 = r ∧ cs n ≠ 0)

/-- The value of an accumulator cell (R39). -/
def cellValue (int : Bool) (c : BitVec 56) : ℚ := if int then (int56 c.toNat : ℚ) else ratOf (fa56.dec c.toNat)

/-- The value is clamped when it is written to a cell (R40). -/
def clamps (int : Bool) (x : ℚ) : Prop := if int then x < -2 ^ 55 ∨ 2 ^ 55 - 1 < x else mag (2 ^ 46 - 1) 979 ≤ |x|

/-- R40: a cell that takes a value by SAT56 or RNE56; an exact zero is +0 (log 43). -/
def NewCell (int : Bool) (x : ℚ) (c : BitVec 56) : Prop :=
  if int then ((int56 c.toNat : Int) : ℚ) = max (-2 ^ 55) (min x (2 ^ 55 - 1))
  else (x = 0 → c = 0) ∧ (x ≠ 0 → ¬clamps false x → RoundsTo fa56 .rne (decide (x < 0)) |x| c.toNat) ∧
    (clamps false x → c = if x < 0 then 0xFFFFFFFFFFFFFF else 0x7FFFFFFFFFFFFF)

/-- R42, R43, R270, R285 to R288, R291: a step of MMA, MMAS, MMAB, MMAM or MMAZ that is no clearing step adds its group into
the rows and columns the command names, leaves every other cell, and records the causes of a row. -/
def Products (e : Env) (op : Instr) (A B : Desc) (M : Option Desc) (t : Stp) (tile u : Tile) (cause : Nat) : Prop :=
  let int := decide (A.fmt ≤ 0x1)
  let mb := isMmab op
  let place := fun (D : Desc) (i b k : Nat) =>
    k % D.dim 0 + D.dim 0 * (i + D.dim 1 * (if mb then b + D.dim 2 * (k / D.dim 0) else k / D.dim 0))
  let group := fun k => t.n0 ≤ k ∧ k < t.n1
  let groupA := fun k => if M.isSome then t.n0 / 2 ≤ k ∧ k < t.n1 / 2 else group k
  let cols := min (B.sz 1) (128 * t.tile + 128) - 128 * t.tile
  let meta' := fun (D : Desc) (i k : Nat) => e.elem D (D.dim 0 * i + k / 4)
  let a := fun (i b k : Nat) => match M with
    | none => ratOf (e.val A (place A i b k)).1
    | some D => if k % 4 = meta' D i k % 4 then ratOf (e.val A (place A i b (k / 4 * 2))).1
      else if k % 4 = meta' D i k / 4 % 4 then ratOf (e.val A (place A i b (k / 4 * 2 + 1))).1 else 0
  let legal := fun i => ∀ D ∈ M, ∀ k, group k → meta' D i k / 16 = 0 ∧ meta' D i k % 4 < meta' D i k / 4 % 4
  let sum := fun (b i j : Nat) => ((List.range (t.n1 - t.n0)).map fun l =>
    a i b (t.n0 + l) * ratOf (e.val B (place B (128 * t.tile + j) b (t.n0 + l))).1).sum
  let row := fun (b i : Nat) => (if mb then 32 * (b / 4) else 0) + i
  let col := fun (b j : Nat) => (if mb then 32 * (b % 4) else 0) + j
  let named := fun (b i j : Nat) => b < (if mb then B.dim 2 else 1) ∧ i < A.sz 1 ∧ j < cols
  let spoils := fun (v : FV × Nat) (n : Nat) => v.2.testBit n = true ∨ (n = 1 ∧ ¬finite v.1)
  let marks := fun (b i n : Nat) => b < (if mb then B.dim 2 else 1) ∧ i < A.sz 1 ∧
    ((n = 0 ∧ legal i ∧ ∃ j, j < cols ∧ clamps int (cellValue int (tile.cell (row b i) (col b j)) + sum b i j)) ∨
     (n = 2 ∧ ¬legal i) ∨
     (n ∈ [1, 3] ∧ ((legal i ∧ ∃ k, groupA k ∧ spoils (e.val A (place A i b k)) n) ∨
        ∃ j k, j < cols ∧ group k ∧ spoils (e.val B (place B (128 * t.tile + j) b k)) n)) ∨
     (n = 4 ∧ ((∃ k, groupA k ∧ e.poison A (place A i b k / A.dim 0) = true) ∨ (∃ D ∈ M, e.poison D i = true) ∨
        ∃ j k, j < cols ∧ group k ∧ e.poison B (place B (128 * t.tile + j) b k / B.dim 0) = true)))
  (∀ b i j, named b i j → (legal i → NewCell int (cellValue int (tile.cell (row b i) (col b j)) + sum b i j) (u.cell (row b i) (col b j))) ∧
    (¬legal i → u.cell (row b i) (col b j) = tile.cell (row b i) (col b j))) ∧
  (∀ r c, r < 128 → c < 128 → (¬∃ b i j, named b i j ∧ r = row b i ∧ c = col b j) → u.cell r c = tile.cell r c) ∧
  (∀ r, r < 128 → (u.poison.getLsbD r = true ↔ tile.poison.getLsbD r = true ∨ ∃ b i n, r = row b i ∧ marks b i n)) ∧
  (∀ n, n < 5 → (cause.testBit n = true ↔ ∃ b i, marks b i n) ∧
    (u.cause.getLsbD n = true ↔ tile.cause.getLsbD n = true ∨ ∃ b i, marks b i n))

/-- R41, R44, R289, R291: a step of DMMA. -/
def Fused (e : Env) (rm : RM) (A B : Desc) (t : Stp) (tile u : Tile) (cause : Nat) : Prop :=
  let place := fun (D : Desc) (i k : Nat) => k % D.dim 0 + D.dim 0 * (i + D.dim 1 * (k / D.dim 0))
  let view := fun (t : Tile) (i j : Nat) =>
    ((t.cell (2 * i + 1) j).extractLsb' 0 32 ++ (t.cell (2 * i) j).extractLsb' 0 32).toNat
  let value := fun (D : Desc) (i k : Nat) => fp64.dec (e.elem D (place D i k))
  let cols := min (B.sz 1) (128 * t.tile + 128) - 128 * t.tile
  let lost := fun i => ∃ k, t.n0 ≤ k ∧ k < t.n1 ∧ (e.poison A (place A i k / A.dim 0) = true ∨
    ∃ j, j < cols ∧ e.poison B (place B (128 * t.tile + j) k / B.dim 0) = true)
  (∀ i j, i < A.sz 1 → j < cols → view u i j = (List.range (t.n1 - t.n0)).foldl (fun acc l =>
    (fp64.deliver { rm := rm } ((value A i (t.n0 + l)).fma (rm = .rdn) (value B (128 * t.tile + j) (t.n0 + l)) (fp64.dec acc)).1).1)
      (view tile i j)) ∧
  (∀ r c, r < 128 → c < 128 → ¬(r < 2 * A.sz 1 ∧ c < cols) → u.cell r c = tile.cell r c) ∧
  (∀ r, r < 128 → (u.poison.getLsbD r = true ↔ tile.poison.getLsbD r = true ∨ (r / 2 < A.sz 1 ∧ lost (r / 2)))) ∧
  (cause.testBit 4 = true ↔ ∃ i, i < A.sz 1 ∧ lost i) ∧ ∀ n, n ≠ 4 → cause.testBit n = false

/-- R40, R41, R292: the cells that a step of ACCLD gives the rows it loads; the first step clears the tile. -/
def Loaded (e : Env) (D : Desc) (t : Stp) (tile u : Tile) (cause : Nat) : Prop :=
  let old := if t.n0 = 0 then { tile with cells := [], poison := 0, cause := 0 } else tile
  let rows := fun r => t.n0 / D.dim 0 ≤ r ∧ r ≤ (t.n1 - 1) / D.dim 0
  let at' := fun (r j : Nat) => r * D.dim 0 + j
  let bits := fun (r j : Nat) => e.elem D (at' r j)
  let value := fun (r j : Nat) => e.val D (at' r j)
  (D.fmt = 0x7 → (∀ r j, rows r → j < D.dim 0 → u.cell (2 * r) j = ((BitVec.ofNat 64 (bits r j)).extractLsb' 0 32).zeroExtend 56) ∧
    (∀ r j, rows r → j < D.dim 0 → u.cell (2 * r + 1) j = ((BitVec.ofNat 64 (bits r j)).extractLsb' 32 32).zeroExtend 56) ∧
    ∀ r, r < 128 → (u.poison.getLsbD r = true ↔ old.poison.getLsbD r = true ∨ (rows (r / 2) ∧ e.poison D (r / 2) = true))) ∧
  (D.fmt ≠ 0x7 →
    (∀ r j, rows r → j < D.dim 0 →
      (D.fmt = 0xB → u.cell r j = if bits r j < 2 ^ 56 then BitVec.ofNat 56 (bits r j) else 0) ∧
      (D.fmt ≤ 0x3 → ((int56 (u.cell r j).toNat : Int) : ℚ) = ratOf (value r j).1) ∧
      (D.fmt ≠ 0xB → 0x3 < D.fmt → (finite (value r j).1 → ratOf (fa56.dec (u.cell r j).toNat) = ratOf (value r j).1) ∧
        (¬finite (value r j).1 → u.cell r j = 0))) ∧
    ∀ r, r < 128 → (u.poison.getLsbD r = true ↔ old.poison.getLsbD r = true ∨ (rows r ∧ (e.poison D r = true ∨
      ∃ j, j < D.dim 0 ∧ ((D.fmt = 0xB ∧ 2 ^ 56 ≤ bits r j) ∨ (D.fmt ≠ 0xB ∧ (¬finite (value r j).1 ∨ (value r j).2 ≠ 0))))))) ∧
  (cause.testBit 4 = true ↔ ∃ r, rows r ∧ e.poison D r = true) ∧ u.cause = old.cause ||| BitVec.ofNat 8 cause ∧
  ∀ r j, r < 128 → j < 128 → ¬((if D.fmt = 0x7 then rows (r / 2) else rows r) ∧ j < D.dim 0) → u.cell r j = old.cell r j

/-- R274: a row of a tensor cut to E2M1 with a power of two as its scale. -/
def Scouted (e : Env) (D : Desc) (r : Nat) (k : Int) (v : Nat → ℚ) : Prop :=
  let x := fun d => ratOf (e.val D (r * D.dim 0 + d)).1
  ((∀ d, d < D.dim 0 → x d = 0) → k = 0) ∧
  ((∃ d, d < D.dim 0 ∧ x d ≠ 0) → (∀ d, d < D.dim 0 → |x d| ≤ 6 * (2 : ℚ) ^ k) ∧ ∃ d, d < D.dim 0 ∧ 6 * (2 : ℚ) ^ (k - 1) < |x d|) ∧
  ∀ d, d < D.dim 0 → ∃ neg code, (x d ≠ 0 → neg = decide (x d < 0)) ∧ RoundsTo e2m1 .rne neg (|x d| / (2 : ℚ) ^ k) code ∧
    v d = ratOf (e2m1.dec code)

/-- R274, R296: the score of key tile `j`. -/
def Score (e : Env) (Q K : Desc) (j : Nat) (score : Nat) : Prop :=
  let keys := fun c => 128 * j ≤ c ∧ c < min (K.dim 1) (128 * j + 128)
  let foul := fun (D : Desc) (r : Nat) => e.poison D r = true ∨ ∃ d, d < D.dim 0 ∧ ¬finite (e.val D (r * D.dim 0 + d)).1
  let bad := (∃ r, r < Q.dim 1 ∧ foul Q r) ∨ ∃ c, keys c ∧ foul K c
  (bad → score = 0x7F800000) ∧
  (¬bad → ∃ (kq kc : Nat → Int) (vq vc : Nat → Nat → ℚ),
    (∀ r, r < Q.dim 1 → Scouted e Q r (kq r) (vq r)) ∧ (∀ c, keys c → Scouted e K c (kc c) (vc c)) ∧
    let s := fun (r c : Nat) => ((List.range (Q.dim 0)).map fun d => vq r d * vc c d).sum * (2 : ℚ) ^ (kq r) * (2 : ℚ) ^ (kc c)
    ∃ r c g n x, r < Q.dim 1 ∧ keys c ∧ (∀ r' c', r' < Q.dim 1 → keys c' → s r' c' ≤ s r c) ∧ num g n x = s r c ∧
      g = decide (s r c < 0) ∧ score = (fp32.deliver {} (.fin g n x)).1)

/-- R275: bit `j` of the mask that DODGE writes. -/
def Kept (sc : Nat → FV) (n : Nat) (theta : FV) (base : BitVec 256) (j : Nat) : Prop :=
  base.getLsbD j = true ∨ (j < n ∧ (sc j).isNan = false ∧ ∃ top : FV,
    (∀ i, i < n → (sc i).isNan = false → (sc i).cmp top ≠ .gt) ∧
    (∃ i, i < n ∧ sc i = top ∧ top.isNan = false) ∧
    match theta, top with
    | .nan _, _ => False
    | .inf a, .inf b => a = b ∨ b = true ∨ sc j = .inf false
    | .inf a, .fin _ _ _ => a = false
    | .fin _ _ _, .inf b => b = true ∨ sc j = .inf false
    | .fin _ _ _, .fin _ _ _ => finite (sc j) ∧ ratOf top - ratOf theta ≤ ratOf (sc j)
    | _, .nan _ => False)

/-- R298, R299: an operation of a chain on FP32 bits. -/
def ChainStep (v y : Nat) (o : Nat × Word) (r : Nat) : Prop :=
  let c := o.2.toNat
  let d := fun (b : Nat) => fp32.dec b
  let w := BitVec.ofNat 32 v
  let rounds := fun (x : FV) => r = (fp32.deliver {} x).1
  match o.1 with
  | 1 => rounds ((d v).add false (d c)).1
  | 2 => rounds ((d v).mul (d c)).1
  | 3 => rounds ((d v).add false (d y)).1
  | 4 => rounds ((d v).mul (d y)).1
  | 5 => ∃ nv, Selects fp32 false true v c (r, nv)
  | 6 => ∃ nv, Selects fp32 false false v c (r, nv)
  | 7 => r = (sfFsigm 8 w).1
  | 8 => r = (sfFexp2 3 w).1
  | 9 => r = (sfFtanh 7 w).1
  | 10 => r = (sfFrcp 0 w).1
  | 11 => rounds ((d v).fma false (d c) (d y)).1
  | 12 => rounds ((d v).add false (d y).neg).1
  | 13 => r = y
  | _ => r = v

/-- R299: the running value through a chain. -/
def Chained (y : Nat) : List (Nat × Word) → Nat → Nat → Prop
  | [], v, r => r = v
  | o :: l, v, r => ∃ u, ChainStep v y o u ∧ Chained y l u r

/-- R264, R281 to R299: what the step `t` of a command computes from the bytes that `e` reads, on core `k`. -/
def StepResult (e : Env) (k : CtxCore) (m : Cmd) (t : Stp) (f : Eff) : Prop :=
  let tile := k.tileAt t.acc
  let puts := fun (l : List EW) => ∀ w ∈ l, w ∈ f.ws
  let has := fun n => t.n0 ≤ n ∧ n < t.n1
  let rows := fun (D : Desc) (r : Nat) => ∃ n, has n ∧ n / D.dim 0 = r
  let onlyTile := fun (P : Tile → Prop) => ∃ u, f.tiles = [(t.acc, u)] ∧ f.ws = [] ∧ u.owner = tile.owner ∧ P u
  let block := fun (D : Desc) => D.fmt = 0xA → t.n0 % 8 = 0 ∧ t.n1 % 8 = 0 ∧ D.dim 0 % 8 = 0
  match m.op, m.ds with
  | .cp _ _ _, [D, S] => block D → sameShape D S = true → D.fmt = S.fmt →
    (∀ n, has n → puts (D.wrElem n (e.elem S n))) ∧
    (D.fmt = 0xA → (∀ n, has n → puts (D.wrBytes (D.sbase + n / 8) [e.byte S.space (S.sbase + n / 8)])) ∧
      ∀ n b, has n → n = b * 64 * D.dim 0 →
        puts (D.wrBytes (D.bandAddr b) [e.byte S.space (S.bandAddr b), e.byte S.space (S.bandAddr b + 1)])) ∧
    (∀ r, rows S r → e.poison S r = true → puts (D.wrPoison r)) ∧
    (f.cause.testBit 4 = true ↔ D.pbase ≠ 0 ∧ ∃ r, rows S r ∧ e.poison S r = true) ∧
    ∀ w ∈ f.ws, (∃ n, has n ∧ w ∈ D.wrElem n (e.elem S n)) ∨ (D.fmt = 0xA ∧ w.1 = D.space ∧ D.sbase ≤ w.2.1) ∨
      ∃ r, w ∈ D.wrPoison r ∧ e.poison S r = true
  | .cpc _ _ _, [D, S] => block D → sameShape D S = true →
    Converted m D t f (e.val S) (fun r => rows S r ∧ e.poison S r = true) (D.pbase ≠ 0 ∧ ∃ r, rows S r ∧ e.poison S r = true)
  | .cpz _ _, [D] => block D →
    (∀ n, has n → puts (D.wrElem n 0)) ∧
    (D.fmt = 0xA → (∀ n, has n → puts (D.wrBytes (D.sbase + n / 8) [0])) ∧
      ∀ n b, has n → n = b * 64 * D.dim 0 → puts (D.wrBytes (D.bandAddr b) [0, 0])) ∧
    f.cause = 0 ∧ ∀ w ∈ f.ws, w.2.2.2 = 0 ∧ ((∃ n, has n ∧ w ∈ D.wrElem n 0) ∨ (D.fmt = 0xA ∧ w.1 = D.space ∧ D.sbase ≤ w.2.1))
  | .accst _ _ _, [D] => block D →
    let cell := fun n => tile.cell (n / D.dim 0) (n % D.dim 0)
    if D.fmt = 0x7 then
      (∀ n, has n → ∃ v : BitVec 64, puts (D.wrElem n v.toNat) ∧
        v = (tile.cell (2 * (n / D.dim 0) + 1) (n % D.dim 0)).extractLsb' 0 32 ++
          (tile.cell (2 * (n / D.dim 0)) (n % D.dim 0)).extractLsb' 0 32) ∧
      (∀ r, rows D r → tile.poison.getLsbD (2 * r) = true ∨ tile.poison.getLsbD (2 * r + 1) = true → puts (D.wrPoison r)) ∧
      f.cause = 0
    else Converted m D t f (fun n => (if D.fmt ≤ 0x3 then
        .fin (decide (int56 (cell n).toNat < 0)) (int56 (cell n).toNat).natAbs 0 else fa56.dec (cell n).toNat, 0))
      (fun r => rows D r ∧ tile.poison.getLsbD r = true) False
  | .accld _ _ _, [D] => D.dim 0 ≤ 128 → (t.n1 - 1) / D.dim 0 < (if D.fmt = 0x7 then 64 else 128) → t.n0 % D.dim 0 = 0 →
    onlyTile fun u => Loaded e D t tile u f.cause
  | .accz _ _, _ => onlyTile fun u => u.cells = [] ∧ u.poison = 0 ∧ u.cause = 0
  | .chset _ _, [P] => ∃ l, f.chain = some l ∧ f.ws = [] ∧ l.length = P.sz 0 / 2 ∧
    ∀ i, i < l.length → l[i]? = some (e.elem P (2 * i), BitVec.ofNat 32 (e.elem P (2 * i + 1))) ∧ e.elem P (2 * i) ≤ 13
  | .chain _ _ _, [D, S] => D.fmt ≠ 0xA → ∃ v : Nat → Nat,
    (∀ n, has n → Chained 0 (((k.blkAt m.blk).chain).getD []) (fp32.deliver {} (e.val S n).1).1 (v n)) ∧
    Converted m D t f (fun n => (fp32.dec (v n), 0)) (fun r => (∃ n, has n ∧ n / D.dim 0 = r) ∧ e.poison S r = true)
      (D.pbase ≠ 0 ∧ ∃ n, has n ∧ e.poison S (n / D.dim 0) = true)
  | .chain2 _ _ _, [D, S, T] => D.fmt ≠ 0xA → ∃ v : Nat → Nat,
    (∀ n, has n → Chained (fp32.deliver {} (e.val T n).1).1 (((k.blkAt m.blk).chain).getD [])
      (fp32.deliver {} (e.val S n).1).1 (v n)) ∧
    Converted m D t f (fun n => (fp32.dec (v n), 0))
      (fun r => (∃ n, has n ∧ n / D.dim 0 = r) ∧ (e.poison S r = true ∨ e.poison T r = true))
      (D.pbase ≠ 0 ∧ ∃ n, has n ∧ (e.poison S (n / D.dim 0) = true ∨ e.poison T (n / D.dim 0) = true))
  | .scout _ _ _, [S, Q, K] => Q.dim 0 = K.dim 0 → t.n0 * 128 < K.dim 1 →
    ∃ score, Score e Q K t.n0 score ∧ f.ws = S.wrElem t.n0 score ∧ f.cause = 0
  | .dodge _ _ _ d, [S] => S.count ≤ 256 → ∃ u, f.kreg = some (d.toNat, u) ∧ f.ws = [] ∧ f.cause = 0 ∧
    ∀ j, j < 256 → (u.getLsbD j = true ↔
      Kept (fun i => fp32.dec (e.elem S i)) S.count (fp32.dec m.theta.toNat) m.kmask j)
  | .dmma _ _ _ _, [A, B] => t.clear = false → A.sz 1 ≤ 64 → onlyTile fun u => Fused e (noSr m.mode) A B t tile u f.cause
  | .mmas _ _ _ _, [A, B, M] => t.clear = false → A.sz 1 ≤ 128 → (A.fmt ≤ 0x1 ↔ B.fmt ≤ 0x1) → t.n0 % 4 = 0 → t.n1 % 4 = 0 →
    onlyTile fun u => Products e m.op A B (some M) t tile u f.cause
  | .mmab _ _ _ _, [A, B] => t.clear = false → A.sz 1 ≤ 32 → B.sz 1 ≤ 32 → B.dim 2 ≤ 16 → t.tile = 0 →
    (A.fmt ≤ 0x1 ↔ B.fmt ≤ 0x1) → onlyTile fun u => Products e m.op A B none t tile u f.cause
  | .mmaz _ _ _ _, [A, B] => (t.clear = true → onlyTile fun u => u.cells = [] ∧ u.poison = 0 ∧ u.cause = 0) ∧
    (t.clear = false → A.sz 1 ≤ 128 → (A.fmt ≤ 0x1 ↔ B.fmt ≤ 0x1) → onlyTile fun u => Products e m.op A B none t tile u f.cause)
  | .mma _ _ _ _, [A, B] | .mmam _ _ _ _, [A, B] => t.clear = false → A.sz 1 ≤ 128 → (A.fmt ≤ 0x1 ↔ B.fmt ≤ 0x1) →
    onlyTile fun u => Products e m.op A B none t tile u f.cause
  | _, _ => True

end Sys2Proof.Claims

open Sys2Proof Sys2Proof.Machine Sys2Proof.Claims

/-! ## Integer instructions -/

/-- R72: the twelve instructions of majors 0x01, 0x04 and 0x05, with SATWRAP. -/
def Obligations.IntegerArithmetic : Prop :=
  ∀ (s : State) (pg : BitVec 3) (d a b : BitVec 7),
    let x := s.me.gr a.toNat
    let y := s.me.gr b.toNat
    let runs := fun (i : Instr) (sat : Bool) => s.Runs i pg [d.toNat, a.toNat, b.toNat] [] { sat := sat }
    (runs (.add pg d a b) true → WritesG s (.add pg d a b) d (satwrap s (x.toInt + y.toInt))) ∧
    (runs (.sub pg d a b) true → WritesG s (.sub pg d a b) d (satwrap s (x.toInt - y.toInt))) ∧
    (runs (.addc pg d a b) false →
      WritesG s (.addc pg d a b) d (if x.toNat + y.toNat ≥ 2 ^ 32 then 1 else 0)) ∧
    (runs (.subb pg d a b) false → WritesG s (.subb pg d a b) d (if x.toNat < y.toNat then 1 else 0)) ∧
    (runs (.mul pg d a b) true → WritesG s (.mul pg d a b) d (satwrap s (x.toInt * y.toInt))) ∧
    (runs (.mulhu pg d a b) false → WritesG s (.mulhu pg d a b) d (.ofNat 32 ((x.toNat * y.toNat) >>> 32))) ∧
    (runs (.mulhs pg d a b) false → WritesG s (.mulhs pg d a b) d (.ofInt 32 ((x.toInt * y.toInt) >>> 32))) ∧
    (runs (.mad pg d a b) true →
      WritesG s (.mad pg d a b) d (satwrap s ((s.me.gr d.toNat).toInt + x.toInt * y.toInt))) ∧
    (runs (.min pg d a b) false → WritesG s (.min pg d a b) d (if x.toInt ≤ y.toInt then x else y)) ∧
    (runs (.max pg d a b) false → WritesG s (.max pg d a b) d (if x.toInt ≥ y.toInt then x else y)) ∧
    (runs (.minu pg d a b) false → WritesG s (.minu pg d a b) d (if x.toNat ≤ y.toNat then x else y)) ∧
    (runs (.maxu pg d a b) false → WritesG s (.maxu pg d a b) d (if x.toNat ≥ y.toNat then x else y)) ∧
    (s.me.hints.sat = false →
      satwrap s (x.toInt + y.toInt) = x + y ∧ satwrap s (x.toInt - y.toInt) = x - y ∧
      satwrap s (x.toInt * y.toInt) = x * y ∧
      satwrap s ((s.me.gr d.toNat).toInt + x.toInt * y.toInt) = s.me.gr d.toNat + x * y)

/-- R73: CLZ, POPC, BREV and ABS. The results are given by what determines them: the leading zeros of a value below
2^(32-n) and not below 2^(31-n) number n. HM.SAT does not apply to ABS. -/
def Obligations.BitCounts : Prop :=
  ∀ (s : State) (pg : BitVec 3) (d a : BitVec 7),
    let x := s.me.gr a.toNat
    let runs := fun (i : Instr) => s.Runs i pg [d.toNat, a.toNat]
    (runs (.clz pg d a) → ∃ n : Nat, WritesG s (.clz pg d a) d (.ofNat 32 n) ∧ n ≤ 32 ∧
      x.toNat < 2 ^ (32 - n) ∧ (n < 32 → 2 ^ (31 - n) ≤ x.toNat)) ∧
    (runs (.popc pg d a) →
      WritesG s (.popc pg d a) d (.ofNat 32 ((List.range 32).filter fun i => x.getLsbD i).length)) ∧
    (runs (.brev pg d a) → ∃ v : Word, WritesG s (.brev pg d a) d v ∧
      ∀ i < 32, v.getLsbD i = x.getLsbD (31 - i)) ∧
    (runs (.abs pg d a) → WritesG s (.abs pg d a) d (if x.toInt < 0 then -x else x)) ∧
    (s.me.hints.sat = true → Illegal s (.abs pg d a))

/-- R74: ADD64, SUB64, SHL64 and SHR64 on pairs, sources read before the destination is written; an odd register where
a pair is required is the illegal instruction. -/
def Obligations.PairArithmetic : Prop :=
  ∀ (s : State) (pg : BitVec 3) (d a b : BitVec 7),
    let x := s.me.pair a.toNat
    let y := s.me.pair b.toNat
    let c := (s.me.gr b.toNat).toNat
    let runs2 := fun (i : Instr) => s.Runs i pg ([d.toNat, d.toNat + 1, a.toNat, a.toNat + 1] ++ [b.toNat, b.toNat + 1])
    let runs1 := fun (i : Instr) => s.Runs i pg ([d.toNat, d.toNat + 1, a.toNat, a.toNat + 1] ++ [b.toNat])
    (runs2 (.add64 pg d a b) → WritesPair s (.add64 pg d a b) d (x + y)) ∧
    (runs2 (.sub64 pg d a b) → WritesPair s (.sub64 pg d a b) d (x - y)) ∧
    (runs1 (.shl64 pg d a b) → WritesPair s (.shl64 pg d a b) d (if c ≥ 64 then 0 else x <<< c)) ∧
    (runs1 (.shr64 pg d a b) → WritesPair s (.shr64 pg d a b) d (if c ≥ 64 then 0 else x >>> c)) ∧
    (d.toNat % 2 = 1 ∨ a.toNat % 2 = 1 →
      Illegal s (.add64 pg d a b) ∧ Illegal s (.sub64 pg d a b) ∧ Illegal s (.shl64 pg d a b) ∧
      Illegal s (.shr64 pg d a b)) ∧
    (b.toNat % 2 = 1 → Illegal s (.add64 pg d a b) ∧ Illegal s (.sub64 pg d a b))

/-- R75, R76: the bitwise instructions, and the shifts with their immediate forms, which take no HX. -/
def Obligations.LogicAndShifts : Prop :=
  ∀ (s : State) (pg : BitVec 3) (d a b : BitVec 7) (n : BitVec 5),
    let x := s.me.gr a.toNat
    let y := s.me.gr b.toNat
    let c := y.toNat
    let runs := fun (i : Instr) => s.Runs i pg [d.toNat, a.toNat, b.toNat]
    let runsI := fun (i : Instr) => s.Runs i pg [d.toNat, a.toNat]
    (runs (.and pg d a b) → WritesG s (.and pg d a b) d (x &&& y)) ∧
    (runs (.or pg d a b) → WritesG s (.or pg d a b) d (x ||| y)) ∧
    (runs (.xor pg d a b) → WritesG s (.xor pg d a b) d (x ^^^ y)) ∧
    (runs (.andn pg d a b) → WritesG s (.andn pg d a b) d (x &&& ~~~y)) ∧
    (runs (.shl pg d a b) → WritesG s (.shl pg d a b) d (.ofNat 32 (if c ≥ 32 then 0 else x.toNat * 2 ^ c))) ∧
    (runs (.shr pg d a b) → WritesG s (.shr pg d a b) d (.ofNat 32 (if c ≥ 32 then 0 else x.toNat / 2 ^ c))) ∧
    (runs (.sar pg d a b) → WritesG s (.sar pg d a b) d (.ofInt 32 (x.toInt / 2 ^ min c 31))) ∧
    (runs (.rotr pg d a b) → WritesG s (.rotr pg d a b) d (x.rotateRight (c % 32))) ∧
    (runsI (.shli pg d a n) → WritesG s (.shli pg d a n) d (.ofNat 32 (x.toNat * 2 ^ n.toNat))) ∧
    (runsI (.shri pg d a n) → WritesG s (.shri pg d a n) d (.ofNat 32 (x.toNat / 2 ^ n.toNat))) ∧
    (runsI (.sari pg d a n) → WritesG s (.sari pg d a n) d (.ofInt 32 (x.toInt / 2 ^ n.toNat))) ∧
    (runsI (.rotri pg d a n) → WritesG s (.rotri pg d a n) d (x.rotateRight n.toNat)) ∧
    (s.me.hints.hx ≠ none →
      Illegal s (.shli pg d a n) ∧ Illegal s (.shri pg d a n) ∧ Illegal s (.sari pg d a n) ∧ Illegal s (.rotri pg d a n))

/-- R77, R78: ADDI, ANDI, ORI, XORI and MOVI; the field is sign-extended, or the pending HX extends it on the left. -/
def Obligations.Immediates : Prop :=
  ∀ (s : State) (pg : BitVec 3) (d a : BitVec 7) (i : BitVec 9) (j : BitVec 16),
    let x := s.me.gr a.toNat
    let k := immediate s i
    let runs := fun (w : Instr) (sat : Bool) => s.Runs w pg [d.toNat, a.toNat] [] { hx := true, sat := sat }
    (runs (.addi pg d a i) true → WritesG s (.addi pg d a i) d (satwrap s (x.toInt + k.toInt))) ∧
    (runs (.andi pg d a i) false → WritesG s (.andi pg d a i) d (x &&& k)) ∧
    (runs (.ori pg d a i) false → WritesG s (.ori pg d a i) d (x ||| k)) ∧
    (runs (.xori pg d a i) false → WritesG s (.xori pg d a i) d (x ^^^ k)) ∧
    (s.Runs (.movi pg d j) pg [d.toNat] [] { hx := true } → WritesG s (.movi pg d j) d (immediate s j))

/-- R79, R80: BFE, BFEU, BFI and PRMT, by the bits of their results. -/
def Obligations.BitFieldsAndBytes : Prop :=
  ∀ (s : State) (pg : BitVec 3) (d a b : BitVec 7),
    let x := s.me.gr a.toNat
    let y := s.me.gr b.toNat
    let z := s.me.gr d.toNat
    let pos := (y.extractLsb' 0 8).toNat
    let len := (y.extractLsb' 8 8).toNat
    let n := if pos ≥ 32 then 0 else min len (32 - pos)
    let runs := fun (i : Instr) => s.Runs i pg [d.toNat, a.toNat, b.toNat]
    (runs (.bfeu pg d a b) → ∃ v : Word, WritesG s (.bfeu pg d a b) d v ∧
      ∀ i < 32, v.getLsbD i = (decide (i < n) && x.getLsbD (pos + i))) ∧
    (runs (.bfe pg d a b) → ∃ v : Word, WritesG s (.bfe pg d a b) d v ∧
      ∀ i < 32, v.getLsbD i = (decide (0 < n) && x.getLsbD (pos + min i (n - 1)))) ∧
    (runs (.bfi pg d a b) → ∃ v : Word, WritesG s (.bfi pg d a b) d v ∧
      ∀ i < 32, v.getLsbD i = if pos ≤ i ∧ i < pos + n then x.getLsbD (i - pos) else z.getLsbD i) ∧
    (runs (.prmt pg d a b) → ∃ v : Word, WritesG s (.prmt pg d a b) d v ∧
      ∀ i < 4,
        let q := z.extractLsb' (4 * i) 4
        let src := (y ++ x).extractLsb' (8 * (q.extractLsb' 0 3).toNat) 8
        v.extractLsb' (8 * i) 8 = if q.getLsbD 3 then (if src.getLsbD 7 then 0xFF#8 else 0x00#8) else src)

/-- R81, R82, R83: SETP in its three forms, PLOP and SEL. -/
def Obligations.PredicatesAndSelect : Prop :=
  ∀ (s : State) (pg q p1 p2 : BitVec 3) (d a b i : BitVec 7) (t : BitVec 4) (n : BitVec 2) (c : ICond),
    (s.Runs (.setp pg q c a b) pg [a.toNat, b.toNat] [.p q.toNat] →
      WritesP s (.setp pg q c a b) q (compares c (s.me.gr a.toNat) (s.me.gr b.toNat))) ∧
    (s.Runs (.setp64 pg q c a b) pg [a.toNat, a.toNat + 1, b.toNat, b.toNat + 1] [.p q.toNat] →
      WritesP s (.setp64 pg q c a b) q (compares c (s.me.pair a.toNat) (s.me.pair b.toNat))) ∧
    (s.Runs (.setpImm pg q c a i) pg [a.toNat] [.p q.toNat] →
      WritesP s (.setpImm pg q c a i) q (compares c (s.me.gr a.toNat) (i.signExtend 32))) ∧
    (s.Runs (.plop pg q p1 p2 t) pg [] [.p q.toNat, .p p1.toNat, .p p2.toNat] →
      WritesP s (.plop pg q p1 p2 t) q
        (t.getLsbD (2 * (s.me.pr p1.toNat).toNat + (s.me.pr p2.toNat).toNat))) ∧
    (s.Runs (.sel pg d a b n) pg [d.toNat, a.toNat, b.toNat] [.p n.toNat] →
      WritesG s (.sel pg d a b n) d (if s.me.pr n.toNat then s.me.gr a.toNat else s.me.gr b.toNat))

/-- R87: KNEXT, KPOP, KGET and KSET. -/
def Obligations.TileMasks : Prop :=
  ∀ (s : State) (pg k : BitVec 3) (d b : BitVec 7),
    let m := s.me.kr k.toNat
    let w := ((s.me.gr b.toNat).extractLsb' 0 3).toNat
    let start := (s.me.gr b.toNat).toNat
    (s.Runs (.knext pg d k b) pg [d.toNat, b.toNat] [.k k.toNat] → ∃ v : Word, WritesG s (.knext pg d k b) d v ∧
      ((∃ i, start ≤ i ∧ i < 256 ∧ m.getLsbD i = true ∧ (∀ j, start ≤ j → j < i → m.getLsbD j = false) ∧
          v = BitVec.ofNat 32 i) ∨
        ((∀ j, start ≤ j → m.getLsbD j = false) ∧ v = 0xFFFFFFFF#32))) ∧
    (s.Runs (.kpop pg d k) pg [d.toNat] [.k k.toNat] →
      WritesG s (.kpop pg d k) d (.ofNat 32 ((List.range 256).filter fun i => m.getLsbD i).length)) ∧
    (s.Runs (.kget pg d k b) pg [d.toNat, b.toNat] [.k k.toNat] →
      WritesG s (.kget pg d k b) d (m.extractLsb' (32 * w) 32)) ∧
    (s.Runs (.kset pg d k b) pg [d.toNat, b.toNat] [.k k.toNat] → ∃ v : BitVec 256,
      exec (.kset pg d k b) s = .next (s.did fun th => { th with k := tput k.toNat v th.k }) ∧
      v.extractLsb' (32 * w) 32 = s.me.gr d.toNat ∧
      ∀ u < 8, u ≠ w → v.extractLsb' (32 * u) 32 = m.extractLsb' (32 * u) 32)

/-! ## Address registers, branches, hints, CSRs -/

/-- R84: LDA, STA, ADDA, ADDAI (with the 33-bit constant under HX), SETM and CLRM. None checks canonical form or a
window. -/
def Obligations.AddressRegisters : Prop :=
  ∀ (s : State) (pg x : BitVec 3) (g : BitVec 7) (i : BitVec 10),
    let gs := [g.toNat, g.toNat + 1]
    let setsA := fun (w : Instr) (v : Dword) =>
      exec w s = .next (s.did fun th => { th with a := tput x.toNat v th.a })
    let setsM := fun (w : Instr) (v : Dword) =>
      exec w s = .next (s.did fun th => { th with m := tput x.toNat v th.m })
    (s.Runs (.lda pg x g) pg gs [.a x.toNat] → setsA (.lda pg x g) (s.me.pair g.toNat)) ∧
    (s.Runs (.sta pg x g) pg gs [.a x.toNat] → WritesPair s (.sta pg x g) g (s.me.ar x.toNat)) ∧
    (s.Runs (.adda pg x g) pg [g.toNat] [.a x.toNat] →
      setsA (.adda pg x g) (s.me.ar x.toNat + (s.me.gr g.toNat).signExtend 64)) ∧
    (s.Runs (.addai pg x i) pg [] [.a x.toNat] { hx := true } →
      setsA (.addai pg x i) (s.me.ar x.toNat + longImmediate s i)) ∧
    (s.Runs (.setm pg x g) pg gs [.m x.toNat] → setsM (.setm pg x g) (s.me.pair g.toNat)) ∧
    (s.Runs (.clrm pg x) pg [] [.m x.toNat] → setsM (.clrm pg x) 0)

/-- R88, R89: branches and calls. A target is an address modulo 2^57 whose bits [1:0] read as zero (R7). BRX, CALLX and
RET trap on a target that is not canonical, then on one that is misaligned, and then change neither pc nor a7. -/
def Obligations.BranchesAndCalls : Prop :=
  ∀ (s : State) (pg x : BitVec 3) (o : BitVec 23),
    let off : BitVec 57 := 4 * (longImmediate s o).setWidth 57
    let linked := fun (th : Thread) => { th with a := tput 7 ((s.me.pc + 4).signExtend 64) th.a }
    let goes := fun (w : Instr) (f : Thread → Thread) (pc : BitVec 57) =>
      exec w s = .next (s.modMe fun th =>
        { f th with pc := pc &&& ~~~3#57, hints := {}, iss := none, entry := none, met := false, acq := none })
    let away := fun (w : Instr) (f : Thread → Thread) (t : Dword) =>
      (t = (t.setWidth 57).signExtend 64 → t.extractLsb' 0 2 = 0#2 → goes w f (t.setWidth 57)) ∧
      (t ≠ (t.setWidth 57).signExtend 64 → Traps s w 0x04 t) ∧
      (t = (t.setWidth 57).signExtend 64 → t.extractLsb' 0 2 ≠ 0#2 → Traps s w 0x02 t)
    (s.Runs (.bra pg o) pg [] [] { hx := true } → goes (.bra pg o) id (s.me.pc + off)) ∧
    (s.Runs (.call pg o) pg [] [.a 7] { hx := true } → goes (.call pg o) linked (s.me.pc + off)) ∧
    (s.Runs (.brx pg x) pg [] [.a x.toNat] → away (.brx pg x) id (s.me.ar x.toNat)) ∧
    (s.Runs (.callx pg x) pg [] [.a x.toNat, .a 7] → away (.callx pg x) linked (s.me.ar x.toNat)) ∧
    (s.Runs (.ret pg) pg [] [.a 7] → away (.ret pg) id (s.me.ar 7))

/-- R19, R60: a hint word writes its payload into the slot of its kind and moves on, leaving the other slots; a hint whose
slot is valid, or with an illegal RND or an EVNUM without EVEN, is the illegal instruction. -/
def Obligations.HintWords : Prop :=
  ∀ (s : State) (e : BitVec 23) (n t : BitVec 1) (r : BitVec 3) (c : BitVec 2) (g : BitVec 1) (k : BitVec 3)
      (m v : BitVec 1) (ev : BitVec 6) (tn : BitVec 8) (h : BitVec 7) (rg pk : BitVec 1),
    let fills := fun (w : Instr) (f : Hints → Hints) =>
      exec w s = .next (s.modMe fun th => { th with pc := (th.pc + 4) &&& ~~~3#57, hints := f th.hints })
    (s.me.hints.hx = none → fills (.hx e) fun z => { z with hx := some e }) ∧
    (s.me.hints.hm = none → r.toNat < 6 →
      fills (.hm n t r c) fun z => { z with hm := some (n ++ t ++ r ++ c ++ 0#16) }) ∧
    (s.me.hints.he = none → (v = 1 ∨ ev = 0) →
      fills (.he g k m v ev tn) fun z => { z with he := some (g ++ k ++ m ++ v ++ ev ++ tn ++ 0#3) }) ∧
    (s.me.hints.hs = none → fills (.hs h rg pk) fun z => { z with hs := some (h ++ rg ++ pk ++ 0#14) }) ∧
    (s.me.hints.hx ≠ none → Illegal s (.hx e)) ∧
    (s.me.hints.hm ≠ none ∨ 6 ≤ r.toNat → Illegal s (.hm n t r c)) ∧
    (s.me.hints.he ≠ none ∨ (v = 0 ∧ ev ≠ 0) → Illegal s (.he g k m v ev tn)) ∧
    (s.me.hints.hs ≠ none → Illegal s (.hs h rg pk))

/-- R13, R85, R86: CSRR reads an assigned CSR at its level; CSRW, CSRS and CSRC compute the new value and write it, or
raise the illegal-instruction trap where a value check refuses it, leaving the state; a number that is not assigned, and a
write of a read-only one, is the illegal instruction; below its CSR's level the word of an assigned one raises the privilege
trap with the word in TVAL. CSRR of LTIME waits for the thread's older words that may still write it (R16). That an unassigned number
is illegal at every level, the numbers of a higher level's range included, is log 78's reading. -/
def Obligations.CsrWords : Prop :=
  ∀ (s : State) (pg : BitVec 3) (d : BitVec 7) (c : BitVec 12),
    let n := c.toNat
    let need := csrLevel n
    let old := s.csr s.cur n
    let v := s.me.gr d.toNat
    let writes := fun (w : Instr) (new : Word) =>
      s.Runs w pg [d.toNat] [] {} need → csrAssigned n = true → csrUserRo n = false →
        (∀ t, s.csrWrite s.cur n new = some t → exec w s = .next (t.modMe Thread.past)) ∧
        (s.csrWrite s.cur n new = none → Illegal s w)
    let kept := fun (w : Instr) => ∃ x, encode w = some x ∧ Traps s w 0x01 (x.zeroExtend 64)
    (s.Runs (.csrr pg d c) pg [d.toNat] [] {} need → csrAssigned n = true →
      (n ≠ 0x028 ∨ s.timePending = false → WritesG s (.csrr pg d c) d old) ∧
      (n = 0x028 → s.timePending = true → Waits s (.csrr pg d c))) ∧
    writes (.csrw pg d c) v ∧ writes (.csrs pg d c) (old ||| v) ∧ writes (.csrc pg d c) (old &&& ~~~v) ∧
    ((s.level s.cur).num < need.num → csrAssigned n = true → d.toNat < s.me.alloc → ({} : HintUse).ok (pg == 7) s.me.hints = true →
      kept (.csrr pg d c) ∧ kept (.csrw pg d c) ∧ kept (.csrs pg d c) ∧ kept (.csrc pg d c)) ∧
    (csrAssigned n = false → Illegal s (.csrr pg d c) ∧ Illegal s (.csrw pg d c) ∧ Illegal s (.csrs pg d c) ∧
      Illegal s (.csrc pg d c)) ∧
    (csrUserRo n = true → Illegal s (.csrw pg d c) ∧ Illegal s (.csrs pg d c) ∧ Illegal s (.csrc pg d c))

/-- R15, R46, R52, R53, R68: the values a user CSR takes. FPMODE takes RM 0 to 4 and no reserved bit, FPFLAGS seven bits,
a zero SRSEED stores 0x9E37_79B9, LEASE takes 1 to 1,023; on a control core REGMODE, HOLD and GANG ignore writes and read
zero. What the read-only ones read: WIDTH 32, LTIME the core's logical time, DIE and PKG the core's on every core; a compute thread's
TIDX, NTHR, BIDX, GRIDX, GRIDY, GRIDZ, its core of the die, its cluster of four cores and its open batch; on a control core the values
of R15. -/
def Obligations.UserCsrValues : Prop :=
  ∀ (s : State) (t : Tid) (v : Word),
    (s.csr t 0x000 = 32 ∧ s.csr t 0x00B = Config.pkg.zeroExtend 32 ∧ s.csr t 0x028 = (s.coreAt (s.phys t)).lt.zeroExtend 32) ∧
    (∀ k, t = .ctl k → s.csr t 0x001 = 0 ∧ s.csr t 0x002 = 1 ∧ s.csr t 0x003 = 0 ∧
      (∀ n ∈ [0x004, 0x005, 0x006], s.csr t n = 1) ∧ (k % 5 < 4 → s.csr t 0x008 = BitVec.ofNat 32 (0x0100 + k % 5)) ∧
      s.csr t 0x009 = 0xFFFFFFFF ∧ s.csr t 0x00A = BitVec.ofNat 32 (k / 5) ∧ s.csr t 0x030 = 0) ∧
    (∀ x c i, t = .cmp x c i →
      let b := s.blkOf t
      let th := s.thr t
      s.csr t 0x001 = BitVec.ofNat 32 th.par.tidx ∧ s.csr t 0x002 = BitVec.ofNat 32 b.nthr ∧ s.csr t 0x003 = b.bidx ∧
      s.csr t 0x004 = b.gx ∧ s.csr t 0x005 = b.gy ∧ s.csr t 0x006 = b.gz ∧
      s.csr t 0x008 = BitVec.ofNat 32 (s.physOf x c % 128) ∧ s.csr t 0x009 = BitVec.ofNat 32 (s.physOf x c % 128 / 4) ∧
      (s.physOf x c < 512 → s.csr t 0x00A = BitVec.ofNat 32 (s.physOf x c / 128)) ∧ s.csr t 0x030 = th.cpopen) ∧
    (∀ n, n ∈ [0x010, 0x011, 0x012, 0x029] → ∀ s', s.csrWrite t n v = some s' →
      s'.csr t n = if n = 0x012 ∧ v = 0 then 0x9E3779B9 else v) ∧
    (s.csrWrite t 0x010 v = none ↔ ((v.extractLsb' 0 3).toNat > 4 ∨ v.extractLsb' 5 3 ≠ 0 ∨ v.extractLsb' 18 14 ≠ 0)) ∧
    (s.csrWrite t 0x011 v = none ↔ v.toNat ≥ 128) ∧
    (s.csrWrite t 0x012 v ≠ none) ∧
    (s.csrWrite t 0x029 v = none ↔ (v = 0 ∨ v.toNat > 1023)) ∧
    (∀ k n, t = .ctl k → n ∈ [0x018, 0x019, 0x020] → s.csrWrite t n v = some s ∧ s.csr t n = 0) ∧
    (∀ x c i, t = .cmp x c i →
      (s.csrWrite t 0x018 v = none ↔ v.toNat > 1) ∧ (s.csrWrite t 0x019 v = none ↔ v.toNat > 127) ∧
      (s.csrWrite t 0x020 v = none ↔ v.toNat > 511) ∧
      ∀ n, n ∈ [0x018, 0x019, 0x020] → ∀ s', s.csrWrite t n v = some s' → s'.csr t n = v)

/-- R22 to R24, R142: the trap CSRs of a control core. A write of PSTAT or MSTAT with a reserved bit or PPL 0b10 is refused;
an accepted one sets INTRAP, IE, PIE and PPL, keeps PL, and reads back but for PL. The two words of TVEC, TEPC and TVAL
are written on their own: TVECL and TEPCL read bits [1:0] as zero, TVECH and TEPCH copy bit [24] above it. No write of a
register but STAT is refused. The sets stand 0x80 apart and do not touch each other. KCTX holds V, PART and BANK and refuses a
value with a reserved bit. -/
def Obligations.TrapCsrs : Prop :=
  (∀ (c c' : Ctl) (v : Word),
    (c.setCsr 0x10C v = none ↔ v.extractLsb' 5 27 ≠ 0) ∧
    (c.setCsr 0x10C v = some c' → c'.csr 0x10C = v ∧
      c' = { c with kctxV := v.getLsbD 4, kctxP := v.extractLsb' 1 3, kctxB := v.extractLsb' 0 1 })) ∧
  ∀ (c c' : Ctl) (v : Word) (base : Nat), base = 0x100 ∨ base = 0x180 →
    ((c.setCsr base v = none ↔ v.extractLsb' 8 24 ≠ 0 ∨ v.getLsbD 4 = true ∨ v.extractLsb' 2 2 = 2) ∧
    (c.setCsr base v = some c' →
      c'.csr base = (v &&& 0xFC) ||| BitVec.ofNat 32 c.pl.num ∧ c'.pl = c.pl) ∧
    (∀ r, 0 < r → r < 12 → c.setCsr (base + r) v ≠ none) ∧
    (c.setCsr (base + 1) v = some c' → c'.csr (base + 1) = v &&& 0x800000FF) ∧
    (∀ r, r ∈ [2, 4] → c.setCsr (base + r) v = some c' →
      c'.csr (base + r) = v &&& 0xFFFFFFFC ∧ c'.csr (base + r + 1) = c.csr (base + r + 1)) ∧
    (∀ r, r ∈ [3, 5] → c.setCsr (base + r) v = some c' →
      c'.csr (base + r) = (v.setWidth 25).signExtend 32 ∧ c'.csr (base + r - 1) = c.csr (base + r - 1)) ∧
    (∀ r, r ∈ [6, 7] → c.setCsr (base + r) v = some c' → c'.csr (base + r) = v) ∧
    (∀ r, r ∈ [8, 9, 10, 11] → c.setCsr (base + r) v = some c' → c'.csr (base + r) = v &&& 0x807FFFFF) ∧
    (∀ r, r < 12 → c.setCsr (base + r) v = some c' →
      c'.t = c.t ∧ c'.uroot = c.uroot ∧ c'.kroot = c.kroot ∧ c'.irqs = c.irqs ∧
      (base = 0x100 → c'.mset = c.mset) ∧ (base = 0x180 → c'.kset = c.kset)))

/-! ## The order of checks, traps, interrupts, return -/

/-- R57, R61, R69, R70: a word that is well formed and has no other condition, here ADD, ADDI and LD, of control cores and compute
threads alike, and EXIT, of compute threads, for four shapes: one with a g-register beyond the allocation, or with a pending hint that does not
apply, is the illegal instruction whatever its guard; one whose guard is false does nothing but move on. -/
def Obligations.OrderOfChecks : Prop :=
  ∀ (s : State) (pg : BitVec 3) (d a b : BitVec 7) (i : BitVec 9) (r : BitVec 3) (o : BitVec 8),
    let add := Instr.add pg d a b
    let addi := Instr.addi pg d a i
    let ld := Instr.ld pg d r .offset .w32 o
    (s.me.alloc ≤ d.toNat ∨ s.me.alloc ≤ a.toNat → Illegal s add ∧ Illegal s addi) ∧
    (s.me.alloc ≤ d.toNat → Illegal s ld) ∧
    (s.me.hints.hx ≠ none → Illegal s add) ∧
    (s.me.hints.he ≠ none → Illegal s add ∧ Illegal s addi ∧ Illegal s ld) ∧
    (s.me.hints.sat = true → Illegal s ld) ∧
    (pg = 7 → s.me.hints.neg = true → Illegal s add ∧ Illegal s addi ∧ Illegal s ld) ∧
    (d.toNat < s.me.alloc → a.toNat < s.me.alloc → b.toNat < s.me.alloc → s.me.hints = {} → s.me.pend = [] →
      s.me.guard pg = false →
      exec add s = .next (s.modMe Thread.past) ∧ exec addi s = .next (s.modMe Thread.past) ∧
      exec ld s = .next (s.modMe Thread.past)) ∧
    (isCtl s.cur = true → Illegal s (.exit pg)) ∧
    (s.me.hints.hx ≠ none ∨ s.me.hints.he ≠ none ∨ s.me.hints.sat = true ∨ (pg = 7 ∧ s.me.hints.neg = true) → Illegal s (.exit pg)) ∧
    (isCtl s.cur = false → s.me.hints = {} → s.me.pend = [] → s.me.guard pg = false →
      exec (.exit pg) s = .next (s.modMe Thread.past))

/-- R14: RTE, WFI, RDTS, WRTS and RESUME need kernel level; below it, as in every compute thread, a legal one raises the
privilege trap with its word, whatever its guard. -/
def Obligations.PrivilegedWords : Prop :=
  ∀ (s : State) (pg n : BitVec 3) (d a : BitVec 7) (i : Instr),
    (i = .rte pg ∨ i = .wfi pg ∨ (i = .rdts pg d a ∧ d.toNat % 2 = 0 ∧ a.toNat % 2 = 0) ∨
      (i = .wrts pg d a ∧ d.toNat % 2 = 0 ∧ a.toNat % 2 = 0) ∨ i = .resume pg d n) →
    d.toNat + 4 ≤ s.me.alloc → a.toNat + 4 ≤ s.me.alloc → s.me.hints = {} → s.level s.cur = .user →
    ∃ w, encode i = some w ∧ Traps s i 0x01 (w.zeroExtend 64)

/-- R27: taking a trap on a control core. From user level, or from kernel level with PSTAT.INTRAP 0, it enters kernel
level; from kernel level with PSTAT.INTRAP 1 it enters monitor level as a double trap with the kernel TCAUSE as its value;
from monitor level with MSTAT.INTRAP 0 it enters monitor level, and with MSTAT.INTRAP 1 the core stops and signals the Gecko
pair of its die. TRAP at kernel
level and cause 0x11 (`up`) go to monitor level with their own cause. -/
def Obligations.TrapEntry : Prop :=
  ∀ (s : State) (n cause : Nat) (v : BitVec 64) (up : Bool),
    let c := s.ctlAt n
    let c' := (s.trap (.ctl n) cause v up).ctlAt n
    let double : BitVec 64 := (c.kset.read c.pl 1).zeroExtend 64
    let toKernel := Entered c.kset c'.kset c.t cause v false c.pl ∧ c'.pl = .kernel ∧ c'.mset = c.mset ∧
      c'.t = AtVector c.t c.kset.tvec
    let toMonitor := fun (k : Nat) (w : BitVec 64) => Entered c.mset c'.mset c.t k w false c.pl ∧ c'.pl = .monitor ∧
      c'.kset = c.kset ∧ c'.t = AtVector c.t c.mset.tvec
    (up = false → c.pl = .user ∨ (c.pl = .kernel ∧ c.kset.intrap = false) → toKernel) ∧
    (up = false → c.pl = .kernel → c.kset.intrap = true → toMonitor 0x10 double) ∧
    (up = false → c.pl = .monitor → c.mset.intrap = false → toMonitor cause v) ∧
    (up = true → c.pl ≠ .monitor ∨ c.mset.intrap = false → toMonitor cause v) ∧
    (c.pl = .monitor → c.mset.intrap = true → n % 5 ≠ 4 → c' = { c with stopped := true }) ∧
    (c.pl = .monitor → c.mset.intrap = true → c'.stopped = true ∧ c'.t = c.t ∧ c'.pl = c.pl ∧ c'.kset = c.kset ∧ c'.mset = c.mset ∧
      (c.stopped = false → n ∈ ((s.trap (.ctl n) cause v up).ctlAt (n / 5 * 5 + 4)).signals)) ∧
    (∀ t, t ≠ .ctl n → (s.trap (.ctl n) cause v up).thr t = s.thr t) ∧ s.SameMem (s.trap (.ctl n) cause v up)

/-- R29, R93: TRAP raises cause 0x0D with its code and BKPT cause 0x0C with zero, at their own address; TRAP at kernel
level goes to monitor level (R27). RTE returns from the trap set of the current level. -/
def Obligations.TrapBreakpointAndReturn : Prop :=
  ∀ (s : State) (pg : BitVec 3) (c : BitVec 12),
    (s.Runs (.trap pg c) pg [] →
      exec (.trap pg c) s = .next (s.trap s.cur 0x0D (c.zeroExtend 64) (s.level s.cur == .kernel))) ∧
    (s.Runs (.bkpt pg) pg [] → Traps s (.bkpt pg) 0x0C 0) ∧
    (∀ n, s.cur = .ctl n → s.Runs (.rte pg) pg [] [] {} .kernel →
      let c := s.ctlAt n
      let k := if c.pl = .monitor then c.mset else c.kset
      let slot := fun (h : SavedHint) => if h.v then some h.payload else none
      let back : Hints := { hx := slot k.hx, hm := slot k.hm, he := slot k.he, hs := slot k.hs }
      let k' := { k with ie := k.pie, intrap := false }
      exec (.rte pg) s = .next (s.setCtl n
        { c with t := { AtVector c.t k.epc with hints := back }, pl := k.ppl,
                 kset := if c.pl = .monitor then c.kset else k', mset := if c.pl = .monitor then k' else c.mset }))

/-- R28, R94, R331: an interrupt source becomes pending on its control core and is taken, before the next word, as
cause 0x12 at kernel level with the source as its value, when PSTAT.IE is 1, the pending-hint register is empty, the core runs
at user or kernel level and stands between two words, where an EVWAIT that waits leaves it (R142); else it stays pending. A
sleeping thread wakes only by its count (R149). With the package's power off no source arrives (R2). WFI moves past its word, and stops the core unless an interrupt
that would be taken if IE were 1 is pending. -/
def Obligations.InterruptsAndWfi : Prop :=
  ∀ (s : State) (n src : Nat) (pg : BitVec 3), src < 15 →
    let c := s.ctlAt n
    let taken := c.kset.ie = true ∧ c.t.hints = {} ∧ c.pl ≠ .monitor ∧ c.sleep = none ∧
      (c.t.iss = none ∨ ∃ g k, c.t.iss = some (.evwait g k))
    (s.boot.stage = .off → exec (.interrupt n src) s = .next s) ∧
    (s.boot.stage ≠ .off → ∃ c' : Ctl, exec (.interrupt n src) s = .next (s.setCtl n c') ∧
      (c.irqs = [] → taken → Entered c.kset c'.kset c.t 0x12 (.ofNat 64 src) true c.pl ∧ c'.pl = .kernel ∧
        c'.t = AtVector c.t c.kset.tvec ∧ c'.irqs = [] ∧ c'.wfi = false) ∧
      (¬taken → src ∈ c'.irqs ∧ (∀ k ∈ c.irqs, k ∈ c'.irqs) ∧ c'.t = c.t ∧ c'.pl = c.pl ∧ c'.kset = c.kset)) ∧
    (s.cur = .ctl n → s.Runs (.wfi pg) pg [] [] {} .kernel →
      let wakes := c.irqs ≠ [] ∧ c.pl ≠ .monitor
      ∃ t, exec (.wfi pg) s = .next t ∧ t.me = s.me.past ∧ (t.ctlAt n).irqs = c.irqs ∧
        (¬wakes → (t.ctlAt n).wfi = true) ∧ (wakes → (t.ctlAt n).wfi = c.wfi))

/-- R310, R312: a trap of a compute thread asserts the halt line of its partition. With no halt of its bank it begins
one: HSEQ grows by one, the named trap holds its cause, value, program counter, core and slot, and the thread is left as it
stood at the word. No trap of a compute thread changes a thread, a control core or memory. -/
def Obligations.ComputeTrapHalts : Prop :=
  ∀ (s : State) (x c i cause : Nat) (v : BitVec 64) (up : Bool),
    let t := s.trap (.cmp x c i) cause v up
    ((s.ctxAt x).halt = none → ∃ h, (t.ctxAt x).halt = some h ∧ h.start = s.clock ∧ h.stopped = false ∧ h.ntrap = 1 ∧
      h.trap = { cause, tval := v, pc := (s.thr (.cmp x c i)).pc, unit := 0, core := c, slot := i, clk := s.clock } ∧
      h.hit = [(c, i)] ∧ (t.ctxAt x).hseq = (s.ctxAt x).hseq + 1) ∧
    (∀ h, (s.ctxAt x).halt = some h → h.stopped = false →
      ∃ h', (t.ctxAt x).halt = some h' ∧ h'.ntrap = min (h.ntrap + 1) 65535 ∧ h'.start = h.start ∧
        (c, i) ∈ h'.hit ∧ (t.ctxAt x).hseq = (s.ctxAt x).hseq) ∧
    (∀ u, t.thr u = s.thr u) ∧ (∀ n, t.ctlAt n = s.ctlAt n) ∧ s.SameMem t

/-! ## Floating point -/

/-- R99: FADD, FSUB, FMUL, FFMA and FFMS: the exact result of the decoded sources, that of the numbers they stand for with the
cases of NaNs, infinities and exact zeros, rounded once to FP32. -/
def Obligations.Fp32Arithmetic : Prop :=
  ∀ (s : State) (pg : BitVec 3) (d a b : BitVec 7),
    let x := source s fp32 (s.me.gr a.toNat).toNat
    let y := source s fp32 (s.me.gr b.toNat).toNat
    let z := source s fp32 (s.me.gr d.toNat).toNat
    let dn := roundsDown s
    let gives := fun (i : Instr) (v : FV × Nat) =>
      s.Runs i pg [d.toNat, a.toNat, b.toNat] [] { sat := true, rnd := true } → DeliversG s i d (rounded s fp32 v)
    ExactOps ∧ gives (.fadd pg d a b) (x.add dn y) ∧ gives (.fsub pg d a b) (x.add dn y.neg) ∧ gives (.fmul pg d a b) (x.mul y) ∧
    gives (.ffma pg d a b) (x.fma dn y z) ∧ gives (.ffms pg d a b) (x.fma dn y z.neg)

/-- R102, R103: DADD, DSUB, DMUL and DFMA as R99 on FP64 pairs, their exact results those of the numbers the sources stand for, DAZ and FTZ never applying; the seeds DRCPA and DRSQA, of a
finite source rounded to 12 significant bits, with the table of their special cases. -/
def Obligations.Fp64Arithmetic : Prop :=
  ∀ (s : State) (pg : BitVec 3) (d a b : BitVec 7),
    let x := fp64.dec (s.me.pair a.toNat).toNat
    let y := fp64.dec (s.me.pair b.toNat).toNat
    let z := fp64.dec (s.me.pair d.toNat).toNat
    let dn := roundsDown s
    let gives := fun (i : Instr) (v : FV × Nat) =>
      s.Runs i pg [d.toNat, d.toNat + 1, a.toNat, a.toNat + 1, b.toNat, b.toNat + 1] [] { sat := true, rnd := true } →
        DeliversPair s i d (rounded s fp64 v)
    let seeds := fun (i : Instr) (r : BF) =>
      s.Runs i pg [d.toNat, d.toNat + 1, a.toNat, a.toNat + 1] → DeliversPair s i d r
    ExactOps ∧ gives (.dadd pg d a b) (x.add dn y) ∧ gives (.dsub pg d a b) (x.add dn y.neg) ∧ gives (.dmul pg d a b) (x.mul y) ∧
    gives (.dfma pg d a b) (x.fma dn y z) ∧
    seeds (.drcpa pg d a) (exDrcpa (s.me.pair a.toNat).toNat) ∧ seeds (.drsqa pg d a) (exDrsqa (s.me.pair a.toNat).toNat) ∧
    (∀ (bits : Nat) (g : Bool), fp64.dec bits = .nan g →
      exDrcpa bits = (0x7FF8000000000000, if g then 16 else 0) ∧ exDrsqa bits = (0x7FF8000000000000, if g then 16 else 0)) ∧
    exDrcpa 0x0000000000000000 = (0x7FF0000000000000, 8) ∧ exDrcpa 0x8000000000000000 = (0xFFF0000000000000, 8) ∧
    exDrsqa 0x0000000000000000 = (0x7FF0000000000000, 8) ∧ exDrsqa 0x8000000000000000 = (0xFFF0000000000000, 8) ∧
    exDrcpa 0x7FF0000000000000 = (0x0000000000000000, 0) ∧ exDrcpa 0xFFF0000000000000 = (0x8000000000000000, 0) ∧
    exDrsqa 0x7FF0000000000000 = (0x0000000000000000, 0) ∧ exDrsqa 0xFFF0000000000000 = (0x7FF8000000000000, 16) ∧
    (∀ (bits n : Nat) (e : Int), fp64.dec bits = .fin true (n + 1) e → exDrsqa bits = (0x7FF8000000000000, 16)) ∧
    (∀ (bits n : Nat) (g : Bool) (e : Int), fp64.dec bits = .fin g (n + 1) e → ∃ (m : Nat) (q : Int),
      let v := 1 / mag (n + 1) e
      mag (2 ^ 11) q ≤ v ∧ v < mag (2 ^ 12) q ∧ |v - mag m q| ≤ mag 1 (q - 1) ∧
      ((2 : ℚ) ^ (1024 : Int) ≤ mag m q → exDrcpa bits = (fp64.infinity g, 4)) ∧
      (mag m q < (2 : ℚ) ^ (-1022 : Int) → exDrcpa bits = (fp64.sign g, 2)) ∧
      ((2 : ℚ) ^ (-1022 : Int) ≤ mag m q → mag m q < (2 : ℚ) ^ (1024 : Int) → (exDrcpa bits).2 = 0 ∧
        ∃ k p, fp64.dec (exDrcpa bits).1 = .fin g k p ∧ mag k p = mag m q)) ∧
    (∀ (bits n : Nat) (e : Int), fp64.dec bits = .fin false (n + 1) e → ∃ (m : Nat) (q : Int),
      let x := mag (n + 1) e
      2 ^ 11 ≤ m ∧ m ≤ 2 ^ 12 ∧ mag (2 * m - 1) (q - 1) ^ 2 * x ≤ 1 ∧ 1 ≤ mag (2 * m + 1) (q - 1) ^ 2 * x ∧
      (exDrsqa bits).2 = 0 ∧ ∃ k p, fp64.dec (exDrsqa bits).1 = .fin false k p ∧ mag k p = mag m q)

/-- R104: the packed instructions compute each element on its own, as R99 and R100 in BF16 and FP16, the exact results those of the
numbers the elements stand for. -/
def Obligations.PackedArithmetic : Prop :=
  ∀ (s : State) (pg : BitVec 3) (d a b : BitVec 7),
    let at_ := fun (f : Fmt) (r : BitVec 7) (e : Nat) => source s f (element (s.me.gr r.toNat) e)
    let sum := fun (f : Fmt) => packs fun e => rounded s f ((at_ f a e).add (roundsDown s) (at_ f b e))
    let product := fun (f : Fmt) => packs fun e => rounded s f ((at_ f a e).mul (at_ f b e))
    let fused := fun (f : Fmt) => packs fun e => rounded s f ((at_ f a e).fma (roundsDown s) (at_ f b e) (at_ f d e))
    let greater := fun (f : Fmt) (i : Instr) => s.Runs i pg [d.toNat, a.toNat, b.toNat] →
      ∃ r : Nat → BF, DeliversG s i d (packs r) ∧
        ∀ e < 2, Selects f (s.me.fpmode.getLsbD 3) true (element (s.me.gr a.toNat) e) (element (s.me.gr b.toNat) e) (r e)
    let gives := fun (i : Instr) (hu : HintUse) (r : BF) =>
      s.Runs i pg [d.toNat, a.toNat, b.toNat] [] hu → DeliversG s i d r
    let round : HintUse := { sat := true, rnd := true }
    ExactOps ∧ gives (.badd2 pg d a b) round (sum bf16) ∧ gives (.bmul2 pg d a b) round (product bf16) ∧
    gives (.bfma2 pg d a b) round (fused bf16) ∧ greater bf16 (.bmax2 pg d a b) ∧
    gives (.hadd2 pg d a b) round (sum fp16) ∧ gives (.hmul2 pg d a b) round (product fp16) ∧
    gives (.hfma2 pg d a b) round (fused fp16) ∧ greater fp16 (.hmax2 pg d a b)

/-- R100, R101, R105: FMIN, FMAX, DMIN and DMAX select one operand as it was read, -0 counting as less than +0; FCPYS gives a
magnitude the sign of gb, a subnormal one unflushed under FTZ (log 51); FSETP compares by its table, -0 equal to +0, and pd = 7 discards the result. The order of two values
is that of the numbers they stand for. -/
def Obligations.SelectAndCompare : Prop :=
  ∀ (s : State) (pg q : BitVec 3) (d a b : BitVec 7) (c : FCond) (t : BitVec 1),
    let x := (s.me.gr a.toNat).toNat
    let y := (s.me.gr b.toNat).toNat
    let x64 := (s.me.pair a.toNat).toNat
    let y64 := (s.me.pair b.toNat).toNat
    let daz := s.me.fpmode.getLsbD 3
    let one := fun (i : Instr) (mx : Bool) => s.Runs i pg [d.toNat, a.toNat, b.toNat] →
      ∃ r, Selects fp32 daz mx x y r ∧ DeliversG s i d r
    let pairs := fun (i : Instr) (mx : Bool) =>
      s.Runs i pg [d.toNat, d.toNat + 1, a.toNat, a.toNat + 1, b.toNat, b.toNat + 1] →
      ∃ r, Selects fp64 false mx x64 y64 r ∧ DeliversPair s i d r
    let sets := fun (u v : FV) => Delivers s (.fsetp pg q c a b t) (fcomparesNv c u v) fun th =>
      if q = 7 then th else { th with p := tput q.toNat (fcompares c (u.isNan || v.isNan) (u.cmp v)) th.p }
    one (.fmin pg d a b) false ∧ one (.fmax pg d a b) true ∧ pairs (.dmin pg d a b) false ∧ pairs (.dmax pg d a b) true ∧
    fp16.qnan = 0x7E00 ∧ bf16.qnan = 0x7FC0 ∧ fp32.qnan = 0x7FC00000 ∧ fp64.qnan = 0x7FF8000000000000 ∧
    (∀ (g h : Bool) (n m : Nat) (e k : Int),
      let u := FV.fin g n e
      let v := FV.fin h m k
      (u.cmp v = .lt ↔ num g n e < num h m k) ∧ (u.cmp v = .eq ↔ num g n e = num h m k) ∧
      (u.cmp v = .gt ↔ num h m k < num g n e) ∧ (FV.inf true).cmp u = .lt ∧ (FV.inf false).cmp u = .gt ∧
      u.cmp (.inf true) = .gt ∧ u.cmp (.inf false) = .lt) ∧
    (FV.inf true).cmp (.inf false) = .lt ∧ (FV.inf false).cmp (.inf true) = .gt ∧
    (∀ g, (FV.inf g).cmp (.inf g) = .eq) ∧
    (s.Runs (.fcpys pg d a b) pg [d.toNat, a.toNat, b.toNat] →
      ((source s fp32 x).isNan = true →
        DeliversG s (.fcpys pg d a b) d (0x7FC00000, if (source s fp32 x).isSig then 16 else 0)) ∧
      ((source s fp32 x).isNan = false →
        DeliversG s (.fcpys pg d a b) d (asItReads fp32 daz x % 2 ^ 31 + y / 2 ^ 31 * 2 ^ 31, 0))) ∧
    (s.Runs (.fsetp pg q c a b t) pg (if t = 1 then [a.toNat, a.toNat + 1, b.toNat, b.toNat + 1] else [a.toNat, b.toNat])
        [.p q.toNat] →
      (t = 0 → sets (source s fp32 x) (source s fp32 y)) ∧ (t = 1 → sets (fp64.dec x64) (fp64.dec y64)))

/-- R107: the approximate functions in FP32 and BF16X2, the exact ones in all three types. A result of an approximate
function is the model's free value held to the bound of its row (log 10): FRCP and FRSQ are faithful, the others lie within
their bound of the value that the model evaluates in fixed point of 160 fraction bits. That a subnormal source which
DAZ reads as zero raises DZ in FRCP, FRSQ and FLOG2 is log 69's reading. FSQRT and FRND are correctly rounded; FABS clears and FNEG
inverts the sign of what was read; FCLASS sets one bit of ten. The special cases are Obligations.SpecialCases. -/
def Obligations.SpecialFunctions : Prop :=
  ∀ (s : State) (pg : BitVec 3) (d a : BitVec 7) (t : FElt),
    let approx := fun (i : Instr) (code : Nat) (f : Nat → BitVec 32 → BF) =>
      let x := s.me.gr a.toNat
      let daz := s.me.fpmode.getLsbD 3
      (t = .f32 → s.Runs i pg [d.toNat, a.toNat] → DeliversG s i d (f code (BitVec.ofNat 32 (asItReads fp32 daz x.toNat)))) ∧
      (t = .bf16x2 → s.Runs i pg [d.toNat, a.toNat] → DeliversG s i d (packs fun e =>
        let r := f code (BitVec.ofNat 32 (asItReads bf16 daz (element x e) * 65536))
        ((bf16.deliver {} (fp32.dec r.1)).1, r.2)))
    let exact := fun (i : Instr) (rnd : Bool) (f : Fmt → Deliver → FV → BF) =>
      let dl : Deliver := fpDeliver s.me
      let x := s.me.gr a.toNat
      (t = .f32 → s.Runs i pg [d.toNat, a.toNat] [] { rnd := rnd } → DeliversG s i d (f fp32 dl (source s fp32 x.toNat))) ∧
      (t = .bf16x2 → s.Runs i pg [d.toNat, a.toNat] [] { rnd := rnd } →
        DeliversG s i d (packs fun e => f bf16 dl (source s bf16 (element x e)))) ∧
      (t = .f64 → s.Runs i pg [d.toNat, d.toNat + 1, a.toNat, a.toNat + 1] [] { rnd := rnd } →
        DeliversPair s i d (f fp64 { dl with ftz := false } (fp64.dec (s.me.pair a.toNat).toNat)))
    approx (.frcp pg d a t) 0 sfFrcp ∧ approx (.frsq pg d a t) 1 sfFrsq ∧ approx (.fexp2 pg d a t) 3 sfFexp2 ∧
    approx (.flog2 pg d a t) 4 sfFlog2 ∧ approx (.fsin pg d a t) 5 sfFsin ∧ approx (.fcos pg d a t) 6 sfFcos ∧
    approx (.ftanh pg d a t) 7 sfFtanh ∧ approx (.fsigm pg d a t) 8 sfFsigm ∧
    exact (.fsqrt pg d a t) true exSqrt ∧ exact (.frnd pg d a t) true exRnd ∧
    exact (.fabs pg d a t) false (fun f dl v => exSign f dl (fun _ => false) v) ∧
    exact (.fneg pg d a t) false (fun f dl v => exSign f dl (fun g => !g) v) ∧
    (t = .f32 → s.Runs (.fclass pg d a t) pg [d.toNat, a.toNat] →
      WritesG s (.fclass pg d a t) d (.ofNat 32 (exClass fp32 (s.me.gr a.toNat).toNat))) ∧
    (t = .bf16x2 → s.Runs (.fclass pg d a t) pg [d.toNat, a.toNat] →
      WritesG s (.fclass pg d a t) d (.ofNat 32 (exClass bf16 (element (s.me.gr a.toNat) 0) +
        exClass bf16 (element (s.me.gr a.toNat) 1) * 65536))) ∧
    (t = .f64 → s.Runs (.fclass pg d a t) pg [d.toNat, a.toNat, a.toNat + 1] →
      WritesG s (.fclass pg d a t) d (.ofNat 32 (exClass fp64 (s.me.pair a.toNat).toNat))) ∧
    (∀ (code : Nat) (w : BitVec 32) (g : Bool) (n : Nat) (e : Int), fp32.dec w.toNat = .fin g (n + 1) e →
      let x := mag (n + 1) e
      let r := (sfFrcp code w).1
      let q := (sfFrsq code w).1
      let v := fxOf g (n + 1) e
      ((∃ m p, fp32.dec r = .fin g m p ∧
          ((2 ^ 23 ≤ m ∧ |mag m p - 1 / x| < mag 1 p ∧ (m = 2 ^ 23 → mag m p - 1 / x < mag 1 (p - 1))) ∨
           (m = 0 ∧ 1 / x < mag 1 (-126)) ∨ (m = 2 ^ 24 - 1 ∧ p = 104 ∧ mag m p < 1 / x))) ∨
        (r = fp32.infinity g ∧ mag (2 ^ 24 - 1) 104 < 1 / x)) ∧ (sfFrcp code w).2 = 0 ∧
      (g = false → (∃ m p, fp32.dec q = .fin false m p ∧ 2 ^ 23 ≤ m ∧ (mag m p - mag 1 p) ^ 2 * x < 1 ∧
        1 < (mag m p + mag 1 p) ^ 2 * x) ∧ (sfFrsq code w).2 = 0) ∧
      (128 * fxOne ≤ v → sfFexp2 code w = (0x7F800000, 4)) ∧
      (v < 128 * fxOne → (sfFexp2 code w).2 = 0 ∧ (-(200 * fxOne) ≤ v →
        Within (sfFexp2 code w).1 (fxExp2 v).1 (2 * fxUlp (fxExp2 v).1) (fxExp2 v).2)) ∧
      (∀ k : Nat, k < 254 → v = ((k : Int) - 126) * fxOne → sfFexp2 code w = ((k + 1) * 2 ^ 23, 0)) ∧
      (g = false → (sfFlog2 code w).2 = 0 ∧ Within (sfFlog2 code w).1 (fxLog2 (n + 1) e)
        (if fxOne / 2 ≤ v ∧ v ≤ 2 * fxOne then 2 ^ 138 else 2 * fxUlp (fxLog2 (n + 1) e)) 0) ∧
      (∀ k : Nat, g = false → n + 1 = 2 ^ k → ∃ h m p, fp32.dec (sfFlog2 code w).1 = .fin h m p ∧ num h m p = k + e) ∧
      (sfFsin code w).2 = 0 ∧ (sfFcos code w).2 = 0 ∧ (sfFtanh code w).2 = 0 ∧ (sfFsigm code w).2 = 0 ∧
      (v.natAbs ≤ 1024 * fxPi →
        Within (sfFsin code w).1 (fxSin v) (2 ^ 139) 0 ∧ Within (sfFcos code w).1 (fxCos v) (2 ^ 139) 0) ∧
      (1024 * fxPi < v.natAbs →
        Within (sfFsin code w).1 0 (fxOne - 2 ^ 40) 0 ∧ Within (sfFcos code w).1 0 (fxOne - 2 ^ 40) 0) ∧
      (10 * fxOne ≤ fxOf false (n + 1) e → sfFtanh code w = (if g then 0xBF800000 else 0x3F800000, 0)) ∧
      (fxOf false (n + 1) e < 10 * fxOne →
        let u := fxExpNeg (-(2 * fxOf false (n + 1) e))
        let h := fxDiv (fxOne - u) (fxOne + u)
        Within (sfFtanh code w).1 (if g then -h else h) (2 ^ 139) 0) ∧
      (18 * fxOne ≤ v → sfFsigm code w = (0x3F800000, 0)) ∧ (v ≤ -(104 * fxOne) → sfFsigm code w = (0, 0)) ∧
      (-(104 * fxOne) < v → v < 18 * fxOne →
        let u := fxExpNeg (if g then v else -v)
        Within (sfFsigm code w).1 (if g then fxDiv u (fxOne + u) else fxDiv fxOne (fxOne + u)) (2 ^ 138) 0)) ∧
    (∀ f ∈ [bf16, fp32, fp64], ∀ (bits n : Nat) (e : Int) (dl : Deliver), f.dec bits = .fin false (n + 1) e → dl.rm ≠ .sr →
      ∃ (m : Nat) (q : Int),
      let x := mag (n + 1) e
      f.dec (exSqrt f dl (f.dec bits)).1 = .fin false m q ∧
      (dl.rm = .rz ∨ dl.rm = .rdn → mag m q ^ 2 ≤ x ∧ x < (mag m q + mag 1 q) ^ 2) ∧
      (dl.rm = .rup → (mag m q - gapBelow f m q) ^ 2 < x ∧ x ≤ mag m q ^ 2) ∧
      (dl.rm = .rne → (mag m q - gapBelow f m q / 2) ^ 2 ≤ x ∧ x ≤ (mag m q + mag 1 (q - 1)) ^ 2) ∧
      (exSqrt f dl (f.dec bits)).2 = if mag m q ^ 2 = x then 0 else 1) ∧
    (∀ f ∈ [bf16, fp32, fp64], ∀ (bits n : Nat) (g : Bool) (e : Int) (dl : Deliver), f.dec bits = .fin g n e →
      ∃ (z : Int) (m : Nat) (q : Int), Integral dl.rm (num g n e) z ∧ f.dec (exRnd f dl (f.dec bits)).1 = .fin g m q ∧
        num g m q = z ∧ (exRnd f dl (f.dec bits)).2 = 0) ∧
    (∀ f ∈ [bf16, fp32, fp64], ∀ (h : Bool → Bool) (dl : Deliver) (bits : Nat), bits < 2 ^ f.w →
      let r := exSign f dl h (f.dec bits)
      let as := fun (g : Bool) => bits % 2 ^ (f.w - 1) + if h g then 2 ^ (f.w - 1) else 0
      (∀ g, f.dec bits = .nan g → r = (f.qnan, if g then 16 else 0)) ∧
      (∀ g, f.dec bits = .inf g → r = (as g, 0)) ∧
      (∀ g n e, f.dec bits = .fin g n e → r = if dl.ftz = true ∧ 0 < n ∧ n < 2 ^ f.fb
        then (if h g then 2 ^ (f.w - 1) else 0, 3) else (as g, 0))) ∧
    (∀ (f : Fmt) (bits : Nat),
      (∀ g, f.dec bits = .nan g → exClass f bits = if g then 256 else 512) ∧
      (∀ g, f.dec bits = .inf g → exClass f bits = if g then 1 else 128) ∧
      (∀ g n e, f.dec bits = .fin g n e →
        exClass f bits = if n = 0 then (if g then 8 else 16) else if n < 2 ^ f.fb then (if g then 4 else 32)
          else if g then 2 else 64))

/-- R103, R107: the special cases of the functions' tables, for every code the tables give them to: zeros, infinities,
negative sources and NaNs, those of FSQRT, FRND, FABS and FNEG in each of their formats among them; and FCLASS sets exactly one of ten bits. -/
def Obligations.SpecialCases : Prop :=
  ∀ (code : Nat) (x : BitVec 32) (dl : Deliver) (bits : Nat),
    let v := fp32.dec x.toNat
    let one := 0x3F800000
    (∀ g, v = .nan g → ∀ f ∈ [sfFrcp, sfFrsq, sfFexp2, sfFlog2, sfFsin, sfFcos, sfFtanh, sfFsigm],
      f code x = (0x7FC00000, if g then 16 else 0)) ∧
    (∀ n e, v = .fin true (n + 1) e → ∀ f ∈ [sfFrsq, sfFlog2], f code x = (0x7FC00000, 16)) ∧
    (x = 0x00000000 → sfFrcp code x = (0x7F800000, 8) ∧ sfFrsq code x = (0x7F800000, 8) ∧
      sfFlog2 code x = (0xFF800000, 8) ∧ sfFsin code x = (0, 0) ∧ sfFcos code x = (one, 0) ∧ sfFtanh code x = (0, 0) ∧
      sfFsigm code x = (0x3F000000, 0)) ∧
    (x = 0x80000000 → sfFrcp code x = (0xFF800000, 8) ∧ sfFrsq code x = (0xFF800000, 8) ∧
      sfFlog2 code x = (0xFF800000, 8) ∧ sfFsin code x = (0x80000000, 0) ∧ sfFcos code x = (one, 0) ∧
      sfFtanh code x = (0x80000000, 0) ∧ sfFsigm code x = (0x3F000000, 0)) ∧
    (x = 0x7F800000 → sfFrcp code x = (0, 0) ∧ sfFrsq code x = (0, 0) ∧ sfFexp2 code x = (0x7F800000, 0) ∧
      sfFlog2 code x = (0x7F800000, 0) ∧ sfFsin code x = (0x7FC00000, 16) ∧ sfFcos code x = (0x7FC00000, 16) ∧
      sfFtanh code x = (one, 0) ∧ sfFsigm code x = (one, 0)) ∧
    (x = 0xFF800000 → sfFrcp code x = (0x80000000, 0) ∧ sfFrsq code x = (0x7FC00000, 16) ∧ sfFexp2 code x = (0, 0) ∧
      sfFlog2 code x = (0x7FC00000, 16) ∧ sfFsin code x = (0x7FC00000, 16) ∧ sfFcos code x = (0x7FC00000, 16) ∧
      sfFtanh code x = (0xBF800000, 0) ∧ sfFsigm code x = (0, 0)) ∧
    (x = 0x00000000 ∨ x = 0x80000000 → sfFexp2 code x = (one, 0)) ∧
    (∀ n e, v = .fin true (n + 1) e → exSqrt fp32 dl v = (0x7FC00000, 16)) ∧
    (∀ f ∈ [bf16, fp32, fp64], ∀ g : Bool,
      exSqrt f dl (f.dec (2 ^ (f.w - 1))) = (2 ^ (f.w - 1), 0) ∧ exRnd f dl (.inf g) = (f.infinity g, 0) ∧
      f.dec (f.infinity g) = .inf g ∧ exSqrt f dl (.inf false) = (f.infinity false, 0) ∧ exSqrt f dl (.inf true) = (f.qnan, 16) ∧
      exSqrt f dl (.nan g) = (f.qnan, if g then 16 else 0) ∧ exRnd f dl (.nan g) = (f.qnan, if g then 16 else 0) ∧
      ∀ h, exSign f dl h (.nan g) = (f.qnan, if g then 16 else 0)) ∧
    (∀ f ∈ [fp16, bf16, fp32, fp64], ∃ k < 10, exClass f bits = 2 ^ k)

/-- R109 to R114: CVT. The mode is HM RND, else FPMODE.RM when DYN, else the field, SR counting as RNE where the destination
does not take it; sources are read whole, then the destination registers are written together; under SR there is one draw per
element, and SRSEED is left at the last draw's state. The codes that read a BX4 block take its band scale without DAZ (log 67), and a quotient
above 6 of a BX4 element records OVF (log 64). With no flag enabled the word is past, whatever its sources hold. -/
def Obligations.Conversions : Prop :=
  ∀ (s : State) (pg : BitVec 3) (d a : BitVec 7) (y : BitVec 1) (c : CvtCode) (f : BitVec 2),
    let i := Instr.cvt pg d a y c f
    let sr := [CvtCode.bf16x2OfF32, .f16x2OfF32, .e4m3x4OfF32, .e5m2x4OfF32, .e4m3x4OfBf16x2, .e5m2x4OfBf16x2, .bx4blkOfF32].contains c
    let asked := if s.me.hints.rnd ≠ 0 then RM.ofCode (s.me.hints.rnd - 1)
      else if y = 1 then RM.ofCode (s.me.fpmode.extractLsb' 0 3).toNat else RM.ofCode f.toNat
    let rm := if asked = .sr ∧ sr = false then .rne else asked
    let draw := fun (k : Nat) => (srNext^[k + 1] s.me.srseed).toNat / 65536
    let draws := match c with
      | .bf16x2OfF32 | .f16x2OfF32 => 2
      | .bx4blkOfF32 => 8
      | _ => 4
    let seed := if rm = .sr then srNext^[draws] s.me.srseed else s.me.srseed
    let g := fun (k : Nat) => s.me.gr (a.toNat + k)
    let x := fun (k : Nat) => source s fp32 (g k).toNat
    let x64 := fp64.dec (s.me.pair a.toNat).toNat
    let ieee := fun (f : Fmt) (sat : Bool) (k : Nat) (v : FV) =>
      let r := f.deliver { rm := rm, sat := sat && s.me.hints.sat, ftz := s.me.fpmode.getLsbD 4 && f.w != 64, draw := draw k } v
      ((r.1, r.2 ||| if v.isSig then 16 else 0) : BF)
    let gives := fun (l : List Word) (fl : Nat) => Delivers s i fl fun th => { th with srseed := seed }.setGs d.toNat l
    let each := fun (n : Nat) (r : Nat → BF) =>
      gives ((List.range n).map fun k => BitVec.ofNat 32 (r k).1) ((List.range n).foldl (fun fl k => fl ||| (r k).2) 0)
    let wide := fun (r : BF) => gives [BitVec.ofNat 32 r.1, BitVec.ofNat 32 (r.1 / 2 ^ 32)] r.2
    let packed := fun (p : Word × Nat) => gives [p.1] p.2
    let narrow := fun (f : Fmt) (n : Nat) (v : Nat → FV) => packed (packedAs f.w n fun k => narrowed f rm (draw k) (v k))
    let unpacked := fun (f : Fmt) (n : Nat) =>
      each n fun k => ((fp32.deliver {} (f.dec ((g 0).toNat / 2 ^ (f.w * k) % 2 ^ f.w))).1, 0)
    let int := fun (lo hi : Int) (v : FV) (two : Bool) => ∃ k fl, ToInteger rm lo hi v k fl ∧
      gives (if two then [BitVec.ofInt 32 k, BitVec.ofInt 32 (k / 2 ^ 32)] else [BitVec.ofInt 32 k]) fl
    let ofInt := fun (f : Fmt) (sat : Bool) (k : Int) =>
      f.deliver { rm := rm, sat := sat && s.me.hints.sat, draw := draw 0 } (.fin (decide (k < 0)) k.natAbs 0)
    let hi := s.me.gr (d.toNat + 1)
    let regs := (List.range (cvtRegs c).1).map (a.toNat + ·) ++ (List.range (cvtRegs c).2).map (d.toNat + ·)
    s.Runs i pg regs [] { sat := true, rnd := true, rnd5 := sr } →
      (s.me.fpmode.extractLsb' 8 5 = 0 → ∃ t, exec i s = .next t ∧ t.me.pc = s.me.past.pc ∧
        ∀ k, k < d.toNat ∨ d.toNat + (cvtRegs c).2 ≤ k → t.me.gr k = s.me.gr k) ∧
      (match c with
      | .f32OfF64 => each 1 fun _ => ieee fp32 true 0 x64
      | .f64OfF32 => wide (ieee fp64 false 0 (x 0))
      | .bf16x2OfF32 => packed (packedAs 16 2 fun k => ieee bf16 true k (x k))
      | .f16x2OfF32 => packed (packedAs 16 2 fun k => ieee fp16 true k (x k))
      | .f32OfBf16x2 => each 2 fun k => ieee fp32 false 0 (source s bf16 (element (g 0) k))
      | .f32OfF16x2 => each 2 fun k => ieee fp32 false 0 (source s fp16 (element (g 0) k))
      | .e4m3x4OfF32 => narrow e4m3 4 x
      | .e5m2x4OfF32 => narrow e5m2 4 x
      | .e2m1x8OfF32 => narrow e2m1 8 x
      | .e4m3x4OfBf16x2 => narrow e4m3 4 fun k => source s bf16 (element (g (k / 2)) (k % 2))
      | .e5m2x4OfBf16x2 => narrow e5m2 4 fun k => source s bf16 (element (g (k / 2)) (k % 2))
      | .f32OfE4m3x4 => unpacked e4m3 4
      | .f32OfE5m2x4 => unpacked e5m2 4
      | .f32OfE2m1x8 => unpacked e2m1 8
      | .bxbandOfF32 =>
        (∀ h n e, x 0 = .fin h n e → ∃ k : Int, -126 ≤ k ∧ k ≤ 127 ∧
          gives [BitVec.ofNat 32 ((k + 127).toNat * 2 ^ 23)] 0 ∧ (n = 0 → k = 0) ∧
          (n ≠ 0 → (mag n e ≤ mag 189 k ∨ k = 127) ∧ (mag 189 (k - 1) < mag n e ∨ k = -126))) ∧
        ((∀ h n e, x 0 ≠ .fin h n e) → gives [BitVec.ofNat 32 (254 * 2 ^ 23)] 16)
      | .bx4blkOfF32 =>
        let b := bf16.dec (hi.toNat / 65536)
        ((∀ n e, b ≠ .fin false (n + 1) e) → gives [0, BitVec.ofNat 32 (hi.toNat / 65536 * 65536)] 16) ∧
        (∀ n e, b = .fin false (n + 1) e → ∃ (sc : Nat) (r : Nat → BF),
          BlockScale ((List.range 8).map x) (mag (n + 1) e) sc ∧
          (∀ k < 8, BlockElement rm (x k) (e3m5Value sc * mag (n + 1) e) (r k).1 (r k).2) ∧
          gives [(packedAs 4 8 r).1, BitVec.ofNat 32 (hi.toNat / 65536 * 65536 + sc)] (packedAs 4 8 r).2)
      | .f32OfBx4blk =>
        let b := bf16.dec ((g 1).toNat / 65536)
        ((∀ h n e, b ≠ .fin h n e) → gives (List.replicate 8 0) 16) ∧
        (∀ h n e, b = .fin h n e → ∃ v : Nat → FV,
          (∀ k < 8, ∀ u m p, e2m1.dec ((g 0).toNat / 16 ^ k % 16) = .fin u m p → ∃ q j, v k = .fin (u != h) q j ∧
            mag q j = mag m p * e3m5Value ((g 1).toNat % 256) * mag n e) ∧
          each 8 fun k => ieee fp32 true 0 (v k))
      | .i32OfF32 => int (-2147483648) 2147483647 (x 0) false
      | .u32OfF32 => int 0 4294967295 (x 0) false
      | .i32OfF64 => int (-2147483648) 2147483647 x64 false
      | .u32OfF64 => int 0 4294967295 x64 false
      | .i64OfF64 => int (-(2 ^ 63)) (2 ^ 63 - 1) x64 true
      | .u64OfF64 => int 0 (2 ^ 64 - 1) x64 true
      | .f32OfI32 => each 1 fun _ => ofInt fp32 true (g 0).toInt
      | .f32OfU32 => each 1 fun _ => ofInt fp32 true (g 0).toNat
      | .f64OfI32 => wide (ofInt fp64 false (g 0).toInt)
      | .f64OfU32 => wide (ofInt fp64 false (g 0).toNat)
      | .f64OfI64 => wide (ofInt fp64 false (s.me.pair a.toNat).toInt)
      | .f64OfU64 => wide (ofInt fp64 false (s.me.pair a.toNat).toNat))

/-- R32, R35, R44, R45: rounding. A finite value is rounded to the neighbour its mode names, NX or the change of a narrow element
says whether that changed it, and only a magnitude above the largest finite one overflows; a value the format holds is
delivered as the bits it came from, with no flag, in every rounding mode, with FTZ off. That a value between the largest finite
one and the next step goes by its draw under SR is log 66's reading. -/
def Obligations.ExactValuesRoundToThemselves : Prop :=
  (∀ (f : Fmt) (bits : Nat) (rm : RM) (sat : Bool) (draw : Nat), f ∈ [fp16, bf16, fp32, fp64] → bits < 2 ^ f.w →
    (∃ g n e, f.dec bits = .fin g n e) →
    f.deliver { rm := rm, sat := sat, ftz := false, draw := draw } (f.dec bits) = (bits, 0)) ∧
  (∀ (f : Fmt) (rm : RM) (g : Bool) (n : Nat) (e : Int) (draw : Nat), f ∈ [fp16, bf16, fp32, fp64, e4m3, e5m2, e2m1] →
    draw < 65536 →
    let r := f.round rm g n e draw
    let top := mag (2 ^ (f.fb + 1) - 1) (f.emax - f.fb)
    (r.ovf = false → RoundsTo f rm g (mag n e) r.code ∧
      (r.inex = false ↔ ∃ m q, f.dec r.code = .fin g m q ∧ mag m q = mag n e)) ∧
    (r.ovf = true → top < mag n e) ∧ (mag n e ≤ top → r.ovf = false) ∧ (top + mag 1 (f.emax - f.fb) ≤ mag n e → r.ovf = true))

/-! ## Threads: exit, joins, teams, barriers -/

/-- R91, R133, R134, R137, R143: JARM arms and JDIS disarms a join slot; JTEST reads whether it is armed; JOIN clears the
thread's key, and an armed thread with a true guard arrives and parks, or goes on in the pond when it is the last of its
block's armed threads to arrive; an unarmed one, or one with a false guard, moves on. -/
def Obligations.JoinSlots : Prop :=
  ∀ (s : State) (pg q : BitVec 3) (j : BitVec 4) (x c slot : Nat), s.cur = .cmp x c slot →
    let p := s.me.par
    let others := fun (f : Thread → Bool) => ∀ e ∈ ((s.ctxAt x).coreAt c).threads,
      e.1 ≠ slot → e.2.live = true → e.2.par.blk = p.blk → e.2.par.armed.getLsbD j.toNat = true → f e.2 = true
    let bit : BitVec 16 := 1#16 <<< j.toNat
    let arrives := p.armed.getLsbD j.toNat = true ∧ s.me.guard pg = true
    (s.Runs (.jarm pg j) pg [] [] {} .user false → exec (.jarm pg j) s = .next (s.did fun th =>
      { th with par := { th.par with armed := th.par.armed ||| bit, arrived := th.par.arrived &&& ~~~bit } })) ∧
    (s.Runs (.jtest pg q j) pg [] [.p q.toNat] {} .user false →
      WritesP s (.jtest pg q j) q (p.armed.getLsbD j.toNat)) ∧
    (s.Runs (.jdis pg j) pg [] [] {} .user false → ∃ t, exec (.jdis pg j) s = .next t ∧
      t.me.par.armed.getLsbD j.toNat = false ∧ t.me.pc = s.me.past.pc ∧ t.me.g = s.me.g ∧ s.SameMem t) ∧
    (s.Reaches (.join pg j) pg [] [] {} .user false → ∃ t, exec (.join pg j) s = .next t ∧ t.me.par.key = none ∧
      t.me.g = s.me.g ∧ s.SameMem t ∧
      (¬arrives → t = s.did fun th => { th with par := { th.par with key := none } }) ∧
      (arrives → (((s.ctxAt x).coreAt c).threads.map Prod.fst).Nodup →
        ((∃ e ∈ ((s.ctxAt x).coreAt c).threads, e.1 ≠ slot ∧ e.2.live = true ∧ e.2.par.blk = p.blk ∧
            e.2.par.armed.getLsbD j.toNat = true ∧ e.2.par.arrived.getLsbD j.toNat = false) →
          t.me.parkedAt (.join j.toNat) = true ∧ t.me.pc = s.me.pc) ∧
        (others (fun th => th.par.arrived.getLsbD j.toNat) → t.me.par.place = .pond s.clock s.clock false ∧
          t.me.pc = s.me.past.pc ∧ t.me.par.armed.getLsbD j.toNat = false)))

/-- R91: EXIT of a thread with nothing outstanding ends it: it runs no further word, memory and the control cores stay as they
are. What its registers then hold is not stated (log 37). -/
def Obligations.ExitEndsTheThread : Prop :=
  ∀ (s : State) (pg : BitVec 3) (x c slot : Nat), s.cur = .cmp x c slot → s.Runs (.exit pg) pg [] [] {} .user false →
    s.unfinished x c slot = false →
    ∃ t, exec (.exit pg) s = .next t ∧ t.me.par.place = .exited ∧ s.SameMem t ∧
      t.me.par.armed = 0 ∧ (∀ n, t.ctlAt n = s.ctlAt n) ∧ (∀ u : State, u.cur = s.cur → u.me.par.place = .exited → u.issue = .next u)

/-- R135: a team instruction is reached under a true or a false guard: with no arrival of its team at another program
counter, the thread parks at it with its operation, guard and FPMODE captured and nothing else changed; else the team
mismatch trap 0x20 is raised with the other program counter. -/
def Obligations.TeamInstructionsArrive : Prop :=
  ∀ (s : State) (pg q h : BitVec 3) (d a b o : BitVec 7) (op : TeamOp) (e m : BitVec 1) (x c slot : Nat),
    s.cur = .cmp x c slot →
    let mates := (((s.ctxAt x).coreAt c).teamLive s.me.par.blk (s.me.par.tidx / 32)).filter fun u => u.2.parkedAt .team
    let arrives := fun (i : Instr) (gs : List Nat) (rs : List PReg) => s.Reaches i pg gs rs {} .user false →
      ((∀ u ∈ mates, u.2.pc = s.me.pc) →
        exec i s = .next (s.modMe fun th => { th with par := { th.par with
          place := .parked .team, held := none, teamN := th.par.teamN + 1,
          team := some { op := i, guard := s.me.guard pg, fpmode := th.fpmode } } })) ∧
      ((∃ u ∈ mates, u.2.pc ≠ s.me.pc) → ∃ u ∈ mates, u.2.pc ≠ s.me.pc ∧ Traps s i 0x20 (u.2.pc.zeroExtend 64))
    arrives (.shflIdx pg d a b) [d.toNat, a.toNat, b.toNat] [] ∧ arrives (.shflUp pg d a o) [d.toNat, a.toNat] [] ∧
    arrives (.shflDn pg d a o) [d.toNat, a.toNat] [] ∧ arrives (.shflXor pg d a o) [d.toNat, a.toNat] [] ∧
    arrives (.voteAll pg q h) [] [.p q.toNat, .p h.toNat] ∧ arrives (.voteAny pg q h) [] [.p q.toNat, .p h.toNat] ∧
    arrives (.ballot pg d h) [d.toNat] [.p h.toNat] ∧ arrives (.matchg pg d a) [d.toNat, a.toNat] [] ∧
    arrives (.lred pg d a op) [d.toNat, a.toNat] [] ∧ arrives (.lscan pg d a e op) [d.toNat, a.toNat] [] ∧
    arrives (.lstep pg d a h op) [d.toNat, a.toNat] [.p h.toNat] ∧ arrives (.lrank pg d a m) [d.toNat, a.toNat] []

/-- R136, R144: TEAM_INSTANCE_EXECUTE of a complete instance with no enabled flag: every live thread of the team moves past
the word, one with a true guard with its result and flags written, and they stand in one bundle, each in its home lane,
threads of different keys too (log 86). -/
def Obligations.TeamInstanceExecutes : Prop :=
  ∀ (s : State) (x c blk team : Nat) (n : Nat),
    let k := (s.ctxAt x).coreAt c
    let live := k.teamLive blk team
    let arr := fun (th : Thread) => th.par.team.getD { op := .illegalInstruction 0, guard := false, fpmode := 0 }
    let sorted := sortBy (fun (a b : Nat × Thread) => decide (a.2.par.tidx < b.2.par.tidx)) live
    let cs := sorted.filter fun e => (arr e.2).guard
    let l := cs.map fun e => (e.2.par.tidx % 32, e.2)
    s.going x = true → live ≠ [] → (∀ e ∈ live, e.2.parkedAt .team = true) →
    (∀ slot first r, cs = (slot, first) :: r →
      (cs.foldl (fun f e => f ||| (teamResult (arr first).op (arr first).fpmode l (e.2.par.tidx % 32) e.2).fl) 0 % 32) &&&
        ((arr first).fpmode.extractLsb' 8 5).toNat = 0) →
    (k.threads.map Prod.fst).Nodup →
    ∃ t b, exec (.teamInstanceExecute x c blk team) s = .next t ∧ s.SameMem t ∧
      (((t.ctxAt x).coreAt c).bundleAt b).lanes = sorted.map (fun e => (e.1, e.2.par.tidx % 32)) ∧
      ∀ e ∈ live,
        let th := t.thr (.cmp x c e.1)
        th.par.place = .bundle b ∧ th.pc = e.2.past.pc ∧ th.par.team = none ∧ th.par.tidx = e.2.par.tidx ∧
        ((arr e.2).guard = false → th.g = e.2.g ∧ th.p = e.2.p) ∧
        (∀ slot first r, cs = (slot, first) :: r → (arr e.2).guard = true →
          th.gr n = ((teamResult (arr first).op (arr first).fpmode l (e.2.par.tidx % 32) e.2).put e.2).gr n ∧
          th.fpflags = ((teamResult (arr first).op (arr first).fpmode l (e.2.par.tidx % 32) e.2).put e.2).fpflags ∧
          th.pr n = ((teamResult (arr first).op (arr first).fpmode l (e.2.par.tidx % 32) e.2).put e.2).pr n)

/-- R144 to R148: what a team instruction gives the thread at a position of its contributing team: SHFL the value at the
selected position, or its own where that does not contribute; VOTE and BALLOT the predicates; MATCH the positions of equal
values; LRED, LSCAN and LSTEP the operation over all positions, the lower ones with or without its own, or those from the
latest head on, and the operation's identity where there is none; LRANK the rank. -/
def Obligations.TeamResults : Prop :=
  ∀ (mode : Word) (l : List (Nat × Thread)) (p : Nat) (th : Thread) (pg q h : BitVec 3) (d a b o : BitVec 7)
      (e m : BitVec 1),
    let from_ := fun (src : Int) => ((l.find? fun u => (u.1 : Int) == src).map fun u => u.2.gr a.toNat).getD (th.gr a.toNat)
    let bits := fun (f : Thread → Bool) => l.foldl (fun w u => if f u.2 then w ||| BitVec.ofNat 32 (2 ^ u.1) else w) (0 : Word)
    let off : Int := if o.toNat < 64 then o.toNat else ((32 / 2 ^ ((o.toNat - 64) / 8) : Nat) : Int) - (o.toNat % 8 : Nat)
    let head := ((l.filter fun u => decide (u.1 ≤ p) && u.2.pr h.toNat).map Prod.fst).foldl max 0
    teamResult (.shflIdx pg d a b) mode l p th = .g d.toNat (from_ (th.gr b.toNat).toNat) 0 ∧
    teamResult (.shflUp pg d a o) mode l p th = .g d.toNat (from_ (p - off)) 0 ∧
    teamResult (.shflDn pg d a o) mode l p th = .g d.toNat (from_ (p + off)) 0 ∧
    teamResult (.shflXor pg d a o) mode l p th =
      .g d.toNat (if off < 0 then th.gr a.toNat else from_ (p ^^^ off.toNat : Nat)) 0 ∧
    teamResult (.voteAll pg q h) mode l p th = .p q.toNat (l.all fun u => u.2.pr h.toNat) ∧
    teamResult (.voteAny pg q h) mode l p th = .p q.toNat (l.any fun u => u.2.pr h.toNat) ∧
    teamResult (.ballot pg d h) mode l p th = .g d.toNat (bits fun u => u.pr h.toNat) 0 ∧
    teamResult (.matchg pg d a) mode l p th = .g d.toNat (bits fun u => u.gr a.toNat == th.gr a.toNat) 0 ∧
    (∀ op,
      Combines op mode d.toNat (l.map fun u => u.2.gr a.toNat) (teamResult (.lred pg d a op) mode l p th) ∧
      Combines op mode d.toNat ((l.filter fun u => if e = 1 then decide (u.1 < p) else decide (u.1 ≤ p)).map fun u => u.2.gr a.toNat)
        (teamResult (.lscan pg d a e op) mode l p th) ∧
      Combines op mode d.toNat ((l.filter fun u => decide (head ≤ u.1) && decide (u.1 ≤ p)).map fun u => u.2.gr a.toNat)
        (teamResult (.lstep pg d a h op) mode l p th)) ∧
    teamResult (.lrank pg d a m) mode l p th = .g d.toNat (.ofNat 32
      ((l.filter fun u => decide (u.1 < p) && u.2.gr a.toNat == th.gr a.toNat).length +
        if m = 1 then (l.filter fun u => (u.2.gr a.toNat).ult (th.gr a.toNat)).length else 0)) 0

/-- R137, R138, R149, R150: KEYGRP sets the thread's key and moves past its word, where R122's table has the bundle dissolve at the
instruction (log 16); YIELD puts a compute thread in the pond past its word, and does
nothing on a control core; SLEEP of n (at most 2^20) clocks parks a thread until its count ends, a count that stands still from the assertion of its
partition's halt line on (R311); SPAWN answers status 1 to
4 with nothing done, or 0 with a new block of the parent's launch: NTHR the count, BIDX the parent's with bit 31 set, no
scratchpad and no group; its threads start at the target in the next clock, g0 to g7 holding the values passed, every other
register zero and GANG 0. -/
def Obligations.KeysAndSpawn : Prop :=
  ∀ (s : State) (pg : BitVec 3) (d a b : BitVec 7),
    let n := min (s.me.gr a.toNat).toNat (2 ^ 20)
    let pond := fun (th : Thread) => { th.past with par := { th.par with place := .pond s.clock s.clock false, held := none } }
    (s.Runs (.keygrp pg a) pg [a.toNat] [] {} .user false → exec (.keygrp pg a) s =
      .next (s.did fun th => { th with par := { th.par with key := some (s.me.gr a.toNat) } })) ∧
    (s.Runs (.yield pg) pg [] → (isCtl s.cur = true → exec (.yield pg) s = .next (s.modMe Thread.past)) ∧
      (isCtl s.cur = false → exec (.yield pg) s = .next (s.modMe pond))) ∧
    (s.Runs (.sleep pg a) pg [a.toNat] →
      (isCtl s.cur = false → n = 0 → exec (.sleep pg a) s = .next (s.modMe pond)) ∧
      (∀ x c slot, s.cur = .cmp x c slot → n ≠ 0 → exec (.sleep pg a) s = .next (s.modMe fun th =>
        { th.past with par := { th.par with place := .parked (.sleep (s.bankNow x + n)), held := none } }) ∧
        s.bankNow x = (((s.ctxAt x).halt.map Halt.start).getD s.clock)) ∧
      (∀ m, s.cur = .ctl m → ∃ t, exec (.sleep pg a) s = .next t ∧ t.me = s.me.past ∧
        (n ≠ 0 → (t.ctlAt m).sleep = some (s.clock + n)) ∧ (n = 0 → (t.ctlAt m).sleep = (s.ctlAt m).sleep))) ∧
    (∀ x c slot, s.cur = .cmp x c slot →
      s.Runs (.spawn pg d a b) pg ([d.toNat, b.toNat, b.toNat + 1] ++ (List.range 8).map (a.toNat + ·)) [] {} .user false →
      let cnt := (s.me.gr d.toNat).toNat % 2048
      let target := s.me.pair b.toNat
      let good := target = (target.setWidth 57).signExtend 64 ∧ target.extractLsb' 0 2 = 0#2
      ((cnt = 0 ∨ 32 < cnt) → WritesG s (.spawn pg d a b) d 1) ∧
      (0 < cnt → cnt ≤ 32 → ¬good → WritesG s (.spawn pg d a b) d 2) ∧
      (0 < cnt → cnt ≤ 32 → good → 64 ≤ ((s.ctxAt x).coreAt c).blocks.length → WritesG s (.spawn pg d a b) d 3) ∧
      (0 < cnt → cnt ≤ 32 → good → ((s.ctxAt x).coreAt c).blocks.length < 64 →
        1024 < ((s.ctxAt x).coreAt c).threads.length + cnt ∨
          ((s.ctxAt x).coreAt c).regsFit cnt (((s.ctxAt x).coreAt c).blkAt s.me.par.blk).regs = false →
        WritesG s (.spawn pg d a b) d 4) ∧
      (0 < cnt → cnt ≤ 32 → good → ((s.ctxAt x).coreAt c).blocks.length < 64 →
        ((s.ctxAt x).coreAt c).threads.length + cnt ≤ 1024 →
        ((s.ctxAt x).coreAt c).regsFit cnt (((s.ctxAt x).coreAt c).blkAt s.me.par.blk).regs = true →
        slot ∈ ((s.ctxAt x).coreAt c).threads.map Prod.fst →
        ∃ t bs, exec (.spawn pg d a b) s = .next t ∧ t.me.gr d.toNat = 0 ∧ t.me.pc = s.me.past.pc ∧ s.SameMem t ∧
          bs ∉ ((s.ctxAt x).coreAt c).blocks.map Prod.fst ∧
          (let nb := ((t.ctxAt x).coreAt c).blkAt bs
           let up := ((s.ctxAt x).coreAt c).blkAt s.me.par.blk
           nb.nthr = cnt ∧ nb.bidx = up.bidx ||| 0x80000000 ∧ nb.spawned = true ∧ nb.launch = up.launch ∧ nb.regs = up.regs ∧
           nb.gx = up.gx ∧ nb.gy = up.gy ∧ nb.gz = up.gz ∧ nb.spq = 0 ∧ nb.groups = []) ∧
          (∀ i < cnt, ∃ u, u ∉ ((s.ctxAt x).coreAt c).threads.map Prod.fst ∧
            let th := t.thr (.cmp x c u)
            th.par.blk = bs ∧ th.par.tidx = i ∧ th.pc = target.setWidth 57 ∧ th.gang = 0 ∧
            th.par.place = .pond (s.clock + 1) (s.clock + 1) false ∧ (∀ n < 8, th.gr n = s.me.gr (a.toNat + n)) ∧
            (∀ n, 8 ≤ n → th.gr n = 0) ∧ (∀ n, th.ar n = 0 ∧ th.mr n = 0 ∧ th.kr n = 0) ∧ ∀ n < 7, th.pr n = false) ∧
          ((t.ctxAt x).launchAt (((s.ctxAt x).coreAt c).blkAt s.me.par.blk).launch).live =
            ((s.ctxAt x).launchAt (((s.ctxAt x).coreAt c).blkAt s.me.par.blk).launch).live + 1))

/-- R151 to R153: BAR arrives and parks, ARRIVE arrives and moves on, AWAIT parks while the phase it last arrived in has
not ended; a second arrival in a phase raises trap 0x21. The arrival of the block's last live thread completes the phase: every
arrived bit clears, the phase bit inverts, and the threads that wait at the barrier enter the pond at their next word. That a parked thread's
program counter stays at its word till then is log 28's reading. -/
def Obligations.Barriers : Prop :=
  ∀ (s : State) (pg : BitVec 3) (i : BitVec 4) (p : PScope) (x c slot : Nat), s.cur = .cmp x c slot →
    let me := s.me.par
    let ph := (s.blkOf s.cur).phase.getLsbD i.toNat
    let more := ∃ e ∈ ((s.ctxAt x).coreAt c).threads,
      e.1 ≠ slot ∧ e.2.live = true ∧ e.2.par.blk = me.blk ∧ e.2.par.barArr.getLsbD i.toNat = false
    let last := (((s.ctxAt x).coreAt c).threads.map Prod.fst).Nodup ∧ s.me.live = true ∧ (∀ w, me.place ≠ .parked w) ∧
      ∀ e ∈ ((s.ctxAt x).coreAt c).threads, e.1 ≠ slot → e.2.live = true → e.2.par.blk = me.blk →
        e.2.par.barArr.getLsbD i.toNat = true
    let completes := fun (t : State) => (t.blkOf s.cur).phase.getLsbD i.toNat = !ph ∧
      t.me.par.barArr.getLsbD i.toNat = false ∧ t.me.pc = s.me.past.pc ∧ s.SameMem t ∧
      ∀ e ∈ ((s.ctxAt x).coreAt c).threads, e.1 ≠ slot → e.2.live = true → e.2.par.blk = me.blk →
        let th := t.thr (.cmp x c e.1)
        th.par.barArr.getLsbD i.toNat = false ∧ th.g = e.2.g ∧
        (e.2.parkedAt (.bar i.toNat) = true ∨ e.2.parkedAt (.await i.toNat) = true →
          th.par.place = .pond s.clock s.clock false ∧ th.pc = e.2.past.pc) ∧
        (e.2.parkedAt (.bar i.toNat) = false → e.2.parkedAt (.await i.toNat) = false →
          th.par.place = e.2.par.place ∧ th.pc = e.2.pc)
    let reads := fun (w : Instr) => s.Runs w pg [] [] {} .user false
    let arrived := fun (th : Thread) => th.par.barArr.getLsbD i.toNat = true ∧ th.par.barPh.getLsbD i.toNat = ph ∧
      th.par.barEver.getLsbD i.toNat = true ∧ th.g = s.me.g
    (∀ w ∈ [Instr.bar pg i p, Instr.arrive pg i p], reads w → me.barArr.getLsbD i.toNat = true →
      Traps s w 0x21 (i.zeroExtend 64)) ∧
    (reads (.bar pg i p) → me.barArr.getLsbD i.toNat = false → p = .none ∨ s.released s.cur (pubNum p) = true → more →
      ∃ t, exec (.bar pg i p) s = .next t ∧ t.me.parkedAt (.bar i.toNat) = true ∧ t.me.pc = s.me.pc ∧ arrived t.me ∧
        s.SameMem t) ∧
    (reads (.arrive pg i p) → me.barArr.getLsbD i.toNat = false → p = .none ∨ s.released s.cur (pubNum p) = true → more →
      ∃ t, exec (.arrive pg i p) s = .next t ∧ t.me.pc = s.me.past.pc ∧ arrived t.me ∧ s.SameMem t) ∧
    (reads (.bar pg i p) → me.barArr.getLsbD i.toNat = false → p = .none ∨ s.released s.cur (pubNum p) = true → last →
      ∃ t, exec (.bar pg i p) s = .next t ∧ completes t ∧ t.me.par.place = .pond s.clock s.clock false) ∧
    (reads (.arrive pg i p) → me.barArr.getLsbD i.toNat = false → p = .none ∨ s.released s.cur (pubNum p) = true → last →
      ∃ t, exec (.arrive pg i p) s = .next t ∧ completes t ∧ t.me.par.place = me.place) ∧
    (reads (.await pg i) → (me.barEver.getLsbD i.toNat = false ∨ me.barPh.getLsbD i.toNat ≠ ph) →
      exec (.await pg i) s = .next (s.modMe Thread.past)) ∧
    (reads (.await pg i) → me.barEver.getLsbD i.toNat = true → me.barPh.getLsbD i.toNat = ph →
      exec (.await pg i) s = .next (s.modMe fun th => { th with par := { th.par with
        place := .parked (.await i.toNat), held := none } }))

/-! ## Tickets, teams, group barriers, counters, device-side work, messages -/

/-- R154 to R159: BARG arrives at its group entry and parks, or raises trap 0x21; the last arrival of the members' live threads
completes the instance, and the threads that wait in it enter the pond at their next word; SYNCT arrives with its mask and parks,
or goes on with every thread of its instance; TICKET draws the counter's value; EVSET, EVSIG, EVWAIT and EVREAD act on the
counters of the thread's context. That a parked thread's program counter stays at its word is log 28's reading, and that each launch
keeps the group table it loaded is log 35's; that a word of R142 without a context is illegal before its guard is read is log 86's. -/
def Obligations.TicketsAndCounters : Prop :=
  ∀ (s : State) (pg : BitVec 3) (p : PScope) (d a k : BitVec 7) (tk : BitVec 4) (n : BitVec 6) (r : BitVec 1),
    (∀ x c slot, s.cur = .cmp x c slot →
      let e := (s.me.gr a.toNat).toNat % 256
      let blk := s.blkOf s.cur
      let la := (s.ctxAt x).launchAt blk.launch
      let wrong := grpKind (tget 0 la.grp e) = 0 ∨ e ∉ blk.groups ∨ s.me.par.barg ≠ none
      let team := s.me.par.tidx / 32
      let mask := s.me.gr a.toNat
      let inst := (tfind blk.synct team).getD { mask := mask }
      let foul := inst.mask ≠ mask ∨ mask.getLsbD (s.me.par.tidx % 32) = false
      let named := fun (f : Thread → Prop) => ∀ u ∈ ((s.ctxAt x).coreAt c).threads, u.1 ≠ slot → u.2.live = true →
        u.2.par.blk = s.me.par.blk → u.2.par.tidx / 32 = team → mask.getLsbD (u.2.par.tidx % 32) = true → f u.2
      (s.Runs (.barg pg p a) pg [a.toNat] [] {} .user false →
        (wrong → Traps s (.barg pg p a) 0x21 (BitVec.ofNat 64 (256 + e))) ∧
        (¬wrong → p = .none ∨ s.released s.cur (pubNum p) = true → la.next ≤ grpLast (tget 0 la.grp e) (tget [] la.lists e) →
          ∃ t, exec (.barg pg p a) s = .next t ∧ t.me.parkedAt (.barg e) = true ∧ t.me.par.barg = some e ∧
            t.me.pc = s.me.pc ∧ t.me.g = s.me.g ∧ s.SameMem t) ∧
        (let ms := ((s.ctxAt x).members e).filter fun m => (((s.ctxAt x).coreAt m.1).blkAt m.2).launch == blk.launch
         ¬wrong → p = .none ∨ s.released s.cur (pubNum p) = true → grpLast (tget 0 la.grp e) (tget [] la.lists e) < la.next →
         (∀ n, (((s.ctxAt x).coreAt n).threads.map Prod.fst).Nodup) →
         (∀ m ∈ ms, ∀ u ∈ ((s.ctxAt x).coreAt m.1).liveOf m.2, (m.1, u.1) ≠ (c, slot) → u.2.par.barg = some e) →
          ∃ t, exec (.barg pg p a) s = .next t ∧ t.me.par.place = .pond s.clock s.clock false ∧ t.me.par.barg = none ∧
            t.me.pc = s.me.past.pc ∧ t.me.g = s.me.g ∧ s.SameMem t ∧
            ∀ m ∈ ms, ∀ u ∈ ((s.ctxAt x).coreAt m.1).threads, (m.1, u.1) ≠ (c, slot) → u.2.par.blk = m.2 → u.2.par.barg = some e →
              let th := t.thr (.cmp x m.1 u.1)
              th.par.barg = none ∧ th.g = u.2.g ∧
              (u.2.parkedAt (.barg e) = true → th.par.place = .pond s.clock s.clock false ∧ th.pc = u.2.past.pc))) ∧
      (s.Runs (.synct pg a) pg [a.toNat] [] {} .user false →
        (foul → exec (.synct pg a) s = .next ((s.modBlk x c s.me.par.blk fun b =>
          { b with synct := tput team { inst with broken := true } b.synct }).trap s.cur 0x21 (BitVec.ofNat 64 (512 + team)))) ∧
        (¬foul → s.released s.cur 1 = true → ¬named (fun th => th.parkedAt .synct = true) →
          ∃ t, exec (.synct pg a) s = .next t ∧ t.me.parkedAt .synct = true ∧ t.me.pc = s.me.pc ∧ s.SameMem t ∧
            (tfind (t.blkOf s.cur).synct team).map Synct.mask = some mask) ∧
        (¬foul → s.released s.cur 1 = true → named (fun th => th.parkedAt .synct = true) → inst.broken = false →
          (((s.ctxAt x).coreAt c).threads.map Prod.fst).Nodup →
          ∃ t, exec (.synct pg a) s = .next t ∧ t.me.par.place = .pond s.clock s.clock false ∧ t.me.pc = s.me.past.pc ∧
            s.SameMem t)) ∧
      (s.Runs (.ticket pg d tk) pg [d.toNat] [] {} .user false → s.matesFirst = true →
        exec (.ticket pg d tk) s = .next ((s.modBlk x c s.me.par.blk fun b =>
          { b with tickets := tput tk.toNat (tget 0 blk.tickets tk.toNat + 1) b.tickets }).did fun th =>
            th.setG d.toNat (tget 0 blk.tickets tk.toNat)))) ∧
    (∀ x, s.workBank = some x → BankHolds s x →
      let v := if r = 1 then s.me.gr d.toNat else k.zeroExtend 32
      let now := (s.ctxAt x).evAt n.toNat
      let left := if now.toNat ≤ v.toNat then 0 else now - v
      let lt := (s.coreAt (s.phys s.cur)).lt
      let was := match s.cur with
        | .ctl _ => tfind (s.ctxAt x).evT n.toNat
        | .cmp _ c _ => laterOpt (tfind (s.ctxAt x).evT n.toNat) (tfind (s.ctxAt x).evE (n.toNat, c, s.me.par.blk))
      let signal := fun (c : Ctx) =>
        { c with evT := tput n.toNat (((tfind (s.ctxAt x).evT n.toNat).map (later · lt)).getD lt) c.evT, ev := tput n.toNat left c.ev }
      let bind := fun (e : Nat × Launch) => if e.2.r.evb = some n.toNat then (e.1, { e.2 with bound := true }) else e
      let tell := fun (e : Nat × HwQueue) => match e.2.recs with
        | h :: l => (e.1, { e.2 with recs := { h with fired := h.fired ||| BitVec.ofNat 64 (2 ^ n.toNat) } :: l })
        | [] => e
      (s.Runs (.evset pg d n r k) pg (if r = 1 then [d.toNat] else []) →
        exec (.evset pg d n r k) s = .next ((s.modCtx x fun c =>
          { c with ev := tput n.toNat v c.ev, evT := tdel n.toNat c.evT, evE := c.evE.filter fun e => e.1.1 != n.toNat }).modMe Thread.past)) ∧
      (s.Runs (.evsig pg d n r k) pg (if r = 1 then [d.toNat] else []) → s.released s.cur 3 = true →
        (now = 0 ∨ left ≠ 0 → exec (.evsig pg d n r k) s = .next ((s.modCtx x signal).modMe Thread.past)) ∧
        (now ≠ 0 → left = 0 → (∀ b ∈ (s.ctxAt x).bins, binEvent b.2.entry ≠ some n.toNat) →
          exec (.evsig pg d n r k) s = .next ((s.modCtx x fun c =>
            { signal c with launches := c.launches.map bind, queues := c.queues.map tell }).modMe Thread.past))) ∧
      (s.Runs (.evwait pg n) pg [] →
        (now ≠ 0 → isCtl s.cur = true → exec (.evwait pg n) s =
          .next (s.modMe fun th => { th with par := { th.par with held := some (.evwait n.toNat) } })) ∧
        (now ≠ 0 → isCtl s.cur = false → exec (.evwait pg n) s = .next (s.modMe fun th =>
          { th with par := { th.par with place := .parked (.evwait n.toNat), held := none } })) ∧
        (now = 0 → was = none → (∀ w, s.me.par.place ≠ .parked w) → exec (.evwait pg n) s = .next (s.modMe Thread.past)) ∧
        (now = 0 → was = none → s.me.parkedAt (.evwait n.toNat) = true → exec (.evwait pg n) s = .next (s.modMe fun th =>
          { th.past with par := { th.past.par with place := .pond s.clock s.clock false, held := none } })) ∧
        (∀ u, now = 0 → was = some u → s.jumpOk (s.phys s.cur) u = true → (∀ w, s.me.par.place ≠ .parked w) →
          exec (.evwait pg n) s = .next ((s.raiseLt (s.phys s.cur) u).modMe Thread.past))) ∧
      (s.Runs (.evread pg d n) pg [d.toNat] → WritesG s (.evread pg d n) d now)) ∧
    (s.workBank = none → ∀ w ∈ [Instr.evset pg d n r k, .evsig pg d n r k, .evwait pg n, .evread pg d n, .nrec pg d a k,
      .nflush pg d a, .launch pg d a], Illegal s w)

/-- R160, R175: NREC answers 2 for a bin that is not configured and 1 for a full one, and else appends the record's words
and answers 0; NFLUSH answers 2 for a bin that is not configured, 0 for an empty one, and else whether its template's queue
took the launch, a rejected one counting as taken (log 32); LAUNCH answers 2 for an address that is not canonical or not 64-byte aligned, and else, on a control core
whose access is a plain memory access, 0 with the record in its queue or 1 where the queue is full or not configured. -/
def Obligations.DeviceSideWork : Prop :=
  ∀ (s : State) (pg : BitVec 3) (d a b : BitVec 7) (x : Nat), s.workBank = some x → BankHolds s x →
    let n := (s.me.gr b.toNat).toNat % 64
    let u := (s.ctxAt x).binAt n
    let rec' := (List.range (binWords u.entry)).map fun i => s.me.gr (a.toNat + i)
    let lt := (s.coreAt (s.phys s.cur)).lt
    let addr := s.me.pair a.toNat
    let timer := if u.recs = [] then some (s.bankNow x) else u.timer
    (s.Runs (.nrec pg d a b) pg ([d.toNat, b.toNat] ++ (List.range 8).map (a.toNat + ·)) →
      (binOk u.entry = false → WritesG s (.nrec pg d a b) d 2) ∧
      (binOk u.entry = true → 2 * binCount u.entry ≤ u.recs.length → WritesG s (.nrec pg d a b) d 1) ∧
      (binOk u.entry = true → u.recs.length < 2 * binCount u.entry → s.released s.cur 3 = true →
        (∃ t, exec (.nrec pg d a b) s = .next t ∧ t.me.gr d.toNat = 0) ∧
        (u.retry = false → u.recs.length + 1 < binCount u.entry → exec (.nrec pg d a b) s =
          .next ((s.modBin x n fun u => { u with recs := u.recs ++ [rec'], time := laterOpt u.time (some lt), timer := timer }).did
            fun th => th.setG d.toNat 0)))) ∧
    (s.Runs (.nflush pg d b) pg [d.toNat, b.toNat] →
      (binOk u.entry = false → WritesG s (.nflush pg d b) d 2) ∧
      (binOk u.entry = true → u.recs = [] → WritesG s (.nflush pg d b) d 0) ∧
      (binOk u.entry = true → u.recs ≠ [] → exec (.nflush pg d b) s = .next ((s.flushBin x n).1.did fun th =>
        th.setG d.toNat (if (s.flushBin x n).2 = true then 0 else 1)))) ∧
    (s.Runs (.launch pg d a) pg [d.toNat, a.toNat, a.toNat + 1] →
      let good := addr = (addr.setWidth 57).signExtend 64 ∧ addr.extractLsb' 0 6 = 0#6
      (¬good → WritesG s (.launch pg d a) d 2) ∧
      (good → s.released s.cur 3 = true → ∀ m s1 pa cc ac s2 bytes, s.cur = .ctl m →
        s.xThread s.cur { die := 0, root := {}, user := true, rd := true } (addr + 16) = (.ok s1 pa cc ac, none) →
        s1.ctlRead m (addr + 16) pa cc none ac 0 8 = (s2, some bytes) →
        let q := (s2.ctxAt x).queueAt (leVal bytes / 2 ^ 20 % 64)
        ∃ t, exec (.launch pg d a) s = .next t ∧
          (q.cfg = true ∧ q.recs.length < 256 → t.me.gr d.toNat = 0 ∧
            ((t.ctxAt x).queueAt (leVal bytes / 2 ^ 20 % 64)).recs.map QRec.addr = q.recs.map QRec.addr ++ [addr]) ∧
          (q.cfg = false ∨ 256 ≤ q.recs.length → t = s2.did fun th => th.setG d.toNat 1)))

/-- R161 to R163: SEND puts its 16 bytes on their way and marks gd as pending; RING_APPEND writes them to their slot and
then TAIL, or finds the status 1 (full) or 2 (malformed endpoint); SEND_ACKNOWLEDGEMENT writes the status to gd. RPOLL reads
TAIL - HEAD, RWAIT parks while it is 0, its program counter at its word (log 28), RADV advances HEAD by at most that; a ring that
the launch does not configure raises trap 0x26. -/
def Obligations.Messages : Prop :=
  ∀ (s : State) (pg : BitVec 3) (d a b : BitVec 7) (x c slot : Nat), s.cur = .cmp x c slot → s.Inv →
    let blk := s.blkOf s.cur
    let bs := s.me.par.blk
    let dst := s.me.pair b.toNat
    let n := (s.me.gr a.toNat).toNat % 4
    (s.Runs (.send pg d a b) pg ([d.toNat, b.toNat, b.toNat + 1] ++ (List.range 4).map (a.toNat + ·)) [] {} .user false →
      s.released s.cur (s.sendScope x c bs blk.launch dst) = true →
      ∃ t m, exec (.send pg d a b) s = .next t ∧ tfind (t.ctxAt x).msgs (s.ctxAt x).nextId = some m ∧
        m.words = (List.range 4).map (fun i => s.me.gr (a.toNat + i)) ∧ m.dst = dst ∧ m.gd = d.toNat ∧ m.status = none ∧
        .g d.toNat ∈ t.me.pend ∧ t.me.pc = s.me.past.pc ∧ t.me.g = s.me.g ∧ s.SameMem t) ∧
    (∀ w gs, (w, gs) ∈ [(Instr.rpoll pg d a, [d.toNat, a.toNat]), (.rwait pg d a, [d.toNat, a.toNat]),
        (.radv pg d a b, [d.toNat, a.toNat, b.toNat])] → s.Runs w pg gs [] {} .user false → tfind blk.rings n = none →
      Traps s w 0x26 (BitVec.ofNat 64 n)) ∧
    (∀ g : Ring, tfind blk.rings n = some g → s.spHere x c bs g.h 16 = true →
      let fill := s.ringFill x c bs g.h
      let seen := g.time = none ∨ ∀ u, g.time = some u → s.jumpOk (s.phys s.cur) u = true
      let took := if (s.me.gr b.toNat).toNat ≤ fill.toNat then s.me.gr b.toNat else fill
      let head := BitVec.ofNat 32 (leVal (s.spRead x c bs (g.h + 4) 4))
      (s.Runs (.rpoll pg d a) pg [d.toNat, a.toNat] [] {} .user false → seen →
        ∃ t, exec (.rpoll pg d a) s = .next t ∧ t.me = (s.me.setG d.toNat fill).past ∧ s.SameMem t) ∧
      (s.Runs (.rwait pg d a) pg [d.toNat, a.toNat] [] {} .user false →
        (fill = 0 → ∃ t, exec (.rwait pg d a) s = .next t ∧ t.me.parkedAt .rwait = true ∧ t.me.pc = s.me.pc ∧
          t.me.g = s.me.g ∧ s.SameMem t) ∧
        (fill ≠ 0 → seen → (∀ w, s.me.par.place ≠ .parked w) →
          ∃ t, exec (.rwait pg d a) s = .next t ∧ t.me = (s.me.setG d.toNat fill).past ∧ s.SameMem t)) ∧
      (s.Runs (.radv pg d a b) pg [d.toNat, a.toNat, b.toNat] [] {} .user false →
        ∃ t, exec (.radv pg d a b) s = .next t ∧ t.me = (s.me.setG d.toNat took).past ∧ s.SameMem t ∧
          BitVec.ofNat 32 (leVal (t.spRead x c bs (g.h + 4) 4)) = head + took)) ∧
    (∀ id m, (s.ctxs.map Prod.fst).Nodup → (s.ctxAt x).halt = none → tfind (s.ctxAt x).msgs id = some m →
      (∀ e ∈ s.ctxs, e.1 ≠ x → tfind e.2.msgs id = none) →
      (m.status = none → m.dst.extractLsb' 34 22 ≠ 0#22 →
        (∀ e ∈ (s.ctxAt x).msgs, e.1 < id → e.2.status ≠ none) →
        exec (.ringAppend id) s = .next (s.modCtx x fun k => { k with msgs := tput id { m with status := some 2 } k.msgs })) ∧
      (∀ c' bs' g, m.status = none → m.dst.extractLsb' 34 22 = 0#22 → dstPkg m.dst = Config.pkg →
        (∀ e ∈ (s.ctxAt x).msgs, e.1 < id → e.2.status ≠ none) → (s.ctxAt x).blockOf m.launch (dstBidx m.dst) = some (c', bs') →
        tfind (((s.ctxAt x).coreAt c').blkAt bs').rings (dstRing m.dst) = some g → ((s.ctxAt x).coreAt c').liveOf bs' ≠ [] →
        let slot := g.h + 16 + 16 * (g.tail.toNat % 2 ^ g.l)
        let head := BitVec.ofNat 32 (leVal (s.spRead x c' bs' (g.h + 4) 4))
        s.spHere x c' bs' g.h 16 = true →
        (2 ^ g.l ≤ (g.tail - head).toNat → ∃ t, exec (.ringAppend id) s = .next t ∧
          (tfind (t.ctxAt x).msgs id).map RMsg.status = some (some 1) ∧ s.SameMem t ∧ t.cores = s.cores ∧
          (((t.ctxAt x).coreAt c').blkAt bs').rings = (((s.ctxAt x).coreAt c').blkAt bs').rings) ∧
        ((g.tail - head).toNat < 2 ^ g.l → s.spHere x c' bs' slot 16 = true → ∃ t, exec (.ringAppend id) s = .next t ∧
          (tfind (t.ctxAt x).msgs id).map RMsg.status = some (some 0) ∧ s.SameMem t ∧
          leVal (t.spRead x c' bs' g.h 4) = (g.tail + 1).toNat ∧
          (m.words.length = 4 → (∀ u v, u ≠ v → (((s.ctxAt x).coreAt c').page bs' u).res = true →
              (((s.ctxAt x).coreAt c').page bs' v).res = true →
              (((s.ctxAt x).coreAt c').page bs' u).frame ≠ (((s.ctxAt x).coreAt c').page bs' v).frame) →
            t.spRead x c' bs' slot 16 = wordsBytes m.words))) ∧
      (∀ v, m.status = some v → m.src ≠ none → exec (.sendAcknowledgement id) s =
        .next (s.modCtx x fun k => { k with msgs := tdel id k.msgs })) ∧
      (∀ v, m.status = some v → m.src = none → exec (.sendAcknowledgement id) s =
        .next ((s.modCtx x fun k => { k with msgs := tdel id k.msgs }).modThr (.cmp x m.core m.slot) fun th =>
          (th.setG m.gd (BitVec.ofNat 32 v)).unhang [.g m.gd])))

/-! ## Global and scratchpad accesses -/

/-- R236 to R244, R206, R207: LD, ST and ATOM raise the trap of the first check that fails; on a compute thread they are
then accesses in flight; on a control core, a plain access is performed at once: LD writes the bytes at the effective
address to its registers, ST and ATOM change the bytes stored to and no other byte of memory, ATOM's registers take the
old value. A 16-byte LD or ST of a control core is two words: the first act reads or writes the lower one and waits, the second
the upper one (R219, R238). FADD32 and BADD2 write sums rounded by RNE. A LAUNCH of a compute thread is a load of the record's queue word. -/
def Obligations.GlobalAccesses : Prop :=
  ∀ (s : State) (pg r : BitVec 3) (d b : BitVec 7) (m : Am) (sz : Sz) (o : BitVec 8) (op : AtomOp) (sc : AScope),
    let ld := Instr.ld pg d r m sz o
    let st := Instr.st pg d r m sz o
    let at_ := Instr.atom pg d r op b sc
    let size := szBytes sz
    let ea := effAddr s.me r m o size
    let up := fun (th : Thread) => postUpdate th r m o size
    let hu : HintUse := { hx := m != .indexed, cache := true }
    let regs := szRegs sz d.toNat ++ mIndex m o
    let aregs := atomDst op d.toNat ++ atomSrc op b.toNat
    let data := storeBytes s.me sz d.toNat
    let ax := s.me.ar r.toNat
    let ops := (atomSrc op b.toNat).map s.me.gr
    let canon := fun (a : Dword) => a = (a.setWidth 57).signExtend 64
    let first := fun (i : Instr) =>
      (m = .modulo → winOk (s.me.mr r.toNat) size = false → Traps s i 0x0B (s.me.mr r.toNat)) ∧
      ((m = .modulo → winOk (s.me.mr r.toNat) size = true) →
        (¬canon ea → Traps s i 0x04 ea) ∧ (canon ea → ea.toNat % size ≠ 0 → Traps s i 0x03 ea))
    let okay := (m = .modulo → winOk (s.me.mr r.toNat) size = true) ∧ canon ea ∧ ea.toNat % size = 0
    let aokay := canon ax ∧ ax.toNat % atomSize op = 0
    (s.Runs ld pg regs (mRegs r m) hu → first ld ∧
      (∀ x c slot, okay → s.cur = .cmp x c slot → s.acqPending s.cur = false → IssuesAccess s x ld ea size [] up) ∧
      (∀ n, okay → s.cur = .ctl n → PlainAt s n ea → TimeFor s n ea false →
        (size ≠ 16 → ∃ t, exec ld s = .next t ∧ s.SameMem t ∧
          t.me = ((up s.me).setGs d.toNat (loadWords sz (memRead s.mem ea.toNat size))).past) ∧
        (size = 16 → (s.ctlAt n).half = none → ∃ t, exec ld s = .next t ∧ s.SameMem t ∧ t.me.pc = s.me.pc ∧ t.me.g = s.me.g ∧
          (t.ctlAt n).part = some (memRead s.mem ea.toNat 8)) ∧
        (∀ b, size = 16 → (s.ctlAt n).half = some b → ∃ t, exec ld s = .next t ∧ s.SameMem t ∧
          t.me = ((up s.me).setGs d.toNat (loadWords sz (b ++ memRead s.mem (ea.toNat + 8) 8))).past))) ∧
    (s.Runs st pg regs (mRegs r m) hu → first st ∧
      (∀ x c slot, okay → s.cur = .cmp x c slot → s.acqPending s.cur = false → s.roomToWrite = true →
        IssuesAccess s x st ea size data up) ∧
      (∀ n, okay → s.cur = .ctl n → PlainAt s n ea → TimeFor s n ea true → s.Inv →
        data.length = size ∧
        (size ≠ 16 → ∃ t, exec st s = .next t ∧ t.me = (up s.me).past ∧ Stores s t ea.toNat data) ∧
        (size = 16 → (s.ctlAt n).half = none → ∃ t, exec st s = .next t ∧ t.me.pc = s.me.pc ∧ t.me.g = s.me.g ∧
          (t.ctlAt n).part = some [] ∧ Stores s t ea.toNat (data.take 8)) ∧
        (size = 16 → (s.ctlAt n).half ≠ none → ∃ t, exec st s = .next t ∧ t.me = (up s.me).past ∧
          Stores s t (ea.toNat + 8) (data.drop 8)))) ∧
    (s.Runs at_ pg aregs [.a r.toNat] { cache := true } →
      (¬canon ax → Traps s at_ 0x04 ax) ∧ (canon ax → ax.toNat % atomSize op ≠ 0 → Traps s at_ 0x03 ax) ∧
      (∀ x c slot, aokay → s.cur = .cmp x c slot → s.acqPending s.cur = false → s.roomToWrite = true →
        IssuesAccess s x at_ ax (atomSize op) (wordsBytes ops) id) ∧
      (∀ n, aokay → s.cur = .ctl n → PlainAt s n ax → TimeFor s n ax true → s.Inv →
        let old := leVal (memRead s.mem ax.toNat (atomSize op))
        ∃ t, exec at_ s = .next t ∧ t.me = (s.me.setGs d.toNat (oldWords op old)).past ∧
          Stores s t ax.toNat (leBytes (atomNew op old ops) (atomSize op)) ∧
          (op = .fadd32 → ∃ v, Sum false (fp32.dec old) (fp32.dec (s.me.gr b.toNat).toNat) v ∧
            atomNew op old ops = (fp32.deliver { rm := .rne, sat := false, ftz := false } v.1).1) ∧
          (op = .badd2 → ∃ u v, Sum false (bf16.dec (old % 65536)) (bf16.dec (element (s.me.gr b.toNat) 0)) u ∧
            Sum false (bf16.dec (old / 65536)) (bf16.dec (element (s.me.gr b.toNat) 1)) v ∧
            atomNew op old ops = (bf16.deliver { rm := .rne, sat := false, ftz := false } u.1).1 +
              65536 * (bf16.deliver { rm := .rne, sat := false, ftz := false } v.1).1))) ∧
    (∀ x c slot, s.cur = .cmp x c slot → s.Runs (.launch pg d b) pg [d.toNat, b.toNat, b.toNat + 1] →
      canon (s.me.pair b.toNat) → (s.me.pair b.toNat).extractLsb' 0 6 = 0#6 → s.released s.cur 3 = true →
      s.acqPending s.cur = false → IssuesAccess s x (.launch pg d b) (s.me.pair b.toNat + 16) 8 [] id)

/-- R179, R182, R239, R240, R243, R245: LDS, STS and ATOMS raise the trap of the first check that fails; on a page that is
not resident the access waits and its destinations are pending; on a resident one LDS reads the bytes, STS writes them and
leaves every other byte of the block's scratchpad, and ATOMS writes the new value and reads the old one. -/
def Obligations.ScratchpadAccesses : Prop :=
  ∀ (s : State) (pg r : BitVec 3) (d b : BitVec 7) (m : Am) (sz : Sz) (o : BitVec 8) (op : AtomOp) (x c slot : Nat),
    s.cur = .cmp x c slot → s.Inv → s.acqPending s.cur = false →
    let lds := Instr.lds pg d r m sz o
    let sts := Instr.sts pg d r m sz o
    let ats := Instr.atoms pg d r op b
    let size := szBytes sz
    let ea := effAddr s.me r m o size
    let ax := s.me.ar r.toNat
    let up := postUpdate s.me r m o size
    let hu : HintUse := { hx := m != .indexed }
    let regs := szRegs sz d.toNat ++ mIndex m o
    let aregs := atomDst op d.toNat ++ atomSrc op b.toNat
    let bs := s.me.par.blk
    let limit := (s.blkOf s.cur).spq * 2048
    let okay := (m = .modulo → winOk (s.me.mr r.toNat) size = true) ∧ ea.toNat < limit ∧ ea.toNat % size = 0
    let page := fun (a : Nat) => ((s.ctxAt x).coreAt c).page bs (a / 2048)
    let own := fun (a : Nat) => ∀ v, v ≠ a / 2048 → (((s.ctxAt x).coreAt c).page bs v).res = true →
      (((s.ctxAt x).coreAt c).page bs v).frame ≠ (page a).frame
    let waits := fun (i : Instr) (a size : Nat) (data : List Byte) (th : Thread) (dst : List Nat) =>
      ∃ t f, exec i s = .next t ∧ tfind (t.ctxAt x).infl (s.ctxAt x).nextId = some f ∧ f.op = i ∧ f.ea.toNat = a ∧ f.size = size ∧
        f.data = data ∧ f.phase = .page ∧ t.me = (th.hang (dst.map PReg.g)).past ∧ s.SameMem t
    let writes := fun (t : State) (a : Nat) (data : List Byte) => s.SameMem t ∧ t.spRead x c bs a data.length = data ∧
      (own a → ∀ e, e < a ∨ a + data.length ≤ e → t.spByte x c bs e = s.spByte x c bs e)
    let first := fun (i : Instr) =>
      (m = .modulo → winOk (s.me.mr r.toNat) size = false → Traps s i 0x0B (s.me.mr r.toNat)) ∧
      ((m = .modulo → winOk (s.me.mr r.toNat) size = true) →
        (limit ≤ ea.toNat → Traps s i 0x23 ea) ∧ (ea.toNat < limit → ea.toNat % size ≠ 0 → Traps s i 0x03 ea))
    (s.Runs lds pg regs (mRegs r m) hu .user false → first lds ∧
      (okay → (page ea.toNat).res = false → waits lds ea.toNat size [] up (szRegs sz d.toNat)) ∧
      (okay → (page ea.toNat).res = true → ∃ t, exec lds s = .next t ∧ s.SameMem t ∧ t.me.pc = s.me.past.pc ∧ t.me.a = up.a ∧
        t.me.m = up.m ∧ ∀ n, t.me.gr n = (s.me.setGs d.toNat (loadWords sz (s.spRead x c bs ea.toNat size))).gr n)) ∧
    (s.Runs sts pg regs (mRegs r m) hu .user false → first sts ∧
      (okay → (page ea.toNat).res = false → waits sts ea.toNat size (storeBytes s.me sz d.toNat) up []) ∧
      (okay → (page ea.toNat).res = true → ∃ t, exec sts s = .next t ∧ t.me = up.past ∧
        (storeBytes s.me sz d.toNat).length = size ∧ writes t ea.toNat (storeBytes s.me sz d.toNat))) ∧
    (s.Runs ats pg aregs [.a r.toNat] {} .user false →
      let old := leVal (s.spRead x c bs ax.toNat (atomSize op))
      let ops := (atomSrc op b.toNat).map s.me.gr
      (limit ≤ ax.toNat → Traps s ats 0x23 ax) ∧
      (ax.toNat < limit → ax.toNat % atomSize op ≠ 0 → Traps s ats 0x03 ax) ∧
      (ax.toNat < limit → ax.toNat % atomSize op = 0 →
        ((page ax.toNat).res = false → waits ats ax.toNat (atomSize op) (wordsBytes ops) s.me (atomDst op d.toNat)) ∧
        ((page ax.toNat).res = true → ∃ t, exec ats s = .next t ∧ t.me.pc = s.me.past.pc ∧
          (∀ n, t.me.gr n = (s.me.setGs d.toNat (oldWords op old)).gr n) ∧
          writes t ax.toNat (leBytes (atomNew op old ops) (atomSize op)) ∧
          (op ≠ .add64 → op ≠ .cas32 → op ≠ .cas64 → op ≠ .fadd32 → op ≠ .badd2 →
            atomNew op old ops = (newWord op (.ofNat 32 old) (s.me.gr b.toNat)).toNat) ∧
          (op = .add64 → atomNew op old ops = ((BitVec.ofNat 64 old) + s.me.pair b.toNat).toNat) ∧
          (op = .cas32 → atomNew op old ops = if old = (s.me.gr b.toNat).toNat then (s.me.gr (b.toNat + 1)).toNat else old) ∧
          (op = .cas64 → atomNew op old ops = if old = (s.me.pair b.toNat).toNat then (s.me.pair (b.toNat + 2)).toNat else old) ∧
          (op = .fadd32 → ∃ v, Sum false (fp32.dec old) (fp32.dec (s.me.gr b.toNat).toNat) v ∧
            atomNew op old ops = (fp32.deliver { rm := .rne, sat := false, ftz := false } v.1).1) ∧
          (op = .badd2 → ∃ u v, Sum false (bf16.dec (old % 65536)) (bf16.dec (element (s.me.gr b.toNat) 0)) u ∧
            Sum false (bf16.dec (old / 65536)) (bf16.dec (element (s.me.gr b.toNat) 1)) v ∧
            atomNew op old ops = (bf16.deliver { rm := .rne, sat := false, ftz := false } u.1).1 +
              65536 * (bf16.deliver { rm := .rne, sat := false, ftz := false } v.1).1))))

/-! ## Ordering, bindings, caches -/

/-- R221 to R226, R246 to R251: FENCE completes once the thread's loads have returned and, at a scope other than thread, the block's
counter is 0; on a control core, once its own writes are acknowledged. ACQ reads the bound object and drops the region's L1 sectors,
one that left its bundle to wait when its wait ends, and completes when it is next formed (R247, log 91); REL is a store of it once the block's counter is 0; a wait keeps the entry read at issue; an unbound entry is trap 0x25. BIND checks its operands in order and writes the entry, UNBIND zeroes it. PREF never traps;
CINV drops the line's sectors, CWB waits for the buffered writes of the line. -/
def Obligations.OrderingAndCaches : Prop :=
  ∀ (s : State) (pg r : BitVec 3) (g : BitVec 7) (e : BitVec 6) (sc : Scope) (m : Am) (o : BitVec 8),
    let canon := fun (a : Dword) => a = (a.setWidth 57).signExtend 64
    let moves := s.modMe Thread.past
    let ea := effAddr s.me r m o 1
    let up := fun (th : Thread) => postUpdate th r m o 1
    let window := m = .modulo → winOk (s.me.mr r.toNat) 1 = true
    let mem := fun (i : Instr) (c : Bool) => s.Runs i pg (mIndex m o) (mRegs r m) { hx := m != .indexed, cache := c }
    let first := fun (i : Instr) => (¬window → Traps s i 0x0B (s.me.mr r.toNat)) ∧ (window → ¬canon ea → Traps s i 0x04 ea)
    (s.Runs (.fence pg sc) pg [] →
      (∀ n, s.cur = .ctl n → sc = .thr ∨ (s.ctlAt n).wb = [] → exec (.fence pg sc) s = .next moves) ∧
      (∀ x c slot, s.cur = .cmp x c slot →
        (s.me.met = false → (∃ f ∈ (s.ctxAt x).infl, f.2.ofThread c slot = true ∧ f.2.loads = true) ∨
          (sc ≠ .thr ∧ (s.blkOf s.cur).unack ≠ 0) → exec (.fence pg sc) s =
          .next (s.modMe fun th => { th with par := { th.par with held := some .split } })) ∧
        ((∀ f ∈ (s.ctxAt x).infl, f.2.ofThread c slot = true → f.2.loads = false) →
          sc = .thr ∨ (s.blkOf s.cur).unack = 0 → exec (.fence pg sc) s = .next moves) ∧
        (s.me.met = true → exec (.fence pg sc) s = .next moves))) ∧
    (∀ x c slot, s.cur = .cmp x c slot →
      let b := s.me.entry.getD (tget 0 (s.ctxAt x).bind e.toNat)
      let sk := s.modMe fun th => { th with entry := some b }
      let obj := s.me.ar r.toNat
      let base := s.me.pair g.toNat
      let len := s.me.gr (g.toNat + 2)
      let last := base + 128 * len.zeroExtend 64 - 1
      let good := canon base ∧ (len = 0 ∨ canon last ∧ last.msb = base.msb)
      let entry : BitVec 192 := 0#7 ++ base.extractLsb' 0 57 ++ 0#32 ++ len ++ 0#7 ++ obj.extractLsb' 3 54 ++ 0#2 ++ 1#1
      (s.Runs (.acq pg g e sc) pg [g.toNat, g.toNat + 1] [] {} .user false →
        (∀ v, s.me.acq = some v → exec (.acq pg g e sc) s = .next (s.did fun th => th.setPair g.toNat v)) ∧
        (s.me.acq = none → b.getLsbD 0 = false → Traps s (.acq pg g e sc) 0x25 (e.zeroExtend 64)) ∧
        (s.me.acq = none → b.getLsbD 0 = true → (∀ f ∈ (s.ctxAt x).infl, f.2.ofThread c slot = false ∧
            (s.ctxAt x).beforeOf (s.ctxAt x).nextId c slot f = false) →
          (∀ n v, sk.xThread s.cur (xreqOf (.acq pg g e sc)) (bindObj b) = (.trap n, v) →
            Traps s (.acq pg g e sc) n (bindObj b)) ∧
          (∀ u v, sk.xThread s.cur (xreqOf (.acq pg g e sc)) (bindObj b) = (.wait u, v) → exec (.acq pg g e sc) s =
            .next (u.modMe fun th => { th with par := { th.par with held := some .split } })) ∧
          (∀ s1 pa cc ac v s2 w, sk.xThread s.cur (xreqOf (.acq pg g e sc)) (bindObj b) = (.ok s1 pa cc ac, v) →
            s1.acqNow (s.physOf x c) pa s.me.lease.toNat b (x / 2) ac = (s2, some w) →
            exec (.acq pg g e sc) s = .next (s2.did fun th => th.setPair g.toNat w) ∧
            ∀ q ∈ (s2.coreAt (s.physOf x c)).l1, inRegion b q.2.vl = false))) ∧
      (s.Runs (.rel pg g e sc) pg [g.toNat, g.toNat + 1] [] {} .user false →
        (b.getLsbD 0 = false → Traps s (.rel pg g e sc) 0x25 (e.zeroExtend 64)) ∧
        (b.getLsbD 0 = true → s.me.met = true ∨ (s.blkOf s.cur).unack = 0 → s.acqPending s.cur = false →
          IssuesAccess s x (.rel pg g e sc) (bindObj b) 8 (leBytes (s.me.pair g.toNat).toNat 8) id sk)) ∧
      (s.Runs (.bind pg g r e) pg [g.toNat, g.toNat + 1, g.toNat + 2] [.a r.toNat] {} .user false →
        (¬canon obj → Traps s (.bind pg g r e) 0x04 obj) ∧
        (canon obj → obj.extractLsb' 0 3 ≠ 0#3 → Traps s (.bind pg g r e) 0x03 obj) ∧
        (canon obj → obj.extractLsb' 0 3 = 0#3 → ¬good → Traps s (.bind pg g r e) 0x04 base) ∧
        (canon obj → obj.extractLsb' 0 3 = 0#3 → good → base.extractLsb' 0 7 ≠ 0#7 →
          Traps s (.bind pg g r e) 0x03 base) ∧
        (canon obj → obj.extractLsb' 0 3 = 0#3 → good → base.extractLsb' 0 7 = 0#7 → exec (.bind pg g r e) s =
          .next ((s.modCtx x fun k => { k with bind := tput e.toNat entry k.bind }).modMe Thread.past))) ∧
      (s.Runs (.unbind pg e) pg [] [] {} .user false → exec (.unbind pg e) s =
        .next ((s.modCtx x fun k => { k with bind := tput e.toNat 0 k.bind }).modMe Thread.past))) ∧
    (isCtl s.cur = true → ∀ w ∈ [Instr.acq pg g e sc, .rel pg g e sc, .bind pg g r e, .unbind pg e], Illegal s w) ∧
    (mem (.pref pg r m o) true → (¬window → exec (.pref pg r m o) s = .next moves) ∧
      (window → ∃ t, exec (.pref pg r m o) s = .next t ∧ t.me = (up s.me).past) ∧
      (window → ¬canon ea ∨ s.probe s.cur ea = none → exec (.pref pg r m o) s = .next (s.did up))) ∧
    (mem (.cinv pg r m o) false → first (.cinv pg r m o) ∧
      (window → canon ea → s.probe s.cur ea = none → exec (.cinv pg r m o) s = .next (s.did up)) ∧
      (∀ pa cc v, window → canon ea → s.probe s.cur ea = some (pa, cc, v) →
        (∀ x c slot, s.cur = .cmp x c slot → ∀ f ∈ (s.ctxAt x).infl, f.2.ofThread c slot = true → f.2.loads = false) →
        exec (.cinv pg r m o) s = .next ((s.modPhys (s.phys s.cur) fun c =>
          { c with l1 := c.l1.filter fun q => q.1 / 4 != pa / 128 }).did up))) ∧
    (mem (.cwb pg r m o) false → first (.cwb pg r m o) ∧
      (window → canon ea → s.probe s.cur ea = none → exec (.cwb pg r m o) s = .next (s.did up)) ∧
      (∀ pa cc v, window → canon ea → s.probe s.cur ea = some (pa, cc, v) →
        (∀ f ∈ s.wcb (s.phys s.cur), (∃ w, f.2.2.phase = .applied w) ∨ ∀ a q, f.2.2.pa = some (a, q) → a / 128 ≠ pa / 128) →
        exec (.cwb pg r m o) s = .next (s.did up)))

/-! ## Descriptors, copy batches, engine commands, accumulator tiles -/

/-- R267, R279, R283: TDSET writes one word of a descriptor and TDGET reads one, TDLD is a checked 64-byte load into it,
TDINV clears it; CPSEAL seals the open batch, whose number goes to gd when it completes; CPWAIT waits for an older batch,
CPTEST reads 1 for a complete one, 0 for one that is not, and all ones for one that is not older. -/
def Obligations.DescriptorsAndBatches : Prop :=
  ∀ (s : State) (pg : BitVec 3) (h : BitVec 8) (g d : BitVec 7) (w : BitVec 4) (x c slot : Nat), s.cur = .cmp x c slot →
    let D := tget 0 (s.ctxAt x).td h.toNat
    let ea := s.me.pair g.toNat
    let canon := ea = (ea.setWidth 57).signExtend 64
    let sets := fun (D' : BitVec 512) => exec (.tdset pg h g w) s =
      .next ((s.modCtx x fun k => { k with td := tput h.toNat D' k.td }).modMe Thread.past)
    let older := fun (b : Word) => 1 ≤ (s.me.cpopen - b).toNat ∧ (s.me.cpopen - b).toNat ≤ 2 ^ 31
    let standing := fun (b : Word) => ∃ u ∈ s.me.par.batches, u.num = b.toNat
    (s.tdPending s.cur [h.toNat] = false →
      (s.Runs (.tdset pg h g w) pg [g.toNat] [] {} .user false → ∃ D', sets D' ∧ ∀ v : BitVec 4,
        D'.extractLsb' (32 * v.toNat) 32 = if v = w then s.me.gr g.toNat else D.extractLsb' (32 * v.toNat) 32) ∧
      (s.Runs (.tdget pg h g w) pg [g.toNat] [] {} .user false →
        WritesG s (.tdget pg h g w) g (D.extractLsb' (32 * w.toNat) 32)) ∧
      (s.Runs (.tdld pg h g) pg [g.toNat, g.toNat + 1] [] { cache := true } .user false →
        (¬canon → Traps s (.tdld pg h g) 0x04 ea) ∧ (canon → ea.toNat % 64 ≠ 0 → Traps s (.tdld pg h g) 0x03 ea) ∧
        (canon → ea.toNat % 64 = 0 → s.acqPending s.cur = false → IssuesAccess s x (.tdld pg h g) ea 64 [] id)) ∧
      (s.Runs (.tdinv pg h) pg [] [] {} .user false → exec (.tdinv pg h) s =
        .next ((s.modCtx x fun k => { k with td := tdel h.toNat k.td }).modMe Thread.past))) ∧
    (s.Runs (.cpseal pg d) pg [d.toNat] [] { even := true } .user false →
      (s.me.par.batches = [] → s.me.hints.event = none → ∃ t, exec (.cpseal pg d) s = .next t ∧
        t.me.gr d.toNat = s.me.cpopen ∧ t.me.cpopen = s.me.cpopen + 1 ∧ t.me.par.batches = [] ∧ t.me.pc = s.me.past.pc) ∧
      (∀ b, s.me.par.batches = [b] → b.num = s.me.cpopen.toNat → b.left ≠ 0 → ∃ t, exec (.cpseal pg d) s = .next t ∧
        t.me.par.batches = [{ b with sealed := true, token := some d.toNat, event := s.me.hints.event }] ∧
        t.me.cpopen = s.me.cpopen + 1 ∧ .g d.toNat ∈ t.me.pend ∧ t.me.g = s.me.g ∧ t.me.pc = s.me.past.pc)) ∧
    (s.Runs (.cpwait pg g) pg [g.toNat] [] {} .user false →
      (¬older (s.me.gr g.toNat) → Traps s (.cpwait pg g) 0x27 (BitVec.ofNat 64 (256 * 5 + g.toNat))) ∧
      (older (s.me.gr g.toNat) → standing (s.me.gr g.toNat) → exec (.cpwait pg g) s =
        .next (s.modMe fun th => { th with par := { th.par with held := some .cpwait } })) ∧
      (older (s.me.gr g.toNat) → ¬standing (s.me.gr g.toNat) → (∀ p, s.me.par.place ≠ .parked p) →
        exec (.cpwait pg g) s = .next (s.modMe Thread.past))) ∧
    (s.Runs (.cptest pg d) pg [d.toNat] [] {} .user false →
      (¬older (s.me.gr d.toNat) → WritesG s (.cptest pg d) d 0xFFFFFFFF) ∧
      (older (s.me.gr d.toNat) → standing (s.me.gr d.toNat) → WritesG s (.cptest pg d) d 0) ∧
      (older (s.me.gr d.toNat) → ¬standing (s.me.gr d.toNat) → WritesG s (.cptest pg d) d 1))

/-- R260, R261, R277, R281 to R299: each copy, matrix, accumulator, scout and chain instruction queues its command on its
engine, with the descriptors, the mask and θ it captures, after the checks of R260 in their order; the points of log 43 are the model's reading. -/
def Obligations.EngineCommands : Prop :=
  ∀ (s : State) (pg k : BitVec 3) (a b d : BitVec 8) (n : BitVec 4) (t : BitVec 7),
    let h := s.me.hints
    let base := h.he.isSome
    EngineWord s (.cp pg d b) pg [] [] { cache := true } .copy [d.toNat, b.toNat] ∧
    EngineWord s (.cpc pg d b) pg [] [] { cache := true, rnd := true, rnd5 := srFmt (s.fmtOf d.toNat) } .copy
      [d.toNat, b.toNat] ∧
    EngineWord s (.cpz pg d) pg [] [] { cache := true } .copy [d.toNat] ∧
    EngineWord s (.mma pg a b n) pg [] [] { gang := true, even := true } .matrix [a.toNat, b.toNat] ∧
    EngineWord s (.mmas pg a b n) pg [] [] { gang := true, even := true, tn3 := true } .matrix [a.toNat, b.toNat, h.tn3] ∧
    EngineWord s (.mmab pg a b n) pg [] [] { gang := true, even := true } .matrix [a.toNat, b.toNat] ∧
    EngineWord s (.mmam pg a b n) pg [] [.k h.kreg] { gang := true, even := true, kreg := 1 } .matrix [a.toNat, b.toNat] false
      (s.me.kr h.kreg) ∧
    EngineWord s (.mmaz pg a b n) pg [] [] { gang := true, even := true } .matrix [a.toNat, b.toNat] ∧
    EngineWord s (.dmma pg a b n) pg [] [] { gang := true, even := true, rnd := true } .matrix [a.toNat, b.toNat] ∧
    EngineWord s (.accz pg n) pg [] [] {} .matrix [] ∧
    EngineWord s (.accld pg b n) pg [] [] { cache := true } .matrix [b.toNat] ∧
    EngineWord s (.accst pg d n) pg [] [] { cache := true, rnd := true, rnd5 := srFmt (s.fmtOf d.toNat) } .copy [d.toNat] true ∧
    EngineWord s (.scout pg b a) pg [] [] { even := true, tn3 := true } .scout [b.toNat, a.toNat, h.tn3] ∧
    EngineWord s (.dodge pg b t k) pg [t.toNat] (.k k.toNat :: if base then [.k h.kreg] else []) { kreg := 2 } .scout [b.toNat] false
      (if base then s.me.kr h.kreg else 0) (s.me.gr t.toNat) [.k k.toNat] ∧
    EngineWord s (.chset pg b) pg [] [] {} .chain [b.toNat] ∧
    EngineWord s (.chain pg d b) pg [] [] { even := true, rnd := true, rnd5 := srFmt (s.fmtOf d.toNat) } .chain
      [d.toNat, b.toNat] ∧
    EngineWord s (.chain2 pg d b) pg [] [] { even := true, tn3 := true, rnd := true, rnd5 := srFmt (s.fmtOf d.toNat) } .chain
      [d.toNat, b.toNat, h.tn3]

/-- R271, R294, R295: ACCRD, ACCWR and ACCPSN name a cell of a tile that the thread's block owns by gc; a coordinate word that
is not legal raises trap 0x27, a tile of another owner trap 0x28. ACCRD reads a cell's integer, its low or high bits, the
poison or the causes, or rounds its FA56 value to FP32; ACCWR writes one cell, as bits, as an integer, or as an FP32 value,
whose NaN or infinity poisons the row; ACCPSN poisons a row; OWNV takes a free tile for the block, OWNM gives it
back. -/
def Obligations.AccumulatorTiles : Prop :=
  ∀ (s : State) (pg : BitVec 3) (d g c : BitVec 7) (n : BitVec 4) (x k slot : Nat), s.cur = .cmp x k slot →
    let core := (s.ctxAt x).coreAt k
    let tile := core.tileAt n.toNat
    let mine := some s.me.par.blk
    let gc := s.me.gr c.toNat
    let mode := (gc.extractLsb' 16 4).toNat
    let row := (gc.extractLsb' 8 7).toNat
    let col := (gc.extractLsb' 0 7).toNat
    let cell := fun (t : Tile) (i : Nat) => tget 0 t.cells i
    let at_ := 128 * row + col
    let form := gc &&& 0xFFF08080 = 0
    let charge := fun (r : BitVec 7) => BitVec.ofNat 64 (256 * 5 + r.toNat)
    let rd := Instr.accrd pg d c n
    let wr := Instr.accwr pg g c n
    let ps := Instr.accpsn pg g c n
    let v := s.me.gr g.toNat
    let others := fun (i : Instr) (legal : Prop) => tile.owner ≠ mine → legal → Traps s i 0x28 (n.zeroExtend 64)
    let reads := fun (v : Word) => ∃ t, exec rd s = .next t ∧ t.me = (s.me.setG d.toNat v).past ∧ s.SameMem t
    let becomes := fun (i : Instr) (f : Tile → Prop) => ∃ t, exec i s = .next t ∧ t.me = s.me.past ∧ s.SameMem t ∧
      f (((t.ctxAt x).coreAt k).tileAt n.toNat)
    let wrote := fun (w : BitVec 56) => becomes wr fun u => cell u at_ = w ∧ (∀ i, i ≠ at_ → cell u i = cell tile i) ∧
      u.poison = tile.poison ∧ u.cause = tile.cause ∧ u.owner = mine
    (s.Runs rd pg [d.toNat, c.toNat] [] {} .user false →
      let legal := form ∧ mode ≤ 5 ∧ (mode = 4 → col < 4)
      (¬legal → Traps s rd 0x27 (charge c)) ∧ others rd legal ∧
      (tile.owner = mine → form →
        (mode = 0 → ∃ g m e, fa56.dec (cell tile at_).toNat = .fin g m e ∧
          (mag (2 ^ 25 - 1) 103 ≤ mag m e → reads (if g then 0xFF800000 else 0x7F800000)) ∧
          (mag m e < mag (2 ^ 25 - 1) 103 → ∃ v, RoundsTo fp32 .rne g (mag m e) v.toNat ∧ reads v)) ∧
        (mode = 1 → reads (BitVec.ofInt 32 (clamp (cell tile at_).toInt))) ∧
        (mode = 2 → reads ((cell tile at_).extractLsb' 0 32)) ∧
        (mode = 3 → reads (((cell tile at_).extractLsb' 32 24).zeroExtend 32)) ∧
        (mode = 4 → col < 4 → reads (tile.poison.extractLsb' (32 * col) 32)) ∧
        (mode = 5 → reads (tile.cause.zeroExtend 32)))) ∧
    (s.Runs wr pg [g.toNat, c.toNat] [] {} .user false →
      let legal := form ∧ mode ≤ 3
      let whole := mode = 3 → v.extractLsb' 24 8 = 0#8
      (¬legal → Traps s wr 0x27 (charge c)) ∧ (legal → ¬whole → Traps s wr 0x27 (charge g)) ∧ others wr (legal ∧ whole) ∧
      (tile.owner = mine → form → core.storing s.me.par.blk n.toNat = false →
        (mode = 0 → finite (fp32.dec v.toNat) → ∃ w, wrote w ∧ finite (fa56.dec w.toNat) ∧
          ratOf (fa56.dec w.toNat) = ratOf (fp32.dec v.toNat)) ∧
        (mode = 0 → ¬finite (fp32.dec v.toNat) → becomes wr fun u => cell u at_ = 0 ∧ (∀ i, i ≠ at_ → cell u i = cell tile i) ∧
          u.poison = tile.poison ||| (1#128 <<< row) ∧ u.cause = tile.cause ||| 2 ∧ u.owner = mine) ∧
        (mode = 1 → wrote (v.signExtend 56)) ∧
        (mode = 2 → wrote ((cell tile at_).extractLsb' 32 24 ++ v)) ∧
        (mode = 3 → v.extractLsb' 24 8 = 0#8 → wrote (v.extractLsb' 0 24 ++ (cell tile at_).extractLsb' 0 32)))) ∧
    (s.Runs ps pg [g.toNat, c.toNat] [] {} .user false →
      let legal := form ∧ mode = 15 ∧ col = 0
      (¬legal → Traps s ps 0x27 (charge c)) ∧ others ps legal ∧
      (tile.owner = mine → legal → core.storing s.me.par.blk n.toNat = false → becomes ps fun u => u.cells = tile.cells ∧
        (v.extractLsb' 0 5 = 0#5 → u = tile) ∧
        (v.extractLsb' 0 5 ≠ 0#5 → u.poison = tile.poison ||| (1#128 <<< row) ∧
          u.cause = tile.cause ||| (v.extractLsb' 0 5).zeroExtend 8))) ∧
    (s.Runs (.ownv pg n) pg [] [] {} .user false → (∀ p, s.me.par.place ≠ .parked p) →
      (tile.owner ≠ none → tile.owner ≠ mine → Traps s (.ownv pg n) 0x28 (n.zeroExtend 64)) ∧
      (tile.owner = mine → becomes (.ownv pg n) fun u => u = tile) ∧
      (tile.owner = none → core.usesTile n.toNat = false → tile.queue = [] → becomes (.ownv pg n) fun u =>
        u.owner = mine ∧ u.cells = tile.cells ∧ u.poison = tile.poison ∧ u.cause = tile.cause)) ∧
    (s.Runs (.ownm pg n) pg [] [] {} .user false → (∀ p, s.me.par.place ≠ .parked p) →
      (tile.owner ≠ none → tile.owner ≠ mine → Traps s (.ownm pg n) 0x28 (n.zeroExtend 64)) ∧
      (tile.owner = none → becomes (.ownm pg n) fun u => u = tile) ∧
      (tile.owner = mine → core.storing s.me.par.blk n.toNat = false → becomes (.ownm pg n) fun u =>
        u.owner = none ∧ u.cells = tile.cells ∧ u.poison = tile.poison ∧ u.cause = tile.cause))

/-! ## Events of the fabric, of time, of returning accesses -/

/-- R229, R333, R335, R336, R338: home answers a read, an ownership or an upgrade request whose line no other die holds with
data or a grant and its directory entry, the grant without data only to an Upgrade of a die it lists; with other holders it sends each a
snoop and stays busy. A request waits for a busy line and for room in the directory. A clean eviction and a
write-back leave the directory; a forwarded read leaves the owner in O or S, a forwarded ownership and an invalidation
leave no replica; a grant and data set the replica. A message is taken when every earlier one of its class, source and
destination has arrived. A fill brings a line into L2 with the slice's MTS. A flit replayed 64 times in a row lets the link be
taken down, which interrupts with source 13. -/
def Obligations.FabricEvents : Prop :=
  ∀ (s : State) (line r : Nat) (l : L2Line), tfind s.coh.l2 line = some l → r < 4 →
    let l' := fun (t : State) => t.l2At line
    let bit : BitVec 4 := BitVec.ofNat 4 (2 ^ r)
    let others := [0, 1, 2, 3].filter fun d => l.sharers.getLsbD d && d != r
    let quiet := fun (k : MKind) => s.arrived k line r ≠ none ∧ l.busy = false
    let taken := fun (k : MKind) => quiet k ∧ s.dirFull line = false
    let listed := l.owner = some r ∨ l.sharers.getLsbD r = true
    let room := s.coh.l2.length ≤ 16384
    let owns := fun (i : Instr) (up : Bool) (w q : BitVec 24) =>
      (l.owner = none ∨ l.owner = some r → others = [] → ∃ t m, exec i s = .next t ∧ m ∈ t.coh.msgs ∧ m.line = line ∧
        m.r = r ∧ m.wts = w ∧ m.rts = q ∧ (l' t).owner = some r ∧ (l' t).sharers = 0 ∧ (l' t).busy = false ∧
        (up = true → listed → m.kind = .grantM) ∧
        (up = false ∨ ¬listed → m.kind = .data ∧ m.st = .m ∧ (room → m.bytes = s.lineBytes line))) ∧
      (l.owner = none → others ≠ [] → ∃ t, exec i s = .next t ∧ (l' t).busy = true ∧ (l' t).wait = others.length ∧
        (l' t).txn = some (r, true) ∧ ∀ d ∈ others, t.msgOf .inv line d ≠ none) ∧
      (∀ o, l.owner = some o → o ≠ r → ∃ t, exec i s = .next t ∧ (l' t).busy = true ∧ (l' t).txn = some (r, true) ∧
        t.msgOf .fwdOwn line o ≠ none)
    (∀ i ∈ [Instr.reads line r, .readown line r, .upgrade line r], l.busy = true ∨ s.dirFull line = true → exec i s = .next s) ∧
    (taken .readS →
      (l.owner = none → ∃ t m, exec (.reads line r) s = .next t ∧ m ∈ t.coh.msgs ∧ m.kind = .data ∧ m.line = line ∧ m.r = r ∧
        m.wts = l.wts ∧ m.rts = l.rts ∧ (room → m.bytes = s.lineBytes line) ∧ (l' t).busy = false ∧
        (l.sharers = 0 → m.st = .e ∧ (l' t).owner = some r) ∧
        (l.sharers ≠ 0 → m.st = .s ∧ (l' t).sharers = l.sharers ||| bit)) ∧
      (∀ o, l.owner = some o → o ≠ r → ∃ t, exec (.reads line r) s = .next t ∧ (l' t).busy = true ∧
        (l' t).txn = some (r, false) ∧ t.msgOf .fwdS line o ≠ none)) ∧
    (taken .readOwn → owns (.readown line r) false l.wts l.rts) ∧
    (∀ u, taken .upgrade → s.arrived .upgrade line r = some u →
      owns (.upgrade line r) true (later l.wts u.wts) (later l.rts u.rts)) ∧
    (quiet .evictC → ∃ t, exec (.evictc line r) s = .next t ∧ t.msgOf .evictC line r = none ∧
      (l' t).sharers = l.sharers &&& ~~~bit ∧ (l' t).owner ≠ some r) ∧
    (s.msgOf .evictC line r = none → ∀ q, s.repAt line r = some q → q.st = .s ∨ q.st = .e → s.asking line r = false →
      ∃ t, exec (.evictc line r) s = .next t ∧ t.repAt line r = none ∧ t.msgOf .evictC line r ≠ none) ∧
    (∀ m, s.arrived .writeBack line r = some m → s.msgOf .fwdS line r = none → s.msgOf .fwdOwn line r = none →
      s.msgOf .inv line r = none → ∃ t, exec (.writeback line r) s = .next t ∧ t.msgOf .writeBack line r = none ∧
        (l' t).owner ≠ some r ∧ (l.owner = some r → t.mem = memWrite (128 * line) m.bytes s.mem) ∧
        (l.owner ≠ some r → s.SameMem t)) ∧
    (s.msgOf .writeBack line r = none → ∀ q, s.repAt line r = some q → q.st = .m ∨ q.st = .o → s.asking line r = false →
      ∃ t m, exec (.writeback line r) s = .next t ∧ t.repAt line r = none ∧ t.msgOf .writeBack line r = some m ∧
        m.bytes = q.data ∧ m.wts = q.wts ∧ m.rts = q.rts) ∧
    (s.arrived .fwdS line r ≠ none → s.awaits line r = false → ∀ q, s.repAt line r = some q →
      ∃ t q' m, exec (.fwds line r) s = .next t ∧ t.repAt line r = some q' ∧ q'.data = q.data ∧
        (q.st = .m ∨ q.st = .o → q'.st = .o) ∧ (q.st = .e ∨ q.st = .s → q'.st = .s) ∧
        m ∈ t.coh.msgs ∧ m.kind = .data ∧ m.line = line ∧ m.st = .s ∧ (l' t).busy = false) ∧
    (s.arrived .fwdOwn line r ≠ none → s.awaits line r = false →
      ∃ t, exec (.fwdown line r) s = .next t ∧ t.repAt line r = none ∧ t.msgOf .fwdOwn line r = none) ∧
    (s.arrived .inv line r ≠ none → s.awaits line r = false →
      ∃ t, exec (.inv line r) s = .next t ∧ t.repAt line r = none ∧ t.msgOf .inv line r = none) ∧
    ((∀ e ∈ s.ctxs, ∀ f ∈ e.2.infl, f.2.phase ≠ .own) → (∀ n q, (s.ctlAt n).store = some q → q.own = false) →
      (∀ m q, s.arrived .grantM line r = some m → s.repAt line r = some q → ∃ t, exec (.grantm line r) s = .next t ∧
        t.repAt line r = some { q with st := .m, wts := m.wts, rts := m.rts } ∧ t.msgOf .grantM line r = none) ∧
      (∀ m, s.arrived .data line r = some m → ∃ t, exec (.dataMessage line r) s = .next t ∧
        t.repAt line r = some { st := m.st, data := m.bytes, wts := m.wts, rts := m.rts } ∧ t.msgOf .data line r = none)) ∧
    (∀ ln req, tfind s.coh.l2 ln = none → s.boot.stage ≠ .off →
      (s.coh.l2.length + s.coh.reps.length < 32768 → exec (.memoryFill ln none req false) s =
        .next { s with coh := { s.coh with l2 := tput ln { wts := s.mtsOf ln, rts := s.mtsOf ln } s.coh.l2 } }) ∧
      (∀ v, v ≠ ln → sliceKey v = sliceKey ln → tfind s.coh.l2 v ≠ none → s.quiet v = true →
        ∃ t, exec (.memoryFill ln (some v) req false) s = .next t ∧ tfind t.coh.l2 v = none ∧ tfind t.coh.l2 ln ≠ none)) ∧
    (∀ a b via, a < b → b < 4 → s.boot.stage ≠ .off → (∀ d ∈ s.coh.down, ¬(d.1 = a ∧ d.2.1 = b)) → exec (.flitReplay a b) s =
      .next { s with coh := { s.coh with replays := tput (a, b) (min 64 (tget 0 s.coh.replays (a, b) + 1)) s.coh.replays } } ∧
      (tget 0 s.coh.replays (a, b) = 64 → via < 4 → via ≠ a → via ≠ b → s.linkUp a via = true → s.linkUp via b = true → ∃ t, exec (.linkDown a b via) s = .next t ∧
        t.coh.down = (a, b, via) :: s.coh.down ∧ t.coh.msgs = s.coh.msgs ∧
        13 ∈ (t.ctlAt (5 * a + ((tget 0 (s.winAt a).iroute 13).extractLsb' 0 2).toNat)).irqs))

/-- R204, R207, R219, R226, R229, R230, R232, R238: a core's logical time ticks once in 64 clocks; a lagging one is raised to
2^20 behind the latest; the L1 sweeper drops sectors whose lease lies 2^21 behind, the L2 sweeper raises old timestamps to
the die's floor; a load's bytes reach its registers, and those of one request to the L1 together (R132, log 91); a store of a line that no other die holds is applied to memory, a 16-byte one word by
word (the lower first, log 53), and then acknowledged; a logged access is translated again; one of a fetch that faulted only goes (log
31); a walk refreshes the die's TLB. What it does to the copies of the die's cores and clusters is log 17's choice. -/
def Obligations.TimeAndReturns : Prop :=
  ∀ (s : State) (core die slice x id : Nat) (f : InFlight),
    let c := s.coreAt core
    let now := s.latestLt
    let powered := s.boot.stage ≠ .off
    let T := Tid.cmp x f.core f.slot
    let pc := s.physOf x f.core
    let gone := s.modCtx x fun k => { k with infl := tdel id k.infl }
    (powered → c.ticked < s.clock / 64 → ∃ t, exec (.logicalTimeTick core) s = .next t ∧ (t.coreAt core).lt = c.lt + 1 ∧
      (t.coreAt core).ticked = c.ticked + 1 ∧ ∀ d, d ≠ core → t.coreAt d = s.coreAt d) ∧
    (powered → s.clock % 1024 = 0 → die < 4 → ∃ t, exec (.logicalTimeRaise die) s = .next t ∧
      (∀ d ∈ dieCores die, (t.coreAt d).lt =
        if tle (s.coreAt d).lt now = true ∧ 2 ^ 20 < (now - (s.coreAt d).lt).toNat then now - BitVec.ofNat 24 (2 ^ 20)
        else (s.coreAt d).lt) ∧
      (∀ d, d ∉ dieCores die → t.coreAt d = s.coreAt d)) ∧
    (powered → ∃ t, exec (.l1Sweep core) s = .next t ∧ (t.coreAt core).lt = c.lt ∧
      ∀ e, e ∈ (t.coreAt core).l1 ↔ e ∈ c.l1 ∧ ¬(tle e.2.fin c.lt = true ∧ 2 ^ 21 ≤ (c.lt - e.2.fin).toNat)) ∧
    (powered → ∃ t, exec (.l2Sweep die slice) s = .next t ∧ s.SameMem t ∧ t.coh.msgs = s.coh.msgs ∧
      tget 0 t.coh.mts (32 * die + slice) = liftTo (s.dieFloor die) (tget 0 s.coh.mts (32 * die + slice)) ∧
      ∀ ln l, tfind s.coh.l2 ln = some l → ∃ l', tfind t.coh.l2 ln = some l' ∧
        (sliceKey ln = 32 * die + slice → l'.wts = liftTo (s.dieFloor die) l.wts ∧ l'.rts = liftTo (s.dieFloor die) l.rts) ∧
        (sliceKey ln ≠ 32 * die + slice → l' = l)) ∧
    (tfind (s.ctxAt x).infl id = some f → ∀ pa cc, f.pa = some (pa, cc) →
      (∀ pg d r m sz o b, f.op = .ld pg d r m sz o → f.phase = .issued → f.req = none → f.got = some b → f.size ≤ b.length →
        (s.ctxAt x).olderMeets id f InFlight.blocksLoad = false →
        exec (.loadReturn x id) s = .next (gone.modThr T fun th => (th.setGs d.toNat (loadWords sz b)).unhang
          ((List.range (loadWords sz b).length).map fun i => .g (d.toNat + i)))) ∧
      (∀ pg d r m sz o b pg2 d2 r2 m2 sz2 o2 b2 id2 f2 cc2, f.op = .ld pg d r m sz o → f2.op = .ld pg2 d2 r2 m2 sz2 o2 →
        (s.ctxAt x).infl = [(id, f), (id2, f2)] → id ≠ id2 → f.req ≠ none → f2.req = f.req → f2.core = f.core → f2.slot ≠ f.slot →
        f2.ea.toNat / 128 = f.ea.toNat / 128 → f2.pa = some cc2 → f.phase = .issued → f2.phase = .issued → f.got = some b →
        f2.got = some b2 → f.size ≤ b.length → f2.size ≤ b2.length → (s.ctxAt x).olderMeets id f InFlight.blocksLoad = false →
        (s.ctxAt x).olderMeets id2 f2 InFlight.blocksLoad = false → ∃ t, exec (.loadReturn x id) s = .next t ∧
        (t.ctxAt x).infl = [] ∧ t.thr T = ((s.thr T).setGs d.toNat (loadWords sz b)).unhang
          ((List.range (loadWords sz b).length).map fun i => .g (d.toNat + i)) ∧
        t.thr (.cmp x f.core f2.slot) = ((s.thr (.cmp x f.core f2.slot)).setGs d2.toNat (loadWords sz2 b2)).unhang
          ((List.range (loadWords sz2 b2).length).map fun i => .g (d2.toNat + i))) ∧
      (∀ w, f.phase = .applied w → f.counted = true → cc = 0 → s.jumpOk pc w = true →
        ∃ t, exec (.storeAcknowledge x id) s = .next t ∧ tfind (t.ctxAt x).infl id = none ∧
          (t.blkOf T).unack = (s.blkOf T).unack - 1 ∧ (core = pc → (t.coreAt pc).lt = if tle c.lt w = true then w else c.lt)) ∧
      (∀ pg d r m sz o, f.op = .st pg d r m sz o → f.phase = .issued → (s.ctxAt x).infl = [(id, f)] →
        pa < 0x00C000000000 → homeDie pa = dieOfPhys pc → s.coh.reps = [] → s.coh.msgs = [] → pa / 128 ∉ s.hst.held →
        (s.l2At (pa / 128)).busy = false → (s.l2At (pa / 128)).owner = none → (s.ctxAt x).ckpt.on = false → s.Inv →
        f.half = false →
        (f.size ≠ 16 → ∃ t w, exec (.storeAcknowledge x id) s = .next t ∧ Stores s t pa f.data ∧
          (tfind (t.ctxAt x).infl id).map InFlight.phase = some (.applied w)) ∧
        (f.size = 16 → ∃ t, exec (.storeAcknowledge x id) s = .next t ∧ Stores s t pa (f.data.take 8) ∧
          tfind (t.ctxAt x).infl id = some { f with half := true, phase := .issued }))) ∧
    (tfind (s.ctxAt x).infl id = some f → f.phase = .replay → s.runs x = true → (s.ctxAt x).olderLogged id f = false →
      ((∃ w, f.op = .illegalInstruction w) → exec (.operandLogReplay x id) s = .next gone) ∧
      (∀ pg d r m sz o s1 pa cc ac v, f.op = .ld pg d r m sz o → s.xThread T (xreqOf f.op) f.ea = (.ok s1 pa cc ac, v) →
        ∃ t f', exec (.operandLogReplay x id) s = .next t ∧ tfind (t.ctxAt x).infl id = some f' ∧ f'.phase = .issued ∧
          f'.pa = some (pa, cc) ∧ f'.op = f.op ∧ f'.ea = f.ea ∧ t.thr T = s.thr T)) ∧
    (∀ sid va a, ∃ t, exec (.pageWalk die sid va a) s = .next t ∧
      (s.rootOf (BitVec.ofNat 16 sid) = none → t = s) ∧
      (∀ r lf, s.rootOf (BitVec.ofNat 16 sid) = some r → s.walk (va.toNat % 2 ^ 57) 5 (r.root.toNat * 4096) = .leaf lf →
        leafCheck { die := die, root := r, user := false, rd := true } lf.e (ptePa lf.e + va.toNat % 2 ^ 57 % lf.size) = none →
        a = .load → s.hst.held = [] → ∃ u ∈ t.tr.tlb, u.own = .die die ∧ u.sid = BitVec.ofNat 16 sid ∧ u.size = lf.size ∧ u.leaf = lf.e ||| 0x40 ∧
          u.base = va.toNat % 2 ^ 57 - va.toNat % 2 ^ 57 % lf.size) ∧
      (∀ r bad n, s.rootOf (BitVec.ofNat 16 sid) = some r → s.walk (va.toNat % 2 ^ 57) 5 (r.root.toNat * 4096) = .stop bad n →
        t.tr.recs = s.tr.recs ∧ ∀ u ∈ t.tr.tlb, u ∈ s.tr.tlb ∧
          ¬(u.own = .die die ∧ u.sid = BitVec.ofNat 16 sid ∧ u.base ≤ va.toNat % 2 ^ 57 ∧ va.toNat % 2 ^ 57 < u.base + u.size)))

/-! ## Events of faults, the configuration window, the host -/

/-- R204, R211, R212, R215, R345, R346, R348, R352, R353: the oldest record enters its partition's ring and raises interrupt
9, once the host has given up the line it enters; the kernel's answer makes the accesses that wait replay, and an ERROR halts with the page-fault trap; a shootdown drops
the entries it names; a write of the configuration window reads back, one with an RSV bit set is ignored; host accesses
are served at home and enter the snoop filter, a host snoop takes its line; requests under a SID are served, held, or
refused, those of the Herbor port under a context's SID alone; one whose walk waits for the host's line waits: a read and an atomic return what stood there, a write and an atomic change those bytes alone. The model's choices: an
ignored write of the window and of KROOT (logs 19, 30), the ring's free-running indices (log 20), an access answered with ERROR that goes to the replay
phase and stays in the log (log 27), the ports' place and what the host may ask before RUN (log 58). -/
def Obligations.FaultsWindowAndHost : Prop :=
  ∀ (s : State) (p tag die n : Nat) (v : BitVec 64),
    let d := s.partDie p
    let w := s.winAt d
    let base := (tget 0 w.fqbase p).toNat
    let size := 2 ^ ((tget 0 w.fqsize p).toNat % 32)
    let tail := tget 0 w.fqtail p
    let slot := base + 32 * (tail.toNat % size)
    let full := base = 0 ∨ size ≤ (tail - tget 0 w.fqhead p).toNat
    let alone := s.coh.reps = [] ∧ s.coh.msgs = [] ∧ s.Inv
    let powered := s.boot.stage ≠ .off
    let asked := s.tr.recs.find? fun r => !r.notice && r.written && r.tag == tag
    (∀ r, (s.tr.recs.find? fun r => r.p == p && !r.written) = some r →
      (full → exec (.faultRecordWrite p) s = .next s) ∧
      (¬full → base % 4096 = 0 → slot < 0x00C000000000 → slot / 128 ∈ s.hst.held → ∃ t, exec (.faultRecordWrite p) s = .next t ∧
        slot / 128 ∈ t.hst.inval ∧ s.SameMem t ∧ tget 0 (t.winAt d).fqtail p = tail) ∧
      (¬full → base % 4096 = 0 → slot < 0x00C000000000 → slot / 128 ∉ s.hst.held → alone → ∃ t, exec (.faultRecordWrite p) s = .next t ∧
        Stores s t slot (leBytes r.bits.toNat 32) ∧ tget 0 (t.winAt d).fqtail p = tail + 1 ∧
        9 ∈ (t.ctlAt (5 * d + ((tget 0 w.iroute 9).extractLsb' 0 2).toNat)).irqs ∧
        ∀ u ∈ t.tr.recs, u.tag = r.tag → u.p = p → u.addr = r.addr → u.notice = r.notice → u.written = true)) ∧
    (asked = none → exec (.frespRetry p tag) s = .next s ∧ exec (.frespError p tag) s = .next s) ∧
    (∀ r x k id f, asked = some r → s.ctxs = [(x, k)] → s.runs x = true → k.infl = [(id, f)] → f.phase = .logged tag →
      k.queues = [] → k.cores = [] → s.hst.waits = [] →
      let replays := fun (t : State) => (tfind (t.ctxAt x).infl id).map InFlight.phase = some .replay ∧
        ∀ u ∈ t.tr.recs, u.notice = true ∨ u.tag ≠ tag
      (∃ t, exec (.frespRetry p tag) s = .next t ∧ replays t ∧ (t.ctxAt x).halt = none) ∧
      (∃ t h, exec (.frespError p tag) s = .next t ∧ replays t ∧ (t.ctxAt x).halt = some h ∧ h.trap.cause = inflCause f ∧
        h.trap.tval = f.ea ∧ h.trap.pc = f.pc ∧ h.trap.core = f.core ∧ h.trap.slot = f.slot)) ∧
    (exec (.accessCounterRearm n) s = .next { s with tr := { s.tr with counts := tdel n s.tr.counts } }) ∧
    (let busy := (s.winAt die).shoot
     let npg := (s.winAt die).npg
     (powered → busy ≠ none → exec (.shoot die v) s = .next (s.modWin die fun w => { w with shErr := true })) ∧
     (powered → busy = none → v.getLsbD 47 = false → npg = 0 →
      exec (.shoot die v) s = .next (s.modWin die fun w => { w with shErr := false })) ∧
     (powered → busy = none → v.getLsbD 47 = true ∨ npg ≠ 0 →
      exec (.shoot die v) s = .next (s.modWin die fun w => { w with shErr := false, shoot := some (v, npg) })) ∧
     (∀ c m, busy = some (c, m) → ∃ t, exec (.shootdownComplete die) s = .next t ∧ (t.winAt die).shoot = none ∧
      ∀ e, e ∈ t.tr.tlb ↔ e ∈ s.tr.tlb ∧ ¬(e.sid = c.extractLsb' 48 16 ∧ (c.getLsbD 47 = true ∨ m ≠ 0 ∧
        e.base < (c.extractLsb' 0 45).toNat * 4096 + m.toNat * 4096 ∧ (c.extractLsb' 0 45).toNat * 4096 < e.base + e.size)))) ∧
    (let r : Root := { sid := v.extractLsb' 48 16, en := v.getLsbD 40, root := v.extractLsb' 0 40 }
     let rsv := v.extractLsb' 41 7 ≠ 0#7
     (∀ off, rsv → exec (.ctxrootWrite die off v) s = .next s) ∧
     (∀ i, powered → i < 16 → ¬rsv → exec (.ctxrootWrite die (0x100 + 8 * i) v) s = .next (s.modCtx i fun k => { k with root := r })) ∧
     (∀ c, powered → c < 4 → ¬rsv →
      exec (.ctxrootWrite die (0x200 + 16 * c) v) s = .next (s.modCtl (5 * die + c) fun k => { k with uroot := r }) ∧
      (r.sid = 0 → exec (.ctxrootWrite die (0x208 + 16 * c) v) s = .next (s.modCtl (5 * die + c) fun k => { k with kroot := r })) ∧
      (r.sid ≠ 0 → exec (.ctxrootWrite die (0x208 + 16 * c) v) s = .next s))) ∧
    (v = 3 → s.boot.stage = .kernel → exec (.bootstatWrite die v) s =
      .next { s with boot := { s.boot with stage := .run, stat := 3 } }) ∧
    (v ≠ 3 ∨ s.boot.stage ≠ .kernel → exec (.bootstatWrite die v) s = .next s) ∧
    (let writes := fun (off : Nat) (ok : Prop) =>
      (powered → ok → ∃ t, exec (.configWindowWrite die off v) s = .next t ∧ t.winRead die off = v ∧ s.SameMem t) ∧
      (¬ok → exec (.configWindowWrite die off v) s = .next s)
     let low := v.extractLsb' 0 12 = 0#12
     writes 0x310 (v.extractLsb' 32 32 = 0#32) ∧ writes 0x700 low ∧
     (∀ q, q < 8 → writes (0x400 + 32 * q) low ∧ writes (0x408 + 32 * q) (v.extractLsb' 5 59 = 0#59) ∧
      writes (0x410 + 32 * q) True ∧ writes (0x418 + 32 * q) False) ∧
     (∀ i, i < 16 → writes (0x500 + 8 * i) low) ∧ (∀ i, i < 15 → writes (0x600 + 8 * i) (v.extractLsb' 2 62 = 0#62))) ∧
    (∀ line, regionOf (128 * line) = some .host →
      let rts := match tfind s.coh.l2 line with
        | some l => l.rts
        | none => s.mtsOf line
      (s.storesTo line = true → exec (.hostSnoop line) s = .next s) ∧
      (s.boot.stage = .run → s.storesTo line = false → tle rts (s.dieFloor 0) = true → rts ≠ s.dieFloor 0 →
        ∃ t, exec (.hostSnoop line) s = .next t ∧ tfind t.coh.l2 line = none ∧ t.hst.ret = s.lineBytes line)) ∧
    (∀ pa, s.boot.stage = .run → pa < 0x00C000000000 → pa % 128 + n ≤ 128 →
      let ln := pa / 128
      let addr := s.hst.hdmbase + pa
      (ln ∈ s.hst.held ∨ s.filterFull (lineHome ln) = false →
        (∃ t, exec (.hostMemoryAccess addr n none) s = .next t ∧ t.hst.ret = s.curRead pa n ∧ ln ∈ t.hst.held ∧ s.SameMem t) ∧
        (∀ b, alone → ∃ t, exec (.hostMemoryAccess addr n (some b)) s = .next t ∧ Stores s t pa (b.take n) ∧ ln ∈ t.hst.held)) ∧
      (ln ∉ s.hst.held → s.filterFull (lineHome ln) = true → ∀ wr, ∃ t q, exec (.hostMemoryAccess addr n wr) s = .next t ∧
        q ∈ s.hst.held ∧ q ∈ t.hst.inval ∧ s.SameMem t)) ∧
    (∀ line, (line ∈ s.hst.inval → ∃ t, exec (.backInvalidationResponse line) s = .next t ∧ line ∉ t.hst.inval ∧
        line ∉ t.hst.held) ∧ (line ∉ s.hst.inval → exec (.backInvalidationResponse line) s = .next s)) ∧
    (powered → exec (.hdmbaseWrite n) s = .next { s with hst := { s.hst with hdmbase := n } }) ∧
    (∀ src sid i root, (i, root) ∈ [(Instr.herborInboundAccess src sid v n .rd, s.ctxRoot (BitVec.ofNat 16 sid)),
        (.storagePathRequest sid v n none, s.rootOf (BitVec.ofNat 16 sid))] →
      s.boot.stage = .run → v.toNat % 4096 + n ≤ 4096 → v = (v.setWidth 57).signExtend 64 →
      (root = none → exec i s = .next s) ∧
      (∀ r, root = some r →
        let x := s.translate { die := 0, root := r, user := true, rd := true } v
        (∀ s2 pa cc ac, x = .ok s2 pa cc ac → regionOf pa ≠ some .herbor →
          (∀ l, pa / 128 ≤ l → l ≤ (pa + n - 1) / 128 → tfind s2.coh.l2 l ≠ none) ∨ (s2.coh.reps = [] ∧ s2.coh.msgs = []) →
          ∃ t, exec i s = .next t ∧ t.hst.ret = s2.curRead pa n) ∧
        (∀ kind level size, x = .flt kind level size → ∃ t q, exec i s = .next t ∧ (q, i) ∈ t.hst.waits ∧ s.SameMem t) ∧
        (∀ s2, x = .wait s2 → ∃ t ln, exec i s = .next t ∧ ln ∈ t.hst.inval ∧ (hostTag + ln, i) ∈ t.hst.waits ∧ s.SameMem t) ∧
        (∀ c, x = .trap c → exec i s = .next s))) ∧
    (∀ src sid b (o : AtomOp) (ops : List Word), s.boot.stage = .run → v = (v.setWidth 57).signExtend 64 →
      let plain := fun (s2 : State) (pa m : Nat) => regionOf pa ≠ some .herbor ∧ s2.coh.reps = [] ∧ s2.coh.msgs = [] ∧ s2.Inv ∧
        ∀ l, pa / 128 ≤ l → l ≤ (pa + m - 1) / 128 → l ∉ s2.hst.held
      (∀ i r s2 pa cc ac, (i, some r) ∈ [(Instr.herborInboundAccess src sid v n (.wr b), s.ctxRoot (BitVec.ofNat 16 sid)),
          (.storagePathRequest sid v n (some b), s.rootOf (BitVec.ofNat 16 sid))] → 0 < n →
        v.toNat % 4096 + n ≤ 4096 → s.translate { die := 0, root := r, user := true, wr := true } v = .ok s2 pa cc ac →
        plain s2 pa n → ∃ t, exec i s = .next t ∧ Stores s2 t pa (b.take n)) ∧
      (∀ r s2 pa cc ac, s.ctxRoot (BitVec.ofNat 16 sid) = some r → v.toNat % atomSize o = 0 →
        s.translate { die := 0, root := r, user := true, rd := true, wr := true } v = .ok s2 pa cc ac → plain s2 pa (atomSize o) →
        ∃ t, exec (.herborInboundAccess src sid v n (.at' o ops)) s = .next t ∧ t.hst.ret = s2.curRead pa (atomSize o) ∧
          Stores s2 t pa (leBytes (atomNew o (leVal (s2.curRead pa (atomSize o))) ops) (atomSize o))))

/-! ## Threads, launches, blocks, partitions -/

/-- R124, R126, R128, R149: once in an even clock a thread that has waited in the pond for its release is formed into a bundle at
its home lane; a thread that its bundle has waited 64 clocks for leaves the bundle with the word it waits at (log 2); a sleeping thread whose count has run out
enters the pond. The model's choice: the lowest free bundle number (log 18). -/
def Obligations.BundlesAndSleep : Prop :=
  ∀ (s : State) (x c slot : Nat),
    let k := (s.ctxAt x).coreAt c
    let T := Tid.cmp x c slot
    let th := k.thrAt slot
    (s.clock % 2 = 1 ∨ s.going x = false ∨ k.formed = some s.clock → exec (.formationCycle x c) s = .next s) ∧
    (∀ a r p, s.clock % 2 = 0 → s.going x = true → k.formed ≠ some s.clock → k.threads = [(slot, th)] → k.bundles = [] → th.par.place = .pond a r p →
      a < s.clock →
      (r ≤ s.clock → ∃ t, exec (.formationCycle x c) s = .next t ∧ (t.thr T).par.place = .bundle 0 ∧ (t.thr T).pc = th.pc ∧
        (((t.ctxAt x).coreAt c).bundleAt 0).lanes = [(slot, th.par.tidx % 32)]) ∧
      (s.clock < r → ∃ t, exec (.formationCycle x c) s = .next t ∧ t.thr T = th ∧ ((t.ctxAt x).coreAt c).bundles = [] ∧
        ((t.ctxAt x).coreAt c).formed = some s.clock)) ∧
    (∀ b, th.par.place = .bundle b → tfind (k.bundleAt b).waits slot = none → exec (.threadSplit T) s = .next s) ∧
    (∀ b w, th.par.place = .bundle b → tfind (k.bundleAt b).waits slot = some w → slot ∉ (k.bundleAt b).did.map Prod.fst →
      (s.clock < w + 64 → exec (.threadSplit T) s = .next s) ∧
      (w + 64 ≤ s.clock → ∃ t, exec (.threadSplit T) s = .next t ∧
        t.thr T = { th with iss := th.iss.or (k.bundleAt b).op, par := { th.par with place := .parked .split } } ∧
        slot ∉ (((t.ctxAt x).coreAt c).bundleAt b).lanes.map Prod.fst)) ∧
    (∀ w, th.par.place = .parked (.sleep w) →
      (s.clock < w ∨ (s.ctxAt x).halt ≠ none → exec (.sleepExpiry T) s = .next s) ∧
      (w ≤ s.clock → (s.ctxAt x).halt = none → ∃ t, exec (.sleepExpiry T) s = .next t ∧
        (t.thr T).par.place = .pond s.clock s.clock false ∧ (t.thr T).pc = th.pc ∧ (t.thr T).g = th.g)) ∧
    (∀ n w, (s.ctlAt n).sleep = some w → w ≤ s.clock →
      exec (.sleepExpiry (.ctl n)) s = .next (s.modCtl n fun u => { u with sleep := none }))

/-- R164, R165, R167, R170 to R173, R175, R178, R189: a doorbell enters its record or counts a drop; the distributor reads a
record, rejects it, waits for a page, or makes a launch of it, bound when its counter read 0 as the record reached the head of
its queue or has fired since; the next block goes to the first core from the pointer on that
has room, its threads start at ENTRY with their seeds; a block retires when nothing of it is outstanding, and the completion
of its launch decrements counter EVD; a bin's timer launches its oldest records, of which a template page that forbids the read rejects
the launch and an absent one keeps them with a fault record; a partition's cores start empty; a block
moves to another core whole. The model's choices: the lowest free slots (log 18), a bin whose template cannot be read (log 32), the timer of a bin at rest (log 87),
the sizes and number of partitions (logs 63, 77), a doorbell before RUN (log 58), a queue configured again and a doorbell
address that is no record's (logs 74, 75). -/
def Obligations.LaunchesAndBlocks : Prop :=
  ∀ (s : State) (x q p c bs l n : Nat),
    let k := s.ctxAt x
    let u := k.queueAt q
    let zeros := fun (h : QRec) => ∀ n, n < 64 → (h.fired.getLsbD n = true ↔ k.evAt n = 0)
    let told := fun (t : State) (p : Nat) =>
      8 ∈ (t.ctlAt (5 * s.partDie p + ((tget 0 (s.winAt (s.partDie p)).iroute 8).extractLsb' 0 2).toNat)).irqs
    (∀ addr, (s.boot.stage ≠ .run → exec (.doorbell x q addr) s = .next s) ∧
      (s.boot.stage = .run → u.cfg = true → u.recs.length < 256 → ∃ t, exec (.doorbell x q addr) s = .next t ∧
        ∃ h : QRec, (t.ctxAt x).queueAt q = { u with recs := u.recs ++ [h] } ∧ h = { addr := addr, fired := h.fired } ∧
          (u.recs = [] → zeros h) ∧ (u.recs ≠ [] → h.fired = 0)) ∧
      (s.boot.stage = .run → (u.cfg = false ∨ 256 ≤ u.recs.length) → ∃ t, exec (.doorbell x q addr) s = .next t ∧
        (t.ctxAt x).queueAt q = { u with drops := min (u.drops + 1) 0xFFFFFFFF } ∧ told t (x / 2))) ∧
    (∀ prio, (s.boot.stage = .off ∨ 11 < prio ∨ 63 < q → exec (.queueConfiguration x q prio) s = .next s) ∧
      (s.boot.stage ≠ .off → prio ≤ 11 → q ≤ 63 → ∃ t, exec (.queueConfiguration x q prio) s = .next t ∧
        (t.ctxAt x).queueAt q = { cfg := true, prio := prio, recs := u.recs })) ∧
    (∀ h rest, u.recs = h :: rest → s.runs x = true → h.launch = none → h.tag = none →
      let ok := h.addr = (h.addr.setWidth 57).signExtend 64 ∧ h.addr.extractLsb' 0 6 = 0#6
      let rejects := ∃ t, exec (.launchRecordRead x q) s = .next t ∧ told t (x / 2) ∧
        (let l := ((t.ctxAt x).queueAt q).recs
         l.map QRec.addr = rest.map QRec.addr ∧ l.drop 1 = rest.drop 1 ∧ ∀ h ∈ l.head?, zeros h)
      (¬ok → rejects) ∧
      (ok → s.distBytes x h.addr 128 = .bad → rejects) ∧
      (∀ s1, ok → s.distBytes x h.addr 128 = .wait s1 → exec (.launchRecordRead x q) s = .next s1) ∧
      (∀ kind level size va, ok → s.distBytes x h.addr 128 = .flt kind level size va →
        ∃ t tag, exec (.launchRecordRead x q) s = .next t ∧ ((t.ctxAt x).queueAt q).recs = { h with tag := some tag } :: rest ∧
          ∃ r ∈ t.tr.recs, r.tag = tag) ∧
      (∀ s1 b, ok → s.distBytes x h.addr 128 = .ok s1 b → h.bin = none → (s1.ctxAt x).queueAt q = u →
        let bits := BitVec.ofNat 1024 (leVal b)
        let r := LRec.ofBits bits
        let id := (s1.ctxAt x).nextId
        recZero bits = true → r.ok = true → r.cohort = false → r.narg = 0 → r.gn = 0 →
        ∃ t a, exec (.launchRecordRead x q) s = .next t ∧ tfind (t.ctxAt x).launches id = some a ∧
          a.r = { r with argw := [] } ∧ a.queue = q ∧ a.next = 0 ∧ a.live = 0 ∧
          (a.bound = true ↔ ∀ n, r.evb = some n → h.fired.getLsbD n = true) ∧
          ((t.ctxAt x).queueAt q).recs = { h with launch := some id } :: rest)) ∧
    (let w := s.partAt p
     (w.active = none → exec (.blockPlace p) s = .next s) ∧
     (∀ b, w.active = some b → w.placed = some s.clock → exec (.blockPlace p) s = .next s) ∧
     (∀ b h rest l c, w.active = some b → x = 2 * p + b → b < 2 → s.runs x = true → w.placed ≠ some s.clock →
      k.queues = [(q, u)] → u.recs = h :: rest → h.launch = some l → h.tag = none →
      let a := k.launchAt l
      let r := a.r
      a.bound = true → r.overlap = true → r.cohort = false → a.listed = true → a.grp = [] → a.recs = [] →
      ((ringFrom (s.coreCount p) w.ptr).find? fun c => !s.fenced.contains (s.physOf x c) && (k.coreAt c).fits r.nthr (8 * r.regn) r.spq) = some c →
      s.jumpOk (s.physOf x c) (a.time.getD (s.coreAt (s.physOf x c)).lt) = true →
      ∃ t bs, exec (.blockPlace p) s = .next t ∧ tfind (k.coreAt c).blocks bs = none ∧
        (let kc := (t.ctxAt x).coreAt c
         let blk := kc.blkAt bs
         blk.launch = l ∧ blk.bidx = BitVec.ofNat 32 a.next ∧ blk.nthr = r.nthr ∧ blk.spq = r.spq ∧
         ((t.ctxAt x).launchAt l).next = a.next + 1 ∧ ((t.ctxAt x).launchAt l).live = a.live + 1 ∧
         (t.partAt p).placed = some s.clock ∧ (t.partAt p).ptr = (c + 1) % max 1 (s.coreCount p) ∧
         ∀ i, i < r.nthr → ∃ slot th, tfind kc.threads slot = some th ∧ tfind (k.coreAt c).threads slot = none ∧
           th.par.blk = bs ∧ th.par.tidx = i ∧ th.pc = r.entry ∧ th.alloc = 8 * r.regn ∧ th.ar 6 = BitVec.ofNat 64 r.args ∧
           (let v := r.seed ^^^ (BitVec.ofNat 32 a.next <<< 10) ^^^ BitVec.ofNat 32 i
            th.srseed = if v = 0 then 0x9E3779B9 else v) ∧
           ∀ j v, r.argw[j]? = some v → th.gr j = v))) ∧
    (∀ b h rest l t0, (s.partAt p).active = some b → x = 2 * p + b → u.recs = h :: rest → h.launch = some l →
      (k.launchAt l).since = some t0 →
      (t0 + 14400 ≤ s.clock → ∃ t, exec (.priorityWaitExpiry p q) s = .next t ∧ ((t.ctxAt x).launchAt l).starved = true) ∧
      (s.clock < t0 + 14400 → (k.launchAt l).starved = false → exec (.priorityWaitExpiry p q) s = .next s)) ∧
    (∀ b, tfind (k.coreAt c).blocks bs = some b →
      (s.blockDone x c bs = false → exec (.blockRetire x c bs) s = .next s) ∧
      (s.blockDone x c bs = true → ∃ t, exec (.blockRetire x c bs) s = .next t ∧
        (let kc := (t.ctxAt x).coreAt c
         tfind kc.blocks bs = none ∧ (∀ e ∈ kc.threads, e.2.par.blk ≠ bs) ∧ (∀ e ∈ kc.stt, e.1.1 ≠ bs) ∧
         ((t.ctxAt x).launchAt b.launch).live = (k.launchAt b.launch).live - 1 ∧ s.SameMem t ∧
         (b.spawned = true → b.bidx ∈ ((t.ctxAt x).launchAt b.launch).gone) ∧
         (b.groups = [] → (t.ctxAt x).halt = k.halt)))) ∧
    (∀ a, tfind k.launches l = some a →
      (a.next ≠ a.r.blocks ∨ a.live ≠ 0 → exec (.launchComplete x l) s = .next s) ∧
      (a.next = a.r.blocks → a.live = 0 → ∃ t, exec (.launchComplete x l) s = .next t ∧
        tfind (t.ctxAt x).launches l = none ∧
        (a.r.evd = none → (t.ctxAt x).ev = k.ev) ∧
        (∀ n, a.r.evd = some n → (t.ctxAt x).evAt n = if k.evAt n = 0 then 0 else k.evAt n - 1) ∧
        (∀ n, a.r.evd = some n → k.evAt n = 1 → k.bins = [] →
          (∀ e ∈ (t.ctxAt x).launches, e.2.r.evb = some n → e.2.bound = true) ∧
          ∀ e ∈ (t.ctxAt x).queues, ∀ h ∈ e.2.recs.head?, n < 64 → h.fired.getLsbD n = true))) ∧
    (let v := k.binAt n
     let tmpl : Dword := ((v.entry.extractLsb' 6 51 ++ 0#6).signExtend 64)
     let count := min (v.entry.extractLsb' 108 11).toNat v.recs.length
     ∀ t0, v.timer = some t0 →
      (s.clock < t0 + 1800 * (v.entry.extractLsb' 92 16).toNat ∨ k.halt ≠ none → exec (.binTimerExpiry x n) s = .next s) ∧
      (t0 + 1800 * (v.entry.extractLsb' 92 16).toNat ≤ s.clock → k.halt = none → v.recs ≠ [] → v.tag ≠ none →
        ∃ t, exec (.binTimerExpiry x n) s = .next t ∧ ((t.ctxAt x).binAt n).recs = v.recs ∧ ((t.ctxAt x).binAt n).tag = v.tag ∧
          (t.ctxAt x).queues = k.queues) ∧
      (t0 + 1800 * (v.entry.extractLsb' 92 16).toNat ≤ s.clock → k.halt = none → v.recs ≠ [] → v.tag = none →
        (s.distBytes x (tmpl + 16) 8 = .bad → ∃ t, exec (.binTimerExpiry x n) s = .next t ∧ told t (x / 2) ∧
          (((t.ctxAt x).binAt n).recs = v.recs.drop count ∨ ((t.ctxAt x).binAt n).recs = v.recs.drop (2 * count))) ∧
        (∀ kind level size va, s.distBytes x (tmpl + 16) 8 = .flt kind level size va →
          ∃ t tag, exec (.binTimerExpiry x n) s = .next t ∧ ((t.ctxAt x).binAt n).recs = v.recs ∧
            ((t.ctxAt x).binAt n).tag = some tag ∧ ∃ r ∈ t.tr.recs, r.tag = tag) ∧
        ∀ s1 b, s.distBytes x (tmpl + 16) 8 = .ok s1 b → s1.ctxs = s.ctxs →
          let u := k.queueAt (leVal b / 2 ^ 20 % 64)
          (u.cfg = true → u.recs.length < 256 → ∃ t, exec (.binTimerExpiry x n) s = .next t ∧
            (v.recs.length < 2 * (v.entry.extractLsb' 108 11).toNat →
              (∃ h : QRec, ((t.ctxAt x).queueAt (leVal b / 2 ^ 20 % 64)).recs = u.recs ++ [h] ∧
                h = { addr := tmpl, bin := some (v.recs.take count), time := v.time, fired := h.fired }) ∧
              ((t.ctxAt x).binAt n).recs = v.recs.drop count) ∧
            (((t.ctxAt x).binAt n).recs = v.recs.drop count ∨ ((t.ctxAt x).binAt n).recs = v.recs.drop (2 * count))) ∧
          (u.cfg = false ∨ 256 ≤ u.recs.length → ∃ t, exec (.binTimerExpiry x n) s = .next t ∧
            ((t.ctxAt x).binAt n).recs = v.recs ∧ (t.ctxAt x).queueAt (leVal b / 2 ^ 20 % 64) = u))) ∧
    (∀ g : PartCfg,
      let others := s.parts.filterMap fun e => if e.1 = p then none else e.2.cfg
      (s.boot.stage ≠ .run ∨ 7 < p ∨ 4 < g.s ∨ g.first % 64 ≠ 0 ∨ g.count % 64 ≠ 0 ∨ s.idle p = false → exec (.partitionConfiguration p g) s = .next s) ∧
      (s.boot.stage = .run → p ≤ 7 → g.s ≤ 4 → 0 < g.count → g.first + g.count ≤ 512 → g.first % 64 = 0 → g.count % 64 = 0 →
        (g.count = 64 ∨ g.first % 128 = 0 ∧ g.count % 128 = 0) → s.idle p = true →
        (∀ e ∈ s.parts, e.1 ≠ p → ∀ h, e.2.cfg = some h → g.first + g.count ≤ h.first ∨ h.first + h.count ≤ g.first) →
        (∃ m ∈ [1, 2, 4, 8], others.length + 1 ≤ m ∧
          m ≤ others.length + 1 + (8 - (g.count / 64 + (others.map fun h => h.count / 64).sum))) →
        ∃ t, exec (.partitionConfiguration p g) s = .next t ∧ (t.partAt p).cfg = some g ∧ (t.partAt p).ptr = 0 ∧
          ∀ c, c < g.count → (t.coreAt (g.first + c)).l1 = [] ∧ (t.coreAt (g.first + c)).hand = 0)) ∧
    (∀ dst b, tfind (k.coreAt c).blocks bs = some b →
      (s.migrateRefused x c bs dst = true ∨ s.settled x c bs = false → exec (.blockMigrate x c bs dst) s = .next s) ∧
      (s.migrateRefused x c bs dst = false → s.settled x c bs = true → ((k.coreAt c).ofBlk bs).length ≤ b.nthr →
        ∃ t nb, exec (.blockMigrate x c bs dst) s = .next t ∧ tfind ((t.ctxAt x).coreAt c).blocks bs = none ∧
          tfind (k.coreAt dst).blocks nb = none ∧ tfind ((t.ctxAt x).coreAt dst).blocks nb = some { b with parent := none } ∧ s.SameMem t ∧
          ∀ e ∈ (k.coreAt c).ofBlk bs, ∃ sl, tfind (k.coreAt dst).threads sl = none ∧
            (let th := ((t.ctxAt x).coreAt dst).thrAt sl
             th.par.blk = nb ∧ th.par.tidx = e.2.par.tidx ∧ th.pc = e.2.pc ∧ th.g = e.2.g ∧ th.p = e.2.p ∧ th.a = e.2.a ∧
             th.m = e.2.m ∧ th.k = e.2.k ∧ th.hints = e.2.hints)))

/-! ## Scratchpad pages and engine steps -/

/-- R181, R183, R184, R186: the Fixer takes the lowest free frame, or the victim of its clock; a page first touched is zeros,
another is read from its backing address, and a refusal there is the scratchpad-backing trap; a page is resident, referenced
and in its frame when its fill completes; a victim's bytes go to its backing address, after which its frame is free or filled
for the fault that chose it; a page that has migrated is filled from the frame that holds it. -/
def Obligations.ScratchpadPages : Prop :=
  ∀ (s : State) (x c bs v : Nat),
    let k := (s.ctxAt x).coreAt c
    let e := k.page bs v
    let phys := s.physOf x c
    let fault := Instr.scratchpadPageFault x c bs v
    let fill := Instr.pageFillComplete x c bs v
    let ack := Instr.writeOutAck x c bs v
    let first := (k.want.filter (s.unserved x c)).head? = some (bs, v)
    let coreOf := fun (t : State) (b : Nat) => (t.ctxAt b).coreAt c
    (s.runs x = false ∨ ¬first → exec fault s = .next s) ∧
    (s.runs x = true → first → s.xferCount x c < 16 →
      (∀ f, f < s.frameCount x → s.frameFree x c f = true → (∀ g, g < f → s.frameFree x c g = false) →
        exec fault s = .next (s.modCore x c fun k =>
          { k with xfers := k.xfers ++ [{ bs := bs, vpn := v, out := false, frame := f }] })) ∧
      (∀ b hc vb vv, (∀ g, g < s.frameCount x → s.frameFree x c g = false) → 0 < s.frameCount x →
        s.pageIn x c (s.coreAt phys).hand = some (b, hc, vb, vv) →
        let entry := fun (t : State) => ((t.ctxAt b).coreAt hc).page vb vv
        let u := entry s
        let h := (s.coreAt phys).hand
        let at' := if hc = c then none else some hc
        u.pin = 0 → u.infl = false → u.fix = false → u.ref = false →
        (∀ m ∈ ((s.ctxAt b).coreAt hc).xfers, m.out = false → (m.bs, m.vpn) ≠ (vb, vv)) →
        ∃ t, exec fault s = .next t ∧ (t.coreAt phys).hand = (h + 1) % s.frameCount x ∧
          (entry t).res = false ∧ (entry t).fix = u.dirty ∧
          (u.dirty = true → (coreOf t b).xfers =
            (coreOf s b).xfers ++ [{ bs := vb, vpn := vv, out := true, frame := h, want := some (x, bs, v), home := at' }]) ∧
          (u.dirty = false → (coreOf t x).xfers =
            (coreOf s x).xfers ++ [{ bs := bs, vpn := v, out := false, frame := h }]))) ∧
    (∀ f, k.xfers = [f] → f.bs = bs → f.vpn = v → f.tag = none → s.Inv → (s.ctxAt x).infl = [] →
      (f.out = false →
        (e.zero = true → (k.blkAt bs).rings = [] → ∃ t, exec fill s = .next t ∧
          (let u := (coreOf t x).page bs v
           u.res = true ∧ u.frame = f.frame ∧ u.zero = false ∧ u.dirty = true ∧ u.ref = true) ∧
          (coreOf t x).xfers = [] ∧ (bs, v) ∉ (coreOf t x).want ∧ (∀ a, a < 2048 → t.spByte x c bs (2048 * v + a) = 0) ∧
          s.SameMem t) ∧
        (∀ sc sf, e.zero = false → e.held = some (sc, sf) → ∃ t, exec fill s = .next t ∧
          (let u := (coreOf t x).page bs v
           u.res = true ∧ u.frame = f.frame ∧ u.held = none ∧ u.dirty = e.dirty) ∧ (coreOf t x).xfers = [] ∧
          ∀ a, a < 2048 → t.spByte x c bs (2048 * v + a) = memGet (s.coreAt (s.physOf x sc)).frames (sf * 2048 + a)) ∧
        (∀ s1 pa cc ac via, e.zero = false → e.held = none → s.xFixer x c e.baddr false = (.ok s1 pa cc ac, via) →
          let s2 := (List.range 16).foldl (fun s i => s.ensureLine (pa / 128 + i) (s.dieOf x c) (x / 2) ac) s1
          ∃ t, exec fill s = .next t ∧
            (let u := (coreOf t x).page bs v
             u.res = true ∧ u.frame = f.frame ∧ u.dirty = false ∧ u.ref = true) ∧ (coreOf t x).xfers = [] ∧
            ∀ a, a < 2048 → t.spByte x c bs (2048 * v + a) =
              if regionOf pa = some .herbor then s1.farByte (pa + a) else s2.curByte (pa + a)) ∧
        (∀ kind level size via, e.zero = false → e.held = none → s.xFixer x c e.baddr false = (.flt kind level size, via) →
          ∃ t tag, exec fill s = .next t ∧ (coreOf t x).xfers = [{ f with tag := some tag }] ∧ ∃ r ∈ t.tr.recs, r.tag = tag) ∧
        (∀ s1 via, e.zero = false → e.held = none → s.xFixer x c e.baddr false = (.wait s1, via) → exec fill s = .next s1) ∧
        (∀ cause via, s.runs x = true → e.zero = false → e.held = none → s.xFixer x c e.baddr false = (.trap cause, via) →
          exec fill s = .next ((s.modCore x c fun k => { k with failed := some f }).unitTrap x c 0 7 0 0x24 (backAddr e.baddr)))) ∧
      (∀ s1 pa cc ac via, f.out = true → f.home = none → s.xFixer x c e.baddr true = (.ok s1 pa cc ac, via) →
        s1.coh.reps = [] → s1.coh.msgs = [] → s1.Inv → pa % 2048 = 0 → pa < 0x00C000000000 →
        (∀ l, pa / 128 ≤ l → l < pa / 128 + 16 → l ∉ s1.hst.held) → (bs, v) ∉ k.want →
        ∃ t, exec ack s = .next t ∧
          Stores s1 t pa (f.data.getD (memRead (s.coreAt phys).frames (f.frame * 2048) 2048)) ∧
          ((coreOf t x).page bs v).fix = false ∧ ((coreOf t x).page bs v).dirty = false ∧
          (f.want = none → (coreOf t x).xfers = []) ∧
          (∀ p, f.data = none → f.want = some (x, p) → p ∈ k.want → (k.page p.1 p.2).fix = false → s.runs x = true → (coreOf t x).xfers =
            [{ bs := p.1, vpn := p.2, out := false, frame := f.frame }])))

/-- R262, R264, R267, R271, R272, R292: an engine begins the next step of the command at the head of its queue, waiting for
pages that are not resident, and computes what the instruction's rule gives (StepResult), from elements at the addresses of
R258; ACCZ's step clears its tile; a step's writes are performed when it retires, and the command goes
on to the next step or, after its last, leaves the queue; a sealed batch whose commands have retired writes its number to the
token; a joint command waits in its gang's latch until the last member arrives, where commands that differ are the
gang-mismatch trap; in a stopped partition no batch completes. The model's readings: the details of log 43, that the A elements of a
row with illegal metadata record no INV or SCALE (log 48), that a BX4 element with a quotient above 6 records OVF (log 64), and that
causes are recorded where a tensor has no poison map (log 68). -/
def Obligations.EngineSteps : Prop :=
  ∀ (s : State) (x c slot : Nat) (q : EngQ),
    let k := (s.ctxAt x).coreAt c
    let coreOf := fun (t : State) => (t.ctxAt x).coreAt c
    let T := Tid.cmp x c slot
    let step := Instr.engineStep x c q
    let retire := Instr.stepRetire x c q
    let arrive := Instr.gangArrival x c
    (k.q q = [] → exec step s = .next s ∧ exec retire s = .next s) ∧
    (∀ m rest, k.q q = m :: rest → m.gang = none →
      let lone := s.engineFree x c q = true ∧ m.busy = none ∧ m.tags = [] ∧ (m.step ≠ 0 ∨ chainBad k m = false)
      let done := 0 < m.step ∧ m.steps.length ≤ m.step
      (¬done ∨ m.trapped = true → s.engineFree x c q = false ∨ m.busy ≠ none ∨ m.tags ≠ [] → exec step s = .next s) ∧
      (lone → m.nextStep = none → m.hints.event = none → ∃ t, exec step s = .next t ∧ (coreOf t).q q = rest ∧ s.SameMem t) ∧
      (∀ f w, lone → m.nextStep = some f → w ∈ f.pages → (k.page m.blk w).res = false →
        ∃ t, exec step s = .next t ∧ (coreOf t).q q = { m with state := 4 } :: rest ∧ (m.blk, w) ∈ (coreOf t).want) ∧
      (∀ f, lone → m.nextStep = some f → (∀ w ∈ f.pages, (k.page m.blk w).res = true ∧ (k.page m.blk w).pin < 63) →
        k.pageWaits q m.blk f = false → (∀ w ∈ f.wpages, (k.page m.blk w).pin = 0) →
        ((∀ r ∈ f.rgs, r.sp = false → r.wr = true) ∨ s.olderStores x c m = false) →
        let found := f.gpages.foldl (fun (u : Found) p => u.page x c p) ({ s := s } : Found)
        found.trap = none → found.tags = [] → found.wait = false →
        ((found.s.ctxAt x).ckpt.on = false ∨
          ∀ p ∈ f.gpages, p.wr = true → ∀ a, tfind found.pm p.pg = some a → outboundPa a.1 = false) →
        let s1 := found.fill x c f
        let e : Env := { s := s1, x := x, c := c, blk := m.blk, pm := found.pm.map fun u => (u.1, u.2.1) }
        let effect := e.effect ((s1.ctxAt x).coreAt c) m f
        (∀ g, effect = some g → ∃ t, exec step s = .next t ∧
          (coreOf t).q q = { m with state := 0, busy := some (g.place e.pm f.pages) } :: rest ∧ s1.SameMem t) ∧
        (effect = none → ∃ t h, exec step s = .next t ∧ (t.ctxAt x).halt = some h ∧
          h.trap = { cause := 0x27, tval := BitVec.ofNat 64 (256 * 5 + headHandle m.op), pc := m.pc, unit := 2 + engineOf q m,
                     core := c, slot := m.slot, clk := s.clock })) ∧
      (∀ pg n, lone → m.op = .accz pg n → m.step = 0 → ∃ t w, exec step s = .next t ∧
        (coreOf t).q q = { m with state := 0, busy := some w } :: rest ∧ w.glob = [] ∧ w.spad = [] ∧
        w.tiles = [(n.toNat, { k.tileAt n.toNat with cells := [], poison := 0, cause := 0 })] ∧ s.SameMem t) ∧
      (∀ w, m.busy = some w → m.step + 1 < m.steps.length → w.cause &&& ((m.fpmode.extractLsb' 13 5).toNat) = 0 → w.glob = [] →
        let went := fun (t : State) => ∃ m', (coreOf t).q q = m' :: rest ∧ m'.step = m.step + 1 ∧ m'.busy = none ∧
          m'.op = m.op ∧ m'.gen = w.gen ∧ m'.band = w.band
        (∀ n u, w.spad = [] → w.tiles = [(n, u)] → ∃ t, exec retire s = .next t ∧ went t ∧ s.SameMem t ∧
          (let v := (coreOf t).tileAt n
           v.cells = u.cells ∧ v.poison = u.poison ∧ v.cause = u.cause ∧ v.owner = (k.tileAt n).owner) ∧
          ∀ j, j ≠ n → (coreOf t).tileAt j = k.tileAt j) ∧
        (∀ a mask b, w.tiles = [] → w.spad = [(a, mask, b)] → (k.page m.blk (a / 2048)).res = true → s.Inv →
          ∃ t, exec retire s = .next t ∧ went t ∧ s.SameMem t ∧
            t.spByte x c m.blk a = (s.spByte x c m.blk a &&& ~~~mask) ||| (b &&& mask) ∧
            ((coreOf t).page m.blk (a / 2048)).dirty = true)) ∧
      (∀ w, m.busy = some w → m.step + 1 = m.steps.length → w.cause = 0 → w.glob = [] → w.spad = [] → m.hints.event = none →
        s.runs x = true →
        ∃ t, exec retire s = .next t ∧ (coreOf t).q q = rest ∧ s.SameMem t)) ∧
    (∀ (e : Env) (m : Cmd) (t : Stp) (f : Eff), t.clear = true ∨ t.n0 < t.n1 → e.effect k m t = some f → StepResult e k m t f) ∧
    (∀ (e : Env) (D : Desc) (n : Nat), e.elem D n = elementBits e D n ∧
      (D.fmt = 0xA →
        let band := bf16.dec (leVal [e.byte D.space (D.bandAddr (n / D.dim 0 / 64)), e.byte D.space (D.bandAddr (n / D.dim 0 / 64) + 1)])
        (finite band → finite (e.val D n).1 ∧ (e.val D n).2 = 0 ∧ ratOf (e.val D n).1 =
          ratOf (e2m1.dec (elementBits e D n)) * e3m5Value (e.byte D.space (D.sbase + n / 8)).toNat * ratOf band) ∧
        (¬finite band → e.val D n = (.fin false 0 0, 8)))) ∧
    (∀ b r, (s.thr T).par.batches = b :: r →
      (b.sealed = false ∨ b.left ≠ 0 ∨ (∃ h, (s.ctxAt x).halt = some h ∧ h.stopped = true) → exec (.copyBatchComplete T) s = .next s) ∧
      (∀ g, (s.ctxAt x).halt = none → b.sealed = true → b.left = 0 → b.time = none → b.token = some g → b.event = none →
        ∃ t, exec (.copyBatchComplete T) s = .next t ∧ (t.thr T).par.batches = r ∧
          (t.thr T).gr g = BitVec.ofNat 32 b.num ∧ .g g ∉ (t.thr T).pend ∧ (∀ j, j ≠ g → (t.thr T).gr j = (s.thr T).gr j))) ∧
    (∀ m rest, k.matrix = m :: rest →
      (m.gang = none ∨ m.inst ≠ none ∨ s.engineFree x c .matrix = false → exec arrive s = .next s) ∧
      (∀ g, m.gang = some g → m.inst = none → s.engineFree x c .matrix = true →
        let b := k.blkAt m.blk
        let la := (s.ctxAt x).launchAt b.launch
        let count := tget 0 la.latch (g, b.joint) + 1
        let members := grpCount (tget 0 la.grp g)
        let others := s.party x c .matrix { m with inst := some b.joint }
        let arrived := fun (t : State) (freed : Bool) =>
          (coreOf t).matrix = { m with inst := some b.joint, state := 3, freed := freed } :: rest ∧
          ((coreOf t).blkAt m.blk).joint = b.joint + 1 ∧
          tget 0 ((t.ctxAt x).launchAt b.launch).latch (g, b.joint) = count
        (count < members → ∃ t, exec arrive s = .next t ∧ arrived t false) ∧
        (members ≤ count → (∀ e ∈ others, e.2.sig = m.sig) → ∃ t, exec arrive s = .next t ∧ arrived t true ∧
          ∀ e ∈ others, ∀ n ∈ ((t.ctxAt x).coreAt e.1).matrix.head?, n.freed = true) ∧
        (members ≤ count → (∃ e ∈ others, e.2.sig ≠ m.sig) → ∃ t h, exec arrive s = .next t ∧ (t.ctxAt x).halt = some h ∧
          h.trap = { cause := 0x29, tval := BitVec.ofNat 64 g, pc := m.pc, unit := 2, core := c, slot := m.slot, clk := s.clock })))

/-! ## Halts, thread items, contexts, checkpoints, errors -/

/-- R95, R96, R97, R311, R314 to R316, R319: a partition whose units have stopped writes its header to its stop-record area
and raises its interrupt, once the host has given up the area's lines; RDTS and WRTS read and write an item of a thread of a halted partition with their status; RESUME
releases a halted partition, halts it again where its header has been changed, and reports a partition that is not halted. The
model's choices: an area at no memory stops the machine, and what an area without an address does (logs 52, 60); the places of the
records of an image (logs 54, 79). -/
def Obligations.HaltsAndThreadItems : Prop :=
  ∀ (s : State) (p x : Nat) (b : Nat),
    let k := s.ctxAt x
    let told := fun (t : State) (p : Nat) =>
      p ∈ (t.ctlAt (5 * s.partDie p + ((tget 0 (s.winAt (s.partDie p)).iroute p).extractLsb' 0 2).toNat)).irqs
    let alone := s.coh.reps = [] ∧ s.coh.msgs = [] ∧ s.Inv
    ((∀ y ∈ [2 * p, 2 * p + 1], ∀ h, (s.ctxAt y).halt = some h → h.stopped = true) → exec (.partitionStopped p) s = .next s) ∧
    ((s.partAt p).active = some b ∨ k.st = .spill ∨ k.st = .ready → x = 2 * p + b → b < 2 → (s.ctxAt (2 * p + (1 - b))).halt = none →
      (k.halt = none ∨ k.stepping = true → exec (.partitionStopped p) s = .next s) ∧
      (∀ h, k.halt = some h → h.stopped = false → k.stepping = false →
        (s.areaBase x = none → ∃ t, exec (.partitionStopped p) s = .next t ∧
          (t.ctxAt x).halt = some { h with stopped := true } ∧ told t p ∧ s.SameMem t ∧
          ∀ n q m, ((k.coreAt n).q q).head? = some m → (((t.ctxAt x).coreAt n).q q).head? =
            some (if m.state = 0 then { m with state := 2 } else m)) ∧
        (∀ a, s.areaBase x = some a → areaThere a = false → exec (.partitionStopped p) s = .fault (.noSuchAddress a)) ∧
        (∀ a ln, s.areaBase x = some a → areaThere a = true → ln ∈ s.hst.held → a / 128 ≤ ln → ln ≤ (a + (2 ^ 27 + 2 ^ 15)) / 128 →
          ∃ t, exec (.partitionStopped p) s = .next t ∧ ln ∈ t.hst.inval ∧ (t.ctxAt x).halt = some h ∧ s.SameMem t) ∧
        (∀ a, s.areaBase x = some a → a % 4096 = 0 → a < 0x00C000000000 → areaThere a = true → s.hst.held = [] → alone → k.cores = [] →
          ∃ t, exec (.partitionStopped p) s = .next t ∧ (t.ctxAt x).halt = some { h with stopped := true } ∧ told t p ∧
            (∀ c, c < a ∨ a + (2 ^ 27 + 2 ^ 15) ≤ c → memGet t.mem c = memGet s.mem c) ∧
            memRead t.mem (a + 0x8000) 64 = List.replicate 64 0 ∧
            memRead t.mem a 32 = leBytes (h.trap.tval ++ h.trap.pc ++ 0#7 ++ BitVec.ofNat 8 h.trap.cause ++
              BitVec.ofNat 4 h.trap.unit ++ BitVec.ofNat 9 h.trap.core ++ BitVec.ofNat 10 h.trap.slot ++ 0#17 ++
              BitVec.ofNat 16 h.ntrap ++ k.hseq ++ 0#31 ++ 1#1).toNat 32))) ∧
    (∀ (n : Nat) (pg : BitVec 3) (d g : BitVec 7), s.cur = .ctl n →
      let u := s.me.gr g.toNat
      let v := s.me.gr (g.toNat + 1)
      let part := (u.extractLsb' 29 3).toNat
      let core := (u.extractLsb' 20 9).toNat
      let slot := (u.extractLsb' 0 10).toNat
      let cls := (v.extractLsb' 24 8).toNat
      let idx := (v.extractLsb' 0 24).toNat
      let halted := s.haltedBank part
      let regs := [d.toNat, d.toNat + 1, g.toNat, g.toNat + 1]
      let reads := fun (w : Word) (st : Word) =>
        exec (.rdts pg d g) s = .next (s.did fun th => (th.setG d.toNat w).setG (d.toNat + 1) st)
      let fails := fun (st : Word) => exec (.wrts pg d g) s = .next (s.did fun th => th.setG (d.toNat + 1) st)
      let w := s.me.gr d.toNat
      (s.Runs (.rdts pg d g) pg regs [] {} .kernel →
        (halted = none → reads 0 1) ∧
        (∀ y, halted = some y →
          let kc := (s.ctxAt y).coreAt core
          (tfind kc.threads slot = none ∨ s.coreCount part ≤ core → reads 0 2) ∧
          (∀ th, tfind kc.threads slot = some th → core < s.coreCount part →
            (u.extractLsb' 10 10 ≠ 0#10 ∨ 9 < cls → reads 0 3) ∧
            (u.extractLsb' 10 10 = 0#10 →
              (cls = 0 → th.alloc ≤ idx → reads 0 3) ∧
              (cls = 0 → idx < th.alloc → (s.ctxAt y).infl = [] → (s.ctxAt y).msgs = [] → reads (th.gr idx) 0) ∧
              (cls = 2 → idx < 16 → reads ((th.ar (idx / 2)).extractLsb' (32 * (idx % 2)) 32) 0) ∧
              (cls = 3 → idx < 16 → reads ((th.mr (idx / 2)).extractLsb' (32 * (idx % 2)) 32) 0) ∧
              (cls = 4 → idx < 64 → reads ((th.kr (idx / 8)).extractLsb' (32 * (idx % 8)) 32) 0) ∧
              (cls = 5 → idx = 0 → reads (th.pc.extractLsb' 0 32) 0) ∧
              (cls = 5 → idx = 1 → reads ((th.pc.extractLsb' 32 25).zeroExtend 32) 0) ∧
              (cls = 9 → idx = 0 → th.par.place = .exited → (s.ctxAt y).infl = [] → (s.ctxAt y).msgs = [] → reads 3 0))))) ∧
      (s.Runs (.wrts pg d g) pg regs [] {} .kernel →
        (halted = none → fails 1) ∧
        (∀ y, halted = some y →
          let kc := (s.ctxAt y).coreAt core
          let T := Tid.cmp y core slot
          (tfind kc.threads slot = none ∨ s.coreCount part ≤ core → fails 2) ∧
          (∀ th, tfind kc.threads slot = some th → core < s.coreCount part →
            let writes := fun (f : Thread) => ∃ t, exec (.wrts pg d g) s = .next t ∧ t.thr T = f ∧
              t.me = (s.me.setG (d.toNat + 1) 0).past ∧ s.SameMem t ∧ ∀ q, q ≠ T → q ≠ s.cur → t.thr q = s.thr q
            (u.extractLsb' 10 10 ≠ 0#10 ∨ 9 < cls → fails 3) ∧
            (u.extractLsb' 10 10 = 0#10 →
              (cls = 9 → idx = 0 → fails 4) ∧
              (cls = 0 → th.alloc ≤ idx → fails 3) ∧
              (cls = 0 → idx < th.alloc → (s.ctxAt y).infl = [] → (s.ctxAt y).msgs = [] → writes (th.setG idx w)) ∧
              (cls = 2 → idx = 0 → writes (th.setA 0 ((th.ar 0).extractLsb' 32 32 ++ w))) ∧
              (cls = 3 → idx = 1 → writes (th.setM 0 (w ++ (th.mr 0).extractLsb' 0 32))) ∧
              (cls = 5 → idx = 0 → th.par.place = .bundle b →
                let new : BitVec 57 := th.pc.extractLsb' 32 25 ++ w.extractLsb' 2 30 ++ 0#2
                writes { th with pc := new, iss := none, entry := none, met := false, acq := none }))))) ∧
      (∀ m : BitVec 3, s.Runs (.resume pg d m) pg [d.toNat] [] {} .kernel →
        (s.haltedBank m.toNat = none → WritesG s (.resume pg d m) d 1) ∧
        (∀ y h, s.haltedBank m.toNat = some y → (s.ctxAt y).halt = some h →
          ((s.ctxAt y).area = [] → s.tr.late = [] → ∃ t, exec (.resume pg d m) s = .next t ∧ t.me.gr d.toNat = 0 ∧
            t.me.pc = s.me.past.pc ∧ (t.ctxAt y).halt = none ∧ ∀ c, ((t.ctxAt y).coreAt c).bundles = []) ∧
          (∀ a head, (s.ctxAt y).area = [(0, head)] → head.length = 32 → s.areaBase y = some a → a < 0x00C000000000 →
            areaThere a = true → s.hst.held = [] → s.curRead a 32 ≠ head →
            ∃ t h', exec (.resume pg d m) s = .next t ∧ t.me.gr d.toNat = 0 ∧ (t.ctxAt y).halt = some h' ∧
              h'.trap.cause = 0x2D ∧ h'.trap.tval = 0 ∧ h'.trap.unit = 8 ∧ h'.stopped = true ∧
              (t.ctxAt y).hseq = (s.ctxAt y).hseq + 1 ∧ told t (y / 2)))))

/-- R321 to R330: a swap sends the active bank out and brings a READY one in, or waits; a bank is saved to its area and
becomes FREE, a FREE one is loaded and becomes READY; a due checkpoint takes its snapshot at the cut, commits when the
writes before the cut are applied, and a rollback restores memory and context to the last committed cut; an uncorrectable
error acts by where it lies; a line of the kernel is restored; a lasting fault of a core or cluster excludes it and frees its
partition's banks; a fatal stop keeps memory and the dump that firmware writes. The model's choices: what the save and the load of
a bank hold (logs 54, 55, 79, 80), what stands where data is lost (log 52), when the cut is made, a rollback that waits and the record it follows (log 56),
who is told of a fault of the kernel's memory (log 57). -/
def Obligations.ContextsAndCheckpoints : Prop :=
  ∀ (s : State) (p a : Nat) (b : Nat), b < 2 →
    let x := 2 * p + b
    let y := 2 * p + (1 - b)
    let k := s.ctxAt x
    let w := s.partAt p
    let on := w.active = some b
    let told := fun (t : State) (n : Nat) (die : Nat) =>
      n ∈ (t.ctlAt (5 * die + ((tget 0 (s.winAt die).iroute n).extractLsb' 0 2).toNat)).irqs
    let die := s.partDie p
    let alone := s.coh.reps = [] ∧ s.coh.msgs = [] ∧ s.Inv
    (∀ ab, (w.cfg = none → exec (.swap p ab) s = .next s) ∧
      (w.cfg ≠ none → on →
        ((s.ctxAt y).st = .ready → ∃ t, exec (.swap p ab) s = .next t ∧ (t.partAt p).active = some (1 - b) ∧
          (t.partAt p).swap = none ∧ (t.ctxAt x).st = .spill ∧ (t.ctxAt y).st = .active) ∧
        ((s.ctxAt y).st = .free → ∃ t, exec (.swap p ab) s = .next t ∧ (t.partAt p).active = none ∧ (t.ctxAt x).st = .spill) ∧
        ((s.ctxAt y).st = .fill ∨ (s.ctxAt y).st = .spill ∨ ((s.ctxAt y).st = .snap ∧ ab = false) →
          ∃ t, exec (.swap p ab) s = .next t ∧ t.partAt p = { w with swap := some ab } ∧ t.ctxs = s.ctxs) ∧
        ((s.ctxAt y).st = .snap → ab = true → ∃ t, exec (.swap p ab) s = .next t ∧ (t.partAt p).active = none ∧
          (t.ctxAt x).st = .spill ∧ (t.ctxAt y).st = .free))) ∧
    (w.active = some (1 - b) → w.swap = none → k.st = .spill → (s.ctxAt y).st = .active →
      (k.settled = false ∨ s.activeFaults p = true → exec (.saveComplete p) s = .next s) ∧
      (k.settled = true → s.activeFaults p = false → (s.ctxAt y).ckpt.roll = false → (∀ e ∈ k.cores, e.2.stt = []) → s.hst.held = [] →
        let area := (tget 0 (s.winAt die).srarea x).toNat
        ∃ t i, exec (.saveComplete p) s = .next t ∧ t.ctxAt x = { root := k.root } ∧ tfind t.images area = some i ∧
          (∀ n, (i.coreAt n).threads = (k.coreAt n).threads ∧ (i.coreAt n).blocks = (k.coreAt n).blocks ∧
            (i.coreAt n).tiles = (k.coreAt n).tiles) ∧ i.halt = k.halt ∧ i.bind = k.bind ∧ i.td = k.td ∧
          i.launches = k.launches ∧ i.ev = k.ev ∧ i.infl = k.infl ∧ told t 10 die)) ∧
    ((s.ctxAt y).st ≠ .free ∨ areaThere a = false ∨ (s.ctxAt y).root.sid = 0 ∨ (s.ctxAt y).root.en = false → on →
      exec (.contextFill p a) s = .next s) ∧
    (w.cfg ≠ none → on → (s.ctxAt y).st = .free → areaThere a = true → (s.ctxAt y).root.sid ≠ 0 → (s.ctxAt y).root.en = true →
      (∀ i, tfind s.images a = some i → exec (.contextFill p a) s =
        .next (s.setCtx y { i with st := .fill, home := a, root := (s.ctxAt y).root })) ∧
      (tfind s.images a = none → ∃ t, exec (.contextFill p a) s = .next t ∧ (t.ctxAt y).st = .fill ∧ (t.ctxAt y).home = a ∧
        (t.ctxAt y).root = (s.ctxAt y).root ∧ (t.ctxAt y).launches = [] ∧ (t.ctxAt y).cores = [])) ∧
    (k.st = .fill → (s.ctxAt y).st = .active → w.swap = none → k.area = [] →
      (s.bindRsv k.home = false → ∃ t, exec (.fillComplete p) s = .next t ∧ (t.ctxAt x).st = .ready ∧ (t.ctxAt x).halt = k.halt ∧
        (t.ctxAt x).launches = k.launches) ∧
      (s.bindRsv k.home = true → s.areaBase x = none → ∃ t h, exec (.fillComplete p) s = .next t ∧ (t.ctxAt x).st = .ready ∧
        (t.ctxAt x).halt = some h ∧ h.stopped = true ∧ h.trap.cause = 0x2D ∧ h.trap.tval = 0x20)) ∧
    (on →
      let c := k.ckpt
      (∀ us areaB, (us < 1000 ∨ 10000000 < us ∨ a = areaB → exec (.checkpointEnable p us a areaB) s = .next s) ∧
        (1000 ≤ us → us ≤ 10000000 → a ≠ areaB → areaThere a = true → areaThere areaB = true →
          let from1 := c.intv + 1
          let new : Ckpt := { on := true, us := us, areaA := a, areaB := areaB, start := s.clock, intv := from1, done := from1 }
          exec (.checkpointEnable p us a areaB) s = .next (s.modCtx x fun k => { k with ckpt := new }))) ∧
      (c.on = false ∨ s.clock < c.start + 1800 * c.us → exec (.checkpointIntervalExpiry p) s = .next s) ∧
      (c.on = true → c.start + 1800 * c.us ≤ s.clock → exec (.checkpointIntervalExpiry p) s =
        .next (s.modCtx x fun k => { k with ckpt := { k.ckpt with due := true } })) ∧
      (c.on = false ∨ c.due = false ∨ k.halt ≠ none → exec (.snapshotSwap p) s = .next s) ∧
      (let target := if c.last = some false then c.areaB else c.areaA
       (c.on = true → c.due = true → k.halt = none → (s.ctxAt y).st = .free → k.cuttable = false →
        exec (.snapshotSwap p) s = .next s) ∧
       (c.on = true → c.due = true → k.halt = none → (s.ctxAt y).st = .free → k.infl = [] → k.leaving = false →
        ∃ t i, exec (.snapshotSwap p) s = .next t ∧ tfind t.images target = some i ∧ i.launches = k.launches ∧ i.ev = k.ev ∧
          (∀ n, (i.coreAt n).threads = (k.coreAt n).threads) ∧ (t.ctxAt y).st = .snap ∧
          (t.ctxAt x).ckpt = { c with due := false, start := s.clock, intv := c.intv + 1 } ∧ s.SameMem t) ∧
       ((s.ctxAt y).st ≠ .snap → exec (.checkpointCommit p) s = .next s) ∧
       (∀ e, (s.ctxAt y).st = .snap → e ∈ k.infl → e.2.unapplied = true → e.1 ∉ k.stuck (fun f => f.phase == .held) → e.2.epoch < c.intv →
        exec (.checkpointCommit p) s = .next s) ∧
       ((s.ctxAt y).st = .snap → k.infl = [] → s.hst.held = [] → ∃ t, exec (.checkpointCommit p) s = .next t ∧
        (t.ctxAt y).st = .free ∧ told t 11 die ∧ (t.partAt p).swap = w.swap ∧
        (alone → let kept := c.log.filter fun r => decide (c.intv ≤ r.intv)
         (t.ctxAt x).ckpt = { c with last := some (decide (c.last = some false)), done := c.intv, log := kept }))) ∧
      (c.on = false ∨ c.last = none → exec (.rollback p) s = .next s) ∧
      (∀ l i, c.on = true → c.last = some l → (s.ctxAt y).st = .free → s.fencedIn p = true →
        tfind s.images (if l then c.areaB else c.areaA) = some i → i.area = [] → s.hst.held = [] → ∃ t, exec (.rollback p) s = .next t ∧
          (t.ctxAt x).ckpt.roll = true ∧ told t 12 die) ∧
      (∀ l i, c.on = true → c.last = some l → (s.ctxAt y).st = .free → s.fencedIn p = false →
        tfind s.images (if l then c.areaB else c.areaA) = some i → i.area = [] → k.infl = [] → s.tr.late = [] → s.hst.held = [] →
        (∀ e ∈ i.cores, e.2.matrix = [] ∧ e.2.copy = [] ∧ e.2.chain = [] ∧ e.2.scout = [] ∧ e.2.blocks = [] ∧
          ∀ u ∈ e.2.threads, ∃ arr rel q, u.2.par.place = .pond arr rel q) →
        ∃ t, exec (.rollback p) s = .next t ∧ (t.ctxAt x).halt = none ∧ (t.ctxAt x).ev = i.ev ∧ (t.ctxAt x).bind = i.bind ∧
          (t.ctxAt x).launches = i.launches ∧ (∀ n, ((t.ctxAt x).coreAt n).threads = (i.coreAt n).threads) ∧ told t 12 die ∧
          (t.ctxAt x).ckpt.log = [] ∧
          (c.log = [] → s.SameMem t) ∧
          (∀ r, c.log = [r] → c.done ≤ r.intv → r.old.length = 64 → 64 * r.line < 0x00C000000000 → alone →
            Stores s t (64 * r.line) r.old)) ∧
      (let roll := c.on = true ∧ c.last ≠ none
       let err := fun (e : ErrSite) => exec (.uncorrectableError e) s
       let lost := fun (e : ErrSite) (tval : Nat) => k.halt = none → ∃ t h, err e = .next t ∧ (t.ctxAt x).halt = some h ∧
         h.trap.cause = 0x2E ∧ h.trap.tval = BitVec.ofNat 64 tval
       (roll → err (.context p) = .next { s with agenda := .event (.rollback p) :: s.agenda }) ∧
       (¬roll → lost (.context p) 0) ∧
       (∀ c' r n f, roll → ∀ e, e ∈ [ErrSite.accumulator p c' n r, .register p c' r n, .frame p c' f] →
        err e = .next { s with agenda := .event (.rollback p) :: s.agenda }) ∧
       (∀ c' r n, ¬roll → k.halt = none → r < 128 → ∃ t, err (.accumulator p c' n r) = .next t ∧ (t.ctxAt x).halt ≠ none ∧
        (let u := ((t.ctxAt x).coreAt c').tileAt n
         u.poison.getLsbD r = true ∧ u.cause.getLsbD 4 = true ∧ u.cells = ((k.coreAt c').tileAt n).cells)) ∧
       (∀ c' r n, ¬roll → lost (.register p c' r n) 0) ∧
       (∀ c' f, ¬roll → lost (.frame p c' f) 0) ∧
       (∀ pa, pa < 0x00C000000000 → pa / 128 ∉ s.hst.held → ¬roll → lost (.userMemory p pa) pa) ∧
       (∀ pa, pa < 0x00C000000000 → pa / 128 ∉ s.hst.held → roll → (∀ r ∈ c.log, r.line ≠ pa / 64 ∨ r.intv ≠ c.intv) → lost (.userMemory p pa) pa) ∧
       (∀ pa r, pa < 0x00C000000000 → pa / 128 ∉ s.hst.held → roll → r ∈ c.log → r.line = pa / 64 → r.intv = c.intv →
        ∃ t, err (.userMemory p pa) = .next t ∧ t.agenda = .event (.rollback p) :: s.agenda))) ∧
    (∀ d, d < 4 → s.boot.stage ≠ .off → exec (.uncorrectableError (.kernelMemory d a)) s =
      .next (s.trap (.ctl (5 * d + 4)) 0x11 (BitVec.ofNat 64 a) true)) ∧
    (∀ d line, (0x00C000000000 ≤ 128 * line ∨ s.boot.stage = .off → exec (.kernelLineRestore d line) s = .next s) ∧
      (128 * line < 0x00C000000000 → line ∉ s.hst.held → s.boot.stage ≠ .off → alone → ∃ t, exec (.kernelLineRestore d line) s = .next t ∧ s.SameMem t ∧ told t 14 d)) ∧
    (∀ d, s.boot.stage ≠ .off →
      (∀ f, f = TestOutcome.transient ∨ (∃ n, f = .lastingMemory n) ∨ (∃ n m, f = .lastingLink n m) →
        ∃ t, exec (.selfTest d f) s = .next t ∧ told t 13 d ∧ s.SameMem t ∧ t.ctxs = s.ctxs ∧ t.fenced = s.fenced) ∧
      (∀ f n cores, (f = TestOutcome.lastingCore p n ∧ cores = [n]) ∨
          (f = .lastingCluster p n ∧ cores = [4 * n, 4 * n + 1, 4 * n + 2, 4 * n + 3]) →
        ∃ t, exec (.selfTest d f) s = .next t ∧ told t 13 d ∧ t.ctxAt x = { root := k.root } ∧ (t.ctxAt y).st = .free ∧
          (t.partAt p).cfg = none ∧ (t.partAt p).active = none ∧ s.SameMem t ∧
          ∀ m ∈ cores, m < s.coreCount p → s.physOf x m ∈ t.fenced)) ∧
    (∀ i, i ∈ [Instr.fatalStop, .uncorrectableError .fatal] → s.boot.stage ≠ .off → ∃ t, exec i s = .next t ∧
      (s.Inv → ∀ c, c < 0x028000000000 - 2 ^ 36 ∨ 0x028000000000 ≤ c → memGet t.mem c = memGet s.mem c) ∧
      (s.Inv → ∀ j, j < Config.dumpBytes s.fresh → j < 2 ^ 36 →
        memGet t.mem (0x028000000000 - 2 ^ 36 + j) = Config.dumpByte s.fresh j) ∧
      t.boot.stage = .stopped ∧ t.boot.stat = 0 ∧ t.boot.dumped ≠ none ∧ t.ctl = [] ∧ t.ctxs = [] ∧ t.parts = [] ∧
      t.boot.version = s.boot.version ∧ t.boot.slotA = s.boot.slotA ∧ t.boot.slotB = s.boot.slotB)

/-! ## Boot and power -/

/-- R2, R9, R330, R348 to R351, R354 to R357: power and a warm boot start a boot with flash and fuses kept; the stages run in
order, from an accepted image or to reduced service; the kernel's image is verified, loaded and entered at kernel level; the
mailbox answers with the boot status, takes an accepted image into the slot that did not boot, reads and clears the dump, and
attests; the arbiter grants every die its demand while the demands fit, else a share, no sooner than 14,400 clocks after the epoch before, and rewrites the telemetry page with the grants and demands of the epoch
that ends; the thermal
limits halve the budget, restore it, and stop the part. The model's choices: the memory a warm boot keeps and when the dump is
released (logs 44, 82), the images the stages measure (log 83), watts and the order of the page's writes (log 59), who is told
(log 57). -/
def Obligations.BootAndPower : Prop :=
  ∀ (s : State) (img : Image) (loc n off : Nat) (l : List Byte),
    let b := s.boot
    let boots := fun (t : State) => t.boot.stage = .rom ∧ t.ctl = [] ∧ t.ctxs = [] ∧ t.parts = [] ∧ t.boot.stat = 0 ∧
      t.boot.slotA = b.slotA ∧ t.boot.slotB = b.slotB ∧ t.boot.version = b.version ∧ t.boot.digest0 = b.digest0 ∧
      t.boot.digest1 = b.digest1 ∧ t.boot.secret = b.secret
    let accepted := fun (i : Image) => (Config.sha3 i.key = b.digest0 ∨ Config.sha3 i.key = b.digest1) ∧
      Config.mldsaVerify i.key (Config.sha3 i.body) i.sig = true ∧ b.version ≤ i.version
    let alone := s.coh.reps = [] ∧ s.coh.msgs = [] ∧ s.Inv
    let up := b.stage ≠ .off ∧ b.stage ≠ .stopped
    let bytes := fun (i : Image) => i.body ++ i.sig
    let answers := fun (i : Instr) (f : Boot) => exec i s = .next { s with boot := f }
    (b.stage = .off → ∃ t, exec .powerOn s = .next t ∧ boots t ∧ t.mem = [] ∧ t.boot.dumped = none) ∧
    (b.stage ≠ .off → exec .powerOn s = .next s) ∧
    (∃ t, exec .powerOff s = .next t ∧ t.boot.stage = .off ∧ t.mem = [] ∧ t.ctl = [] ∧ t.boot.slotA = b.slotA ∧
      t.boot.version = b.version) ∧
    (b.stage ≠ .off → ∃ t, exec .warmBoot s = .next t ∧ boots t ∧ t.boot.dumped = b.dumped ∧
      (b.dumped ≠ none → s.Inv → ∀ a, 0x028000000000 - 2 ^ 36 ≤ a → a < 0x028000000000 →
        (∀ e ∈ b.taken, ¬(0x028000000000 - 2 ^ 36 + e.1 ≤ a ∧ a < 0x028000000000 - 2 ^ 36 + e.1 + e.2)) → memGet t.mem a = memGet s.mem a)) ∧
    (b.stage = .off → exec .warmBoot s = .next s) ∧
    (b.stage ≠ .rom → exec .romBoot s = .next s) ∧
    (b.stage = .rom →
      let loads := fun (i : Image) (slot : Bool) => ∃ t, exec .romBoot s = .next t ∧ t.boot.stage = .firmware ∧ t.boot.stat = 1 ∧
        t.boot.booted = some slot ∧ t.boot.log = b.log ++ [Config.sha3 i.body] ∧
        t.boot.measure = Config.sha3 (leBytes b.measure.toNat 32 ++ leBytes (Config.sha3 i.body).toNat 32) ∧
        (alone → (bytes i).length < 0x001000000000 → (∀ j, b.slotA = some j → (bytes j).length < 0x001000000000) →
          memRead t.mem 0x00100000 (bytes i).length = bytes i ∧ (slot = false ∨ b.slotA = none → Stores s t 0x00100000 (bytes i)))
      (∀ i, b.slotA = some i → accepted i → loads i false) ∧
      (∀ i, b.slotB = some i → accepted i → (∀ j, b.slotA = some j → ¬accepted j) → loads i true) ∧
      ((∀ i, b.slotA = some i ∨ b.slotB = some i → ¬accepted i) →
        (∃ t, exec .romBoot s = .next t ∧ t.boot = { b with stage := .reduced }) ∧
        (b.slotA = none → b.slotB = none → exec .romBoot s = .next { s with boot := { b with stage := .reduced } }))) ∧
    let extended := fun (t : State) (i : Image) => t.boot.log = b.log ++ [Config.sha3 i.body] ∧
      t.boot.measure = Config.sha3 (leBytes b.measure.toNat 32 ++ leBytes (Config.sha3 i.body).toNat 32)
    (∀ i, b.stage = .firmware → b.booted = some false → b.slotA = some i → ∃ t, exec .firmwareBringup s = .next t ∧
      t.boot.stage = .cores ∧ extended t i ∧ t.mem = s.mem) ∧
    (b.stage ≠ .firmware → exec .firmwareBringup s = .next s) ∧
    (∀ i, b.stage = .cores → b.booted = some false → b.slotA = some i → ∃ t, exec .startCores s = .next t ∧
      t.boot.stage = .started ∧ extended t i ∧
      (alone → (bytes i).length < 0x001000000000 → ∀ d, 0 < d → d < 4 →
        memRead t.mem (d * 0x003000000000 + 0x00100000) (bytes i).length = bytes i) ∧ ∀ c, c < 20 → (t.ctlAt c).running = true ∧ (t.ctlAt c).pl = .monitor ∧
        (t.ctlAt c).t.pc = BitVec.ofNat 57 (c / 5 * 0x003000000000 + 0x00100000) ∧ (t.ctlAt c).t.g = []) ∧
    (b.stage ≠ .cores → exec .startCores s = .next s) ∧
    (∀ fw, b.stage = .started → b.booted = some false → b.slotA = some fw →
      let good := Config.mldsaVerify img.key (Config.sha3 img.body) img.sig = true ∧ b.version ≤ img.version ∧
        img.key = Config.kernelKey fw.body
      let place := loc < 0x00C000000000 ∧ loc % 4 = 0
      let there := fun (t : State) => alone → loc + (bytes img).length < 0x00C000000000 → Stores s t loc (bytes img)
      (¬place → exec (.kernelLoad img loc) s = .next s) ∧
      (place → ¬good → ∃ t, exec (.kernelLoad img loc) s = .next t ∧ t.boot = b ∧ (t.ctlAt 0).pl = (s.ctlAt 0).pl ∧
        (t.ctlAt 0).running = (s.ctlAt 0).running ∧ (t.ctlAt 0).t = (s.ctlAt 0).t ∧ there t) ∧
      (place → good → ∃ t, exec (.kernelLoad img loc) s = .next t ∧ t.boot.stage = .kernel ∧ t.boot.stat = 2 ∧
        extended t img ∧ (t.ctlAt 0).pl = .kernel ∧ (t.ctlAt 0).running = true ∧
        (t.ctlAt 0).t.pc = BitVec.ofNat 57 loc ∧ (t.ctlAt 0).t.hints = {} ∧
        there t)) ∧
    (¬up → ∀ i, i ∈ [Instr.mailboxStatus, .mailboxLoad img, .mailboxDump off n] → exec i s = .next s) ∧
    (b.stage ≠ .run → ∀ i, i ∈ [Instr.mailboxClear, .mailboxAttest l] → exec i s = .next s) ∧
    (up → answers .mailboxStatus { b with reply := leBytes b.stat.toNat 8 } ∧
      (¬accepted img → answers (.mailboxLoad img) b) ∧
      (accepted img → b.booted = some false → answers (.mailboxLoad img) { b with slotB := some img }) ∧
      (accepted img → b.booted ≠ some false → answers (.mailboxLoad img) { b with slotA := some img }) ∧
      (off + n ≤ 2 ^ 36 →
        let out := s.curRead (0x028000000000 - 2 ^ 36 + off) n
        answers (.mailboxDump off n) { b with reply := out, taken := if b.dumped.isSome then (off, n) :: b.taken else b.taken })) ∧
    (b.stage = .run → answers .mailboxClear { b with dumped := none, taken := [] } ∧
      (l.length ≠ 32 → answers (.mailboxAttest l) b) ∧
      (∀ fw, l.length = 32 → b.booted = some false → b.slotA = some fw →
        let log := b.log.flatMap fun d => leBytes d.toNat 32
        let sig := Config.mldsaSign (Config.identityKey b.secret fw.version) (Config.sha3 (l ++ log))
        answers (.mailboxAttest l) { b with reply := log ++ sig })) ∧
    (b.stage = .kernel ∨ b.stage = .run → answers (.versionCounterRaise n) { b with version := max b.version n }) ∧
    (∀ demand temp, b.stage = .off ∨ s.clock < s.power.last + 14400 → exec (.powerEpoch n demand temp) s = .next s) ∧
    (∀ demand temp, b.stage ≠ .off → s.power.telemW = [] → s.power.last + 14400 ≤ s.clock → demand.length = 4 →
      let page := (s.winAt 0).telem.toNat
      let B := (4200 - n) / (if s.power.halved then 2 else 1)
      page = 0 ∨ (page < 0x00C000000000 ∧ page % 4096 = 0 ∧ page / 128 ∉ s.hst.held ∧ alone) →
      ∃ t, exec (.powerEpoch n demand temp) s = .next t ∧ t.power.outside = n ∧ t.power.clamped = [] ∧
        t.power.epochs = s.power.epochs + 1 ∧ t.power.last = s.clock ∧ (∀ d, d < 4 → tget 0 t.power.demand d = demand.getD d 0) ∧
        (demand.sum ≤ B → ∀ d, d < 4 → tget 0 t.power.grant d = demand.getD d 0) ∧
        (B < demand.sum → ((List.range 4).map fun d => tget 0 t.power.grant d).sum ≤ B ∧
          ∀ d, d < 4 → tget 0 t.power.grant d ≤ demand.getD d 0 ∧ (demand.getD d 0 ≤ B / 4 → tget 0 t.power.grant d = demand.getD d 0)) ∧
        (page = 0 → s.SameMem t ∧ t.agenda = s.agenda) ∧
        (page ≠ 0 → Stores s t page (leBytes (2 ^ 63 + s.power.epochs % 2 ^ 63) 8) ∧ t.agenda = s.agenda ++ [.telem] ∧
          ∀ d, d < 4 → ∃ v : BitVec 64, (page + 64 * d + 8, leBytes (v ++ BitVec.ofNat 32 (tget 0 s.power.grant d) ++
            BitVec.ofNat 32 (tget 0 s.power.demand d) ++ BitVec.ofNat 16 (temp.getD d 0) ++ 0#48).toNat 56) ∈ t.power.telemW)) ∧
    (b.stage ≠ .off → ∃ t, exec (.currentSurge n) s = .next t ∧ n ∈ t.power.clamped ∧ s.SameMem t) ∧
    (b.stage ≠ .off → 100 * 16 ≤ n → exec (.thermalLimit n) s = .next { s with power := { s.power with halved := true } }) ∧
    (n < 100 * 16 → exec (.thermalLimit n) s = .next s) ∧
    (∀ temps : List Nat, ((∀ t ∈ temps, t < 95 * 16) → exec (.thermalRecovery temps) s =
        .next { s with power := { s.power with halved := false } }) ∧
      ((∃ t ∈ temps, 95 * 16 ≤ t) → exec (.thermalRecovery temps) s = .next s)) ∧
    (b.stage ≠ .off → 110 * 16 ≤ n → ∃ t, exec (.thermalShutdown n) s = .next t ∧ t.boot.stage = .stopped ∧ t.ctl = [] ∧
      t.ctxs = [] ∧ t.boot.dumped = some s.fresh) ∧
    (n < 110 * 16 → exec (.thermalShutdown n) s = .next s)

/-! ## Encodings, fetching, reset, the invariant -/

/-- R57 to R68: every well-formed word of the instruction set has an encoding, which decodes to it. -/
def Obligations.DecodeOfEncode : Prop :=
  ∀ i : Instr, i.isWord = true → i.wf = true → ∃ w, encode i = some w ∧ decode w = some i

/-- R57 to R69: a word that decodes is the encoding of what it decodes to, which is well formed: no two words are one
instruction, and every field that must be zero is. -/
def Obligations.EncodeOfDecode : Prop :=
  ∀ (w : BitVec 32) (i : Instr), decode w = some i → encode i = some w ∧ i.isWord = true ∧ i.wf = true

/-- R57, R60, R62, R64, R69, R78, R81, R86, R94, R95, R111, R145, R149, R158, R239, R243, R248, R250, R257, R260, R285, R294, R297, R299:
words that the encodings give decode to the instructions they stand for, one of them from its four bytes; a major that no
instruction has decodes to nothing, and a word that is no instruction raises the illegal-instruction trap. -/
def Obligations.DecodedWords : Prop :=
  (∀ e ∈ [((0x33850C83 : BitVec 32), Instr.shri 7 5 6 3), (0x3787FFFE, .movi 7 7 0xFFFE), (0x3F910C02, .setpImm 7 1 .ne 6 0),
      (0x4BB00040, .addai 7 0 64), (0x4F891010, .csrw 7 9 0x010), (0x8B800003, .exit 7), (0x7F80002A, .trap 7 0x2A),
      (0x5784_0A18, .ffma 7 4 5 6), (0x5BA20208, .fsetp 7 2 .lt 1 2 0), (0x6388_1433, .dfma 7 8 10 12),
      (0x73941044, .cvt 7 20 8 0 .bx4blkOfF32 0), (0x93850923, .shflXor 7 5 4 0x48), (0xA9001404, .evset 2 0 5 0 1),
      (0x9F801203, .sleep 7 9), (0xC1042200, .ld 2 4 1 .offset .w32 0), (0xCF827301, .sts 7 2 3 .modulo .w64 1),
      (0xD3829621, .atom 7 2 4 .cas64 8 .pkg), (0xDB8C0426, .acq 7 12 2 .pkg), (0xDFA0A000, .cinv 7 5 .offset 0),
      (0xE38483F0, .tdset 7 9 3 15), (0xE5018200, .cp 2 3 4), (0xED000084, .mmaz 2 0 1 0), (0xF384050B, .accrd 7 4 5 1),
      (0xF78A0911, .dodge 7 20 9 2), (0xFB860682, .chain2 7 12 13), (0x7F824080, .rdts 7 2 4), (0xFD022800, .he 0 0 0 1 5 0)],
    decode e.1 = some e.2) ∧
  decodeBytes [0x00, 0x22, 0x04, 0xC1] = some (.ld 2 4 1 .offset .w32 0) ∧
  (∀ w : BitVec 32, w.extractLsb' 26 6 ∈ [0x00#6, 0x1E#6, 0x2D#6, 0x2E#6, 0x2F#6] → decode w = none) ∧
  ∀ (s : State) (w : BitVec 32), Traps s (.illegalInstruction w) 0x00 (w.zeroExtend 64)

/-- R19, R28, R120, R124: with nothing on the agenda a step executes the instruction that the word at the current thread's program
counter decodes to, the illegal instruction where it decodes to none: on a control core, unless an interrupt is taken first; in a
compute thread, its bundle's word, fetched once and executed by every thread of the bundle once all are ready, with the bundle's
bookkeeping after it. A word that waits stays with its thread. The word is the four bytes in memory where no cache stands between,
and its fetch changes no thread, control core or byte of memory. After every step what goes on by itself goes on, which is nothing
where no thread, prefetch or acknowledgement waits. The model's choices: what one step is, and the agenda of outside acts (logs 1, 2,
62). -/
def Obligations.StepRunsDecoded : Prop :=
  ∀ s : State,
    let ready := fun (u : State) (t : Tid) =>
      let th := u.thr t
      ({ u with cur := t } : State).setThr t { th with par := { th.par with held := none } }
    let kept := fun (t : Tid) (i : Instr) (u : State) => if (u.thr t).waitsAt then u.setThr t { u.thr t with iss := some i } else u
    let idle := fun (u : State) => (∀ n, (u.ctlAt n).wb = [] ∧ (u.coreAt n).prefs = []) ∧
      (∀ x c b, (((u.ctxAt x).coreAt c).bundleAt b).waits = []) ∧ ∀ x c slot,
      let p := (u.thr (.cmp x c slot)).par.place
      p ≠ .parked .split ∧ p ≠ .parked .rwait ∧ ∀ n, p ≠ .parked (.evwait n)
    let done := fun (t : Tid) (u : State) => { u with cur := t }.settle
    (∀ u, idle u → u.settle = u) ∧
    (∀ i r, step { s with agenda := .event i :: r } = settled (exec i { s with agenda := r })) ∧
    (s.agenda = [] → s.boot.stage = .run →
      (∀ n, s.cur = .ctl n →
        let c := s.ctlAt n
        let runs := fun (i : Instr) (s1 : State) =>
          (∀ f, exec i (ready s1 s.cur) = .fault f → step s = .fault f) ∧
          (∀ u, exec i (ready s1 s.cur) = .next u → step s = .next (done s.cur (kept s.cur i u)))
        c.running = true → c.stopped = false →
        (∀ src, c.takes = some src → step s = .next (done s.cur (s.setCtl n (c.interrupt src)))) ∧
        (c.takes = none → c.wfi = false → c.sleep = none →
          (∀ i, c.t.iss = some i → runs i (s.setCtl n c)) ∧
          (c.t.iss = none →
            (∀ s1 w, (s.setCtl n c).fetch (.ctl n) = .word s1 w →
              (∀ i, decode w = some i → runs i s1) ∧ (decode w = none → runs (.illegalInstruction w) s1)) ∧
            (let pc : Dword := c.t.pc.signExtend 64
             pc.toNat % 4 = 0 → PlainAt s n pc → TimeFor s n pc false →
             ∃ s1, (s.setCtl n c).fetch (.ctl n) = .word s1 (BitVec.ofNat 32 (leVal (memRead s.mem pc.toNat 4))) ∧ s.SameMem s1 ∧
              s1.cur = s.cur ∧ ∀ m, s1.ctlAt m = s.ctlAt m)))) ∧
      (∀ x c slot b first rest, s.cur = .cmp x c slot →
        let k := s.ctxAt x
        let u := (k.coreAt c).bundleAt b
        let lanes := (k.coreAt c).inOrder b
        s.going x = true → ((k.coreAt c).thrAt slot).par.place = .bundle b → u.op = none → u.did = [] → lanes = first :: rest →
        (∀ j ∈ lanes, k.hitBy c j = false ∧ k.fetching c j = false ∧ ((k.coreAt c).thrAt j).iss = none) →
        ∀ s1 w i, s.fetch (.cmp x c first) = .word s1 w → decode w = some i →
          let s2 := s1.modCore x c fun k => k.setBundle b { k.bundleAt b with op := some i }
          s2.late x c b i lanes = [] →
          let l := reqsOf i (lanes.map fun j => s2.thr (.cmp x c j))
          let s3 := if l.isEmpty then s2 else s2.modCore x c fun k => { k with reqs := l, reqN := (s2.ctxAt x).nextId }
          (∀ f, s3.runLanes x c b i lanes = .fault f → step s = .fault f) ∧
          (∀ t, s3.runLanes x c b i lanes = .next t → step s = .next (done s.cur t)))) ∧
    (∀ x c b i slot rest, (s.thr (.cmp x c slot)).iss = none →
      let t := Tid.cmp x c slot
      let before := s.thr t
      (∀ f, exec i (ready s t) = .fault f → s.runLanes x c b i (slot :: rest) = .fault f) ∧
      (∀ u, exec i (ready s t) = .next u →
        let v := kept t i u
        ((v.ctxAt x).hitBy c slot = true → s.runLanes x c b i (slot :: rest) = v.runLanes x c b i rest) ∧
        ((v.ctxAt x).hitBy c slot = false → s.runLanes x c b i (slot :: rest) = (v.modCore x c fun k =>
          k.afterWord slot b v.clock (Issued.of i before (v.thr t)) (((encode i).getD 0).extractLsb' 23 3 != 7)
            (v.thr t).par.held.isSome).runLanes x c b i rest))) ∧
    ∀ x c b i, s.runLanes x c b i [] = .next s

/-- R9, R52, R346, R348, R352: at reset memory lists nothing and the invariant holds, every register of a control core is
zero and its hint register empty, it stands at monitor level at its die's entry address, interrupts are off, no root is
enabled, no partition is configured, and BOOTSTAT reads 0. What the manual gives no reset value stands as logs 5 and 8 say. -/
def Obligations.ResetValues : Prop :=
  State.reset.Inv ∧ State.reset.mem = [] ∧ State.reset.boot.stat = 0 ∧ State.reset.hst.hdmbase = 0 ∧
  (∀ p, (State.reset.partAt p).cfg = none ∧ (State.reset.partAt p).active = none) ∧ (∀ x, (State.reset.ctxAt x).st = .free) ∧
  ∀ n, n < 20 →
    let c := State.reset.ctlAt n
    c.pl = .monitor ∧ c.t.pc = BitVec.ofNat 57 (n / 5 * 0x003000000000 + 0x00100000) ∧ c.t.hints = {} ∧
    (∀ j, c.t.gr j = 0 ∧ c.t.ar j = 0 ∧ c.t.mr j = 0 ∧ c.t.kr j = 0 ∧ (c.t.pr j = true ↔ j = 7)) ∧
    c.kset.ie = false ∧ c.kset.intrap = false ∧ c.mset.intrap = false ∧ c.uroot.en = false ∧ c.kroot.en = false ∧
    c.irqs = [] ∧ c.stopped = false

/-- A step keeps the invariant: memory, and the scratchpad bytes of every core, keep their canonical form (the model's own
invariant, log 5). -/
def Obligations.StepKeepsInv : Prop :=
  ∀ s t : State, s.Inv → step s = .next t → t.Inv
end

