-- ==== Sys2Proof/Laws/Tables.lean ====
section
/-! SUPPORT. Sys2Proof/Laws/Tables.lean: reading a table after an update. -/

namespace Sys2Proof

variable {κ α : Type} [DecidableEq κ]

@[simp] theorem tget_nil (d : α) (k : κ) : tget d ([] : Tab κ α) k = d := rfl

@[simp] theorem tget_tput_self (d : α) (t : Tab κ α) (k : κ) (v : α) : tget d (tput k v t) k = v := by
  induction t with
  | nil => simp [tput, tget]
  | cons e r ih => obtain ⟨k', v'⟩ := e; by_cases h : k' = k <;> simp [tput, tget, h, ih]

theorem tget_tput_ne (d : α) (t : Tab κ α) {k k' : κ} (v : α) (h : k ≠ k') : tget d (tput k v t) k' = tget d t k' := by
  induction t with
  | nil => simp [tput, tget, h]
  | cons e r ih =>
    obtain ⟨j, w⟩ := e
    by_cases hj : j = k
    · subst hj; simp [tput, tget, h]
    · simp only [tput, hj, if_false, tget, ih]

theorem tget_tput (d : α) (t : Tab κ α) (k k' : κ) (v : α) :
    tget d (tput k v t) k' = if k = k' then v else tget d t k' := by
  by_cases h : k = k'
  · subst h; simp
  · simp [h, tget_tput_ne]

@[simp] theorem tput_tput (t : Tab κ α) (k : κ) (v w : α) : tput k w (tput k v t) = tput k w t := by
  induction t with
  | nil => simp [tput]
  | cons e r ih => obtain ⟨j, u⟩ := e; by_cases h : j = k <;> simp [tput, h, ih]

@[simp] theorem tfind_tput_self (t : Tab κ α) (k : κ) (v : α) : tfind (tput k v t) k = some v := by
  induction t with
  | nil => simp [tput, tfind]
  | cons e r ih => obtain ⟨k', v'⟩ := e; by_cases h : k' = k <;> simp [tput, tfind, h, ih]

theorem tfind_tput_ne (t : Tab κ α) {k k' : κ} (v : α) (h : k ≠ k') : tfind (tput k v t) k' = tfind t k' := by
  induction t with
  | nil => simp [tput, tfind, h]
  | cons e r ih =>
    obtain ⟨j, w⟩ := e
    by_cases hj : j = k
    · subst hj; simp [tput, tfind, h]
    · simp only [tput, hj, if_false, tfind, ih]

@[simp] theorem tfind_tdel_self (t : Tab κ α) (k : κ) : tfind (tdel k t) k = none := by
  induction t with
  | nil => rfl
  | cons e r ih => obtain ⟨k', v'⟩ := e; by_cases h : k' = k <;> simp [tdel, tfind, h, ih]

@[simp] theorem tget_tdel_self (d : α) (t : Tab κ α) (k : κ) : tget d (tdel k t) k = d := by
  induction t with
  | nil => rfl
  | cons e r ih => obtain ⟨k', v'⟩ := e; by_cases h : k' = k <;> simp [tdel, tget, h, ih]

theorem tget_tdel_ne (d : α) (t : Tab κ α) {k k' : κ} (h : k ≠ k') : tget d (tdel k t) k' = tget d t k' := by
  induction t with
  | nil => rfl
  | cons e r ih =>
    obtain ⟨j, w⟩ := e
    by_cases hj : j = k
    · subst hj; simp [tdel, tget, h, ih]
    · simp only [tdel, hj, if_false, tget, ih]

end Sys2Proof
end

