-- ==== Sys2Proof/Laws/Memory.lean ====
section
/-! SUPPORT. Sys2Proof/Laws/Memory.lean: reading after writing, and that every memory operation keeps the canonical
form. -/

namespace Sys2Proof.Machine

theorem Memory.above_mono {a b : Nat} {m : List Host.Cell} (h : Memory.above b m = true) (hab : a ≤ b) :
    Memory.above a m = true := by
  cases m with
  | nil => rfl
  | cons e r => obtain ⟨c, w⟩ := e; simp only [Memory.above, decide_eq_true_eq] at h ⊢; omega

theorem Memory.wf_cons {a : Nat} {v : Byte} {r : List Host.Cell} :
    Memory.wf ((a, v) :: r) = true ↔ v ≠ 0 ∧ Memory.above a r = true ∧ Memory.wf r = true := by
  simp [Memory.wf, and_assoc]

theorem memPut_above {a b : Nat} {v : Byte} {m : List Host.Cell} (hw : Memory.wf m = true)
    (h : Memory.above a m = true) (hab : a < b) : Memory.above a (memPut b v m) = true := by
  cases m with
  | nil => unfold memPut; split <;> simp [Memory.above, hab]
  | cons e r =>
    obtain ⟨c, w⟩ := e
    have hc : a < c := by simpa [Memory.above] using h
    simp only [memPut]
    split
    · simpa [Memory.above] using hc
    · split
      · split
        · exact Memory.above_mono (Memory.wf_cons.1 hw).2.1 (Nat.le_of_lt hc)
        · simpa [Memory.above] using hab
      · split <;> simp [Memory.above, hab, hc]

/-- Writing one byte keeps the canonical form. -/
theorem memPut_wf (a : Nat) (v : Byte) {m : List Host.Cell} (h : Memory.wf m = true) :
    Memory.wf (memPut a v m) = true := by
  induction m with
  | nil => unfold memPut; split <;> simp_all [Memory.wf, Memory.above]
  | cons e r ih =>
    obtain ⟨c, w⟩ := e
    obtain ⟨hw, ha, hr⟩ := Memory.wf_cons.1 h
    simp only [memPut]
    split
    · rename_i hlt
      exact Memory.wf_cons.2 ⟨hw, memPut_above hr ha hlt, ih hr⟩
    · split
      · rename_i he
        split
        · exact hr
        · rename_i hv
          exact Memory.wf_cons.2 ⟨hv, he ▸ ha, hr⟩
      · split
        · exact h
        · rename_i hv
          exact Memory.wf_cons.2 ⟨hv, by simp only [Memory.above, decide_eq_true_eq]; omega, h⟩

/-- Writing bytes keeps the canonical form. -/
theorem memWrite_wf (a : Nat) (bs : List Byte) {m : List Host.Cell} (h : Memory.wf m = true) :
    Memory.wf (memWrite a bs m) = true := by
  induction bs generalizing a m with
  | nil => exact h
  | cons b r ih => exact ih _ (memPut_wf _ _ h)

/-- Nothing is listed at or below an address that all lie above. -/
theorem memGet_above {a b : Nat} {m : List Host.Cell} (hw : Memory.wf m = true) (h : Memory.above a m = true)
    (hb : b ≤ a) : memGet m b = 0 := by
  induction m generalizing a with
  | nil => rfl
  | cons e r ih =>
    obtain ⟨c, w⟩ := e
    have hc : a < c := by simpa [Memory.above] using h
    obtain ⟨-, ha, hr⟩ := Memory.wf_cons.1 hw
    have hne : c ≠ b := by omega
    simpa [memGet, tget, hne] using ih hr ha (show b ≤ c by omega)

/-- A byte reads as last written; every other byte reads as before. -/
theorem memGet_memPut (a b : Nat) (v : Byte) {m : List Host.Cell} (hw : Memory.wf m = true) :
    memGet (memPut a v m) b = if a = b then v else memGet m b := by
  induction m with
  | nil => unfold memPut; split <;> simp_all [memGet, tget]
  | cons e r ih =>
    obtain ⟨c, w⟩ := e
    obtain ⟨-, ha, hr⟩ := Memory.wf_cons.1 hw
    have ih := ih hr
    simp only [memGet] at ih ⊢
    simp only [memPut]
    split
    · simp only [tget, ih]
      by_cases hcb : c = b
      · have : a ≠ b := by omega
        simp [hcb, this]
      · simp [hcb]
    · split
      · rename_i he
        subst he
        split
        · rename_i hv
          by_cases hcb : c = b
          · subst hcb; simpa [hv, memGet] using memGet_above hr ha (Nat.le_refl c)
          · simp [tget, hcb]
        · by_cases hcb : c = b <;> simp [tget, hcb]
      · rename_i hlt hne
        split
        · rename_i hv
          by_cases hab : a = b
          · subst hab
            have : memGet ((c, w) :: r) a = 0 :=
              memGet_above hw (a := a) (by simp only [Memory.above, decide_eq_true_eq]; omega) (Nat.le_refl _)
            simpa [hv, memGet] using this
          · simp [hab]
        · by_cases hab : a = b <;> simp [tget, hab]

/-- A byte outside the written range reads as before. -/
theorem memGet_memWrite_out (a b : Nat) (bs : List Byte) {m : List Host.Cell} (hw : Memory.wf m = true)
    (h : b < a ∨ a + bs.length ≤ b) : memGet (memWrite a bs m) b = memGet m b := by
  induction bs generalizing a m with
  | nil => rfl
  | cons v r ih =>
    simp only [List.length_cons] at h
    simp only [memWrite]
    rw [ih _ (memPut_wf _ _ hw) (by omega), memGet_memPut _ _ _ hw, if_neg (by omega)]

/-- A byte of the written range reads as written. -/
theorem memGet_memWrite_in (a : Nat) (bs : List Byte) (k : Nat) {m : List Host.Cell} (hw : Memory.wf m = true)
    (h : k < bs.length) : memGet (memWrite a bs m) (a + k) = bs[k] := by
  induction bs generalizing a k m with
  | nil => simp at h
  | cons v r ih =>
    simp only [memWrite]
    cases k with
    | zero =>
      rw [memGet_memWrite_out _ _ _ (memPut_wf _ _ hw) (by omega), memGet_memPut _ _ _ hw]
      simp
    | succ k =>
      have := ih (a + 1) k (memPut_wf a v hw) (by simpa using h)
      simpa [Nat.add_assoc, Nat.add_comm 1 k] using this

@[simp] theorem memRead_length (m : List Host.Cell) (a n : Nat) : (memRead m a n).length = n := by
  induction n generalizing a with
  | zero => rfl
  | succ n ih => simp [memRead, ih]

/-- Reading a range just written gives the bytes written. -/
theorem memRead_memWrite (a : Nat) (bs : List Byte) {m : List Host.Cell} (hw : Memory.wf m = true) :
    memRead (memWrite a bs m) a bs.length = bs := by
  induction bs generalizing a m with
  | nil => rfl
  | cons v r ih =>
    simp only [List.length_cons, memRead, memWrite]
    rw [ih _ (memPut_wf _ _ hw), memGet_memWrite_out _ _ _ (memPut_wf _ _ hw) (by omega), memGet_memPut _ _ _ hw]
    simp

end Sys2Proof.Machine
end

