-- ==== Sys2Proof/Laws/State.lean ====
section
/-! SUPPORT. Sys2Proof/Laws/State.lean: what each update of the state or of a thread leaves of every field. -/

namespace Sys2Proof.Machine

/-! ### State.setCtl -/

@[simp] theorem State.setCtl_cur (s : State) (n : Nat) (c : Ctl) : (s.setCtl n c).cur = s.cur := rfl
@[simp] theorem State.setCtl_agenda (s : State) (n : Nat) (c : Ctl) : (s.setCtl n c).agenda = s.agenda := rfl
@[simp] theorem State.setCtl_clock (s : State) (n : Nat) (c : Ctl) : (s.setCtl n c).clock = s.clock := rfl
@[simp] theorem State.setCtl_fresh (s : State) (n : Nat) (c : Ctl) : (s.setCtl n c).fresh = s.fresh := rfl
@[simp] theorem State.setCtl_mem (s : State) (n : Nat) (c : Ctl) : (s.setCtl n c).mem = s.mem := rfl
@[simp] theorem State.setCtl_far (s : State) (n : Nat) (c : Ctl) : (s.setCtl n c).far = s.far := rfl
@[simp] theorem State.setCtl_parts (s : State) (n : Nat) (c : Ctl) : (s.setCtl n c).parts = s.parts := rfl
@[simp] theorem State.setCtl_ctxs (s : State) (n : Nat) (c : Ctl) : (s.setCtl n c).ctxs = s.ctxs := rfl
@[simp] theorem State.setCtl_cores (s : State) (n : Nat) (c : Ctl) : (s.setCtl n c).cores = s.cores := rfl
@[simp] theorem State.setCtl_coh (s : State) (n : Nat) (c : Ctl) : (s.setCtl n c).coh = s.coh := rfl
@[simp] theorem State.setCtl_tr (s : State) (n : Nat) (c : Ctl) : (s.setCtl n c).tr = s.tr := rfl
@[simp] theorem State.setCtl_win (s : State) (n : Nat) (c : Ctl) : (s.setCtl n c).win = s.win := rfl
@[simp] theorem State.setCtl_boot (s : State) (n : Nat) (c : Ctl) : (s.setCtl n c).boot = s.boot := rfl
@[simp] theorem State.setCtl_power (s : State) (n : Nat) (c : Ctl) : (s.setCtl n c).power = s.power := rfl
@[simp] theorem State.setCtl_hst (s : State) (n : Nat) (c : Ctl) : (s.setCtl n c).hst = s.hst := rfl
@[simp] theorem State.setCtl_fenced (s : State) (n : Nat) (c : Ctl) : (s.setCtl n c).fenced = s.fenced := rfl
@[simp] theorem State.setCtl_images (s : State) (n : Nat) (c : Ctl) : (s.setCtl n c).images = s.images := rfl

/-! ### State.setCtx -/

@[simp] theorem State.setCtx_cur (s : State) (x : Nat) (c : Ctx) : (s.setCtx x c).cur = s.cur := rfl
@[simp] theorem State.setCtx_agenda (s : State) (x : Nat) (c : Ctx) : (s.setCtx x c).agenda = s.agenda := rfl
@[simp] theorem State.setCtx_clock (s : State) (x : Nat) (c : Ctx) : (s.setCtx x c).clock = s.clock := rfl
@[simp] theorem State.setCtx_fresh (s : State) (x : Nat) (c : Ctx) : (s.setCtx x c).fresh = s.fresh := rfl
@[simp] theorem State.setCtx_mem (s : State) (x : Nat) (c : Ctx) : (s.setCtx x c).mem = s.mem := rfl
@[simp] theorem State.setCtx_far (s : State) (x : Nat) (c : Ctx) : (s.setCtx x c).far = s.far := rfl
@[simp] theorem State.setCtx_ctl (s : State) (x : Nat) (c : Ctx) : (s.setCtx x c).ctl = s.ctl := rfl
@[simp] theorem State.setCtx_parts (s : State) (x : Nat) (c : Ctx) : (s.setCtx x c).parts = s.parts := rfl
@[simp] theorem State.setCtx_cores (s : State) (x : Nat) (c : Ctx) : (s.setCtx x c).cores = s.cores := rfl
@[simp] theorem State.setCtx_coh (s : State) (x : Nat) (c : Ctx) : (s.setCtx x c).coh = s.coh := rfl
@[simp] theorem State.setCtx_tr (s : State) (x : Nat) (c : Ctx) : (s.setCtx x c).tr = s.tr := rfl
@[simp] theorem State.setCtx_win (s : State) (x : Nat) (c : Ctx) : (s.setCtx x c).win = s.win := rfl
@[simp] theorem State.setCtx_boot (s : State) (x : Nat) (c : Ctx) : (s.setCtx x c).boot = s.boot := rfl
@[simp] theorem State.setCtx_power (s : State) (x : Nat) (c : Ctx) : (s.setCtx x c).power = s.power := rfl
@[simp] theorem State.setCtx_hst (s : State) (x : Nat) (c : Ctx) : (s.setCtx x c).hst = s.hst := rfl
@[simp] theorem State.setCtx_fenced (s : State) (x : Nat) (c : Ctx) : (s.setCtx x c).fenced = s.fenced := rfl
@[simp] theorem State.setCtx_images (s : State) (x : Nat) (c : Ctx) : (s.setCtx x c).images = s.images := rfl

/-! ### State.setPart -/

@[simp] theorem State.setPart_cur (s : State) (p : Nat) (q : Part) : (s.setPart p q).cur = s.cur := rfl
@[simp] theorem State.setPart_agenda (s : State) (p : Nat) (q : Part) : (s.setPart p q).agenda = s.agenda := rfl
@[simp] theorem State.setPart_clock (s : State) (p : Nat) (q : Part) : (s.setPart p q).clock = s.clock := rfl
@[simp] theorem State.setPart_fresh (s : State) (p : Nat) (q : Part) : (s.setPart p q).fresh = s.fresh := rfl
@[simp] theorem State.setPart_mem (s : State) (p : Nat) (q : Part) : (s.setPart p q).mem = s.mem := rfl
@[simp] theorem State.setPart_far (s : State) (p : Nat) (q : Part) : (s.setPart p q).far = s.far := rfl
@[simp] theorem State.setPart_ctl (s : State) (p : Nat) (q : Part) : (s.setPart p q).ctl = s.ctl := rfl
@[simp] theorem State.setPart_ctxs (s : State) (p : Nat) (q : Part) : (s.setPart p q).ctxs = s.ctxs := rfl
@[simp] theorem State.setPart_cores (s : State) (p : Nat) (q : Part) : (s.setPart p q).cores = s.cores := rfl
@[simp] theorem State.setPart_coh (s : State) (p : Nat) (q : Part) : (s.setPart p q).coh = s.coh := rfl
@[simp] theorem State.setPart_tr (s : State) (p : Nat) (q : Part) : (s.setPart p q).tr = s.tr := rfl
@[simp] theorem State.setPart_win (s : State) (p : Nat) (q : Part) : (s.setPart p q).win = s.win := rfl
@[simp] theorem State.setPart_boot (s : State) (p : Nat) (q : Part) : (s.setPart p q).boot = s.boot := rfl
@[simp] theorem State.setPart_power (s : State) (p : Nat) (q : Part) : (s.setPart p q).power = s.power := rfl
@[simp] theorem State.setPart_hst (s : State) (p : Nat) (q : Part) : (s.setPart p q).hst = s.hst := rfl
@[simp] theorem State.setPart_fenced (s : State) (p : Nat) (q : Part) : (s.setPart p q).fenced = s.fenced := rfl
@[simp] theorem State.setPart_images (s : State) (p : Nat) (q : Part) : (s.setPart p q).images = s.images := rfl

/-! ### State.modCtx -/

@[simp] theorem State.modCtx_cur (s : State) (x : Nat) (f : Ctx → Ctx) : (s.modCtx x f).cur = s.cur := rfl
@[simp] theorem State.modCtx_agenda (s : State) (x : Nat) (f : Ctx → Ctx) : (s.modCtx x f).agenda = s.agenda := rfl
@[simp] theorem State.modCtx_clock (s : State) (x : Nat) (f : Ctx → Ctx) : (s.modCtx x f).clock = s.clock := rfl
@[simp] theorem State.modCtx_fresh (s : State) (x : Nat) (f : Ctx → Ctx) : (s.modCtx x f).fresh = s.fresh := rfl
@[simp] theorem State.modCtx_mem (s : State) (x : Nat) (f : Ctx → Ctx) : (s.modCtx x f).mem = s.mem := rfl
@[simp] theorem State.modCtx_far (s : State) (x : Nat) (f : Ctx → Ctx) : (s.modCtx x f).far = s.far := rfl
@[simp] theorem State.modCtx_ctl (s : State) (x : Nat) (f : Ctx → Ctx) : (s.modCtx x f).ctl = s.ctl := rfl
@[simp] theorem State.modCtx_parts (s : State) (x : Nat) (f : Ctx → Ctx) : (s.modCtx x f).parts = s.parts := rfl
@[simp] theorem State.modCtx_cores (s : State) (x : Nat) (f : Ctx → Ctx) : (s.modCtx x f).cores = s.cores := rfl
@[simp] theorem State.modCtx_coh (s : State) (x : Nat) (f : Ctx → Ctx) : (s.modCtx x f).coh = s.coh := rfl
@[simp] theorem State.modCtx_tr (s : State) (x : Nat) (f : Ctx → Ctx) : (s.modCtx x f).tr = s.tr := rfl
@[simp] theorem State.modCtx_win (s : State) (x : Nat) (f : Ctx → Ctx) : (s.modCtx x f).win = s.win := rfl
@[simp] theorem State.modCtx_boot (s : State) (x : Nat) (f : Ctx → Ctx) : (s.modCtx x f).boot = s.boot := rfl
@[simp] theorem State.modCtx_power (s : State) (x : Nat) (f : Ctx → Ctx) : (s.modCtx x f).power = s.power := rfl
@[simp] theorem State.modCtx_hst (s : State) (x : Nat) (f : Ctx → Ctx) : (s.modCtx x f).hst = s.hst := rfl
@[simp] theorem State.modCtx_fenced (s : State) (x : Nat) (f : Ctx → Ctx) : (s.modCtx x f).fenced = s.fenced := rfl
@[simp] theorem State.modCtx_images (s : State) (x : Nat) (f : Ctx → Ctx) : (s.modCtx x f).images = s.images := rfl

/-! ### State.modCore -/

@[simp] theorem State.modCore_cur (s : State) (x c : Nat) (f : CtxCore → CtxCore) : (s.modCore x c f).cur = s.cur := rfl
@[simp] theorem State.modCore_agenda (s : State) (x c : Nat) (f : CtxCore → CtxCore) : (s.modCore x c f).agenda = s.agenda := rfl
@[simp] theorem State.modCore_clock (s : State) (x c : Nat) (f : CtxCore → CtxCore) : (s.modCore x c f).clock = s.clock := rfl
@[simp] theorem State.modCore_fresh (s : State) (x c : Nat) (f : CtxCore → CtxCore) : (s.modCore x c f).fresh = s.fresh := rfl
@[simp] theorem State.modCore_mem (s : State) (x c : Nat) (f : CtxCore → CtxCore) : (s.modCore x c f).mem = s.mem := rfl
@[simp] theorem State.modCore_far (s : State) (x c : Nat) (f : CtxCore → CtxCore) : (s.modCore x c f).far = s.far := rfl
@[simp] theorem State.modCore_ctl (s : State) (x c : Nat) (f : CtxCore → CtxCore) : (s.modCore x c f).ctl = s.ctl := rfl
@[simp] theorem State.modCore_parts (s : State) (x c : Nat) (f : CtxCore → CtxCore) : (s.modCore x c f).parts = s.parts := rfl
@[simp] theorem State.modCore_cores (s : State) (x c : Nat) (f : CtxCore → CtxCore) : (s.modCore x c f).cores = s.cores := rfl
@[simp] theorem State.modCore_coh (s : State) (x c : Nat) (f : CtxCore → CtxCore) : (s.modCore x c f).coh = s.coh := rfl
@[simp] theorem State.modCore_tr (s : State) (x c : Nat) (f : CtxCore → CtxCore) : (s.modCore x c f).tr = s.tr := rfl
@[simp] theorem State.modCore_win (s : State) (x c : Nat) (f : CtxCore → CtxCore) : (s.modCore x c f).win = s.win := rfl
@[simp] theorem State.modCore_boot (s : State) (x c : Nat) (f : CtxCore → CtxCore) : (s.modCore x c f).boot = s.boot := rfl
@[simp] theorem State.modCore_power (s : State) (x c : Nat) (f : CtxCore → CtxCore) : (s.modCore x c f).power = s.power := rfl
@[simp] theorem State.modCore_hst (s : State) (x c : Nat) (f : CtxCore → CtxCore) : (s.modCore x c f).hst = s.hst := rfl
@[simp] theorem State.modCore_fenced (s : State) (x c : Nat) (f : CtxCore → CtxCore) : (s.modCore x c f).fenced = s.fenced := rfl
@[simp] theorem State.modCore_images (s : State) (x c : Nat) (f : CtxCore → CtxCore) : (s.modCore x c f).images = s.images := rfl

/-! ### State.modBlk -/

@[simp] theorem State.modBlk_cur (s : State) (x c b : Nat) (f : Block → Block) : (s.modBlk x c b f).cur = s.cur := rfl
@[simp] theorem State.modBlk_agenda (s : State) (x c b : Nat) (f : Block → Block) : (s.modBlk x c b f).agenda = s.agenda := rfl
@[simp] theorem State.modBlk_clock (s : State) (x c b : Nat) (f : Block → Block) : (s.modBlk x c b f).clock = s.clock := rfl
@[simp] theorem State.modBlk_fresh (s : State) (x c b : Nat) (f : Block → Block) : (s.modBlk x c b f).fresh = s.fresh := rfl
@[simp] theorem State.modBlk_mem (s : State) (x c b : Nat) (f : Block → Block) : (s.modBlk x c b f).mem = s.mem := rfl
@[simp] theorem State.modBlk_far (s : State) (x c b : Nat) (f : Block → Block) : (s.modBlk x c b f).far = s.far := rfl
@[simp] theorem State.modBlk_ctl (s : State) (x c b : Nat) (f : Block → Block) : (s.modBlk x c b f).ctl = s.ctl := rfl
@[simp] theorem State.modBlk_parts (s : State) (x c b : Nat) (f : Block → Block) : (s.modBlk x c b f).parts = s.parts := rfl
@[simp] theorem State.modBlk_cores (s : State) (x c b : Nat) (f : Block → Block) : (s.modBlk x c b f).cores = s.cores := rfl
@[simp] theorem State.modBlk_coh (s : State) (x c b : Nat) (f : Block → Block) : (s.modBlk x c b f).coh = s.coh := rfl
@[simp] theorem State.modBlk_tr (s : State) (x c b : Nat) (f : Block → Block) : (s.modBlk x c b f).tr = s.tr := rfl
@[simp] theorem State.modBlk_win (s : State) (x c b : Nat) (f : Block → Block) : (s.modBlk x c b f).win = s.win := rfl
@[simp] theorem State.modBlk_boot (s : State) (x c b : Nat) (f : Block → Block) : (s.modBlk x c b f).boot = s.boot := rfl
@[simp] theorem State.modBlk_power (s : State) (x c b : Nat) (f : Block → Block) : (s.modBlk x c b f).power = s.power := rfl
@[simp] theorem State.modBlk_hst (s : State) (x c b : Nat) (f : Block → Block) : (s.modBlk x c b f).hst = s.hst := rfl
@[simp] theorem State.modBlk_fenced (s : State) (x c b : Nat) (f : Block → Block) : (s.modBlk x c b f).fenced = s.fenced := rfl
@[simp] theorem State.modBlk_images (s : State) (x c b : Nat) (f : Block → Block) : (s.modBlk x c b f).images = s.images := rfl

/-! ### State.modPart -/

@[simp] theorem State.modPart_cur (s : State) (p : Nat) (f : Part → Part) : (s.modPart p f).cur = s.cur := rfl
@[simp] theorem State.modPart_agenda (s : State) (p : Nat) (f : Part → Part) : (s.modPart p f).agenda = s.agenda := rfl
@[simp] theorem State.modPart_clock (s : State) (p : Nat) (f : Part → Part) : (s.modPart p f).clock = s.clock := rfl
@[simp] theorem State.modPart_fresh (s : State) (p : Nat) (f : Part → Part) : (s.modPart p f).fresh = s.fresh := rfl
@[simp] theorem State.modPart_mem (s : State) (p : Nat) (f : Part → Part) : (s.modPart p f).mem = s.mem := rfl
@[simp] theorem State.modPart_far (s : State) (p : Nat) (f : Part → Part) : (s.modPart p f).far = s.far := rfl
@[simp] theorem State.modPart_ctl (s : State) (p : Nat) (f : Part → Part) : (s.modPart p f).ctl = s.ctl := rfl
@[simp] theorem State.modPart_ctxs (s : State) (p : Nat) (f : Part → Part) : (s.modPart p f).ctxs = s.ctxs := rfl
@[simp] theorem State.modPart_cores (s : State) (p : Nat) (f : Part → Part) : (s.modPart p f).cores = s.cores := rfl
@[simp] theorem State.modPart_coh (s : State) (p : Nat) (f : Part → Part) : (s.modPart p f).coh = s.coh := rfl
@[simp] theorem State.modPart_tr (s : State) (p : Nat) (f : Part → Part) : (s.modPart p f).tr = s.tr := rfl
@[simp] theorem State.modPart_win (s : State) (p : Nat) (f : Part → Part) : (s.modPart p f).win = s.win := rfl
@[simp] theorem State.modPart_boot (s : State) (p : Nat) (f : Part → Part) : (s.modPart p f).boot = s.boot := rfl
@[simp] theorem State.modPart_power (s : State) (p : Nat) (f : Part → Part) : (s.modPart p f).power = s.power := rfl
@[simp] theorem State.modPart_hst (s : State) (p : Nat) (f : Part → Part) : (s.modPart p f).hst = s.hst := rfl
@[simp] theorem State.modPart_fenced (s : State) (p : Nat) (f : Part → Part) : (s.modPart p f).fenced = s.fenced := rfl
@[simp] theorem State.modPart_images (s : State) (p : Nat) (f : Part → Part) : (s.modPart p f).images = s.images := rfl

/-! ### State.modCtl -/

@[simp] theorem State.modCtl_cur (s : State) (n : Nat) (f : Ctl → Ctl) : (s.modCtl n f).cur = s.cur := rfl
@[simp] theorem State.modCtl_agenda (s : State) (n : Nat) (f : Ctl → Ctl) : (s.modCtl n f).agenda = s.agenda := rfl
@[simp] theorem State.modCtl_clock (s : State) (n : Nat) (f : Ctl → Ctl) : (s.modCtl n f).clock = s.clock := rfl
@[simp] theorem State.modCtl_fresh (s : State) (n : Nat) (f : Ctl → Ctl) : (s.modCtl n f).fresh = s.fresh := rfl
@[simp] theorem State.modCtl_mem (s : State) (n : Nat) (f : Ctl → Ctl) : (s.modCtl n f).mem = s.mem := rfl
@[simp] theorem State.modCtl_far (s : State) (n : Nat) (f : Ctl → Ctl) : (s.modCtl n f).far = s.far := rfl
@[simp] theorem State.modCtl_parts (s : State) (n : Nat) (f : Ctl → Ctl) : (s.modCtl n f).parts = s.parts := rfl
@[simp] theorem State.modCtl_ctxs (s : State) (n : Nat) (f : Ctl → Ctl) : (s.modCtl n f).ctxs = s.ctxs := rfl
@[simp] theorem State.modCtl_cores (s : State) (n : Nat) (f : Ctl → Ctl) : (s.modCtl n f).cores = s.cores := rfl
@[simp] theorem State.modCtl_coh (s : State) (n : Nat) (f : Ctl → Ctl) : (s.modCtl n f).coh = s.coh := rfl
@[simp] theorem State.modCtl_tr (s : State) (n : Nat) (f : Ctl → Ctl) : (s.modCtl n f).tr = s.tr := rfl
@[simp] theorem State.modCtl_win (s : State) (n : Nat) (f : Ctl → Ctl) : (s.modCtl n f).win = s.win := rfl
@[simp] theorem State.modCtl_boot (s : State) (n : Nat) (f : Ctl → Ctl) : (s.modCtl n f).boot = s.boot := rfl
@[simp] theorem State.modCtl_power (s : State) (n : Nat) (f : Ctl → Ctl) : (s.modCtl n f).power = s.power := rfl
@[simp] theorem State.modCtl_hst (s : State) (n : Nat) (f : Ctl → Ctl) : (s.modCtl n f).hst = s.hst := rfl
@[simp] theorem State.modCtl_fenced (s : State) (n : Nat) (f : Ctl → Ctl) : (s.modCtl n f).fenced = s.fenced := rfl
@[simp] theorem State.modCtl_images (s : State) (n : Nat) (f : Ctl → Ctl) : (s.modCtl n f).images = s.images := rfl

/-! ### State.setCore -/

@[simp] theorem State.setCore_cur (s : State) (i : Nat) (c : CorePhys) : (s.setCore i c).cur = s.cur := rfl
@[simp] theorem State.setCore_agenda (s : State) (i : Nat) (c : CorePhys) : (s.setCore i c).agenda = s.agenda := rfl
@[simp] theorem State.setCore_clock (s : State) (i : Nat) (c : CorePhys) : (s.setCore i c).clock = s.clock := rfl
@[simp] theorem State.setCore_fresh (s : State) (i : Nat) (c : CorePhys) : (s.setCore i c).fresh = s.fresh := rfl
@[simp] theorem State.setCore_mem (s : State) (i : Nat) (c : CorePhys) : (s.setCore i c).mem = s.mem := rfl
@[simp] theorem State.setCore_far (s : State) (i : Nat) (c : CorePhys) : (s.setCore i c).far = s.far := rfl
@[simp] theorem State.setCore_ctl (s : State) (i : Nat) (c : CorePhys) : (s.setCore i c).ctl = s.ctl := rfl
@[simp] theorem State.setCore_parts (s : State) (i : Nat) (c : CorePhys) : (s.setCore i c).parts = s.parts := rfl
@[simp] theorem State.setCore_ctxs (s : State) (i : Nat) (c : CorePhys) : (s.setCore i c).ctxs = s.ctxs := rfl
@[simp] theorem State.setCore_coh (s : State) (i : Nat) (c : CorePhys) : (s.setCore i c).coh = s.coh := rfl
@[simp] theorem State.setCore_tr (s : State) (i : Nat) (c : CorePhys) : (s.setCore i c).tr = s.tr := rfl
@[simp] theorem State.setCore_win (s : State) (i : Nat) (c : CorePhys) : (s.setCore i c).win = s.win := rfl
@[simp] theorem State.setCore_boot (s : State) (i : Nat) (c : CorePhys) : (s.setCore i c).boot = s.boot := rfl
@[simp] theorem State.setCore_power (s : State) (i : Nat) (c : CorePhys) : (s.setCore i c).power = s.power := rfl
@[simp] theorem State.setCore_hst (s : State) (i : Nat) (c : CorePhys) : (s.setCore i c).hst = s.hst := rfl
@[simp] theorem State.setCore_fenced (s : State) (i : Nat) (c : CorePhys) : (s.setCore i c).fenced = s.fenced := rfl
@[simp] theorem State.setCore_images (s : State) (i : Nat) (c : CorePhys) : (s.setCore i c).images = s.images := rfl

/-! ### State.modPhys -/

@[simp] theorem State.modPhys_cur (s : State) (i : Nat) (f : CorePhys → CorePhys) : (s.modPhys i f).cur = s.cur := rfl
@[simp] theorem State.modPhys_agenda (s : State) (i : Nat) (f : CorePhys → CorePhys) : (s.modPhys i f).agenda = s.agenda := rfl
@[simp] theorem State.modPhys_clock (s : State) (i : Nat) (f : CorePhys → CorePhys) : (s.modPhys i f).clock = s.clock := rfl
@[simp] theorem State.modPhys_fresh (s : State) (i : Nat) (f : CorePhys → CorePhys) : (s.modPhys i f).fresh = s.fresh := rfl
@[simp] theorem State.modPhys_mem (s : State) (i : Nat) (f : CorePhys → CorePhys) : (s.modPhys i f).mem = s.mem := rfl
@[simp] theorem State.modPhys_far (s : State) (i : Nat) (f : CorePhys → CorePhys) : (s.modPhys i f).far = s.far := rfl
@[simp] theorem State.modPhys_ctl (s : State) (i : Nat) (f : CorePhys → CorePhys) : (s.modPhys i f).ctl = s.ctl := rfl
@[simp] theorem State.modPhys_parts (s : State) (i : Nat) (f : CorePhys → CorePhys) : (s.modPhys i f).parts = s.parts := rfl
@[simp] theorem State.modPhys_ctxs (s : State) (i : Nat) (f : CorePhys → CorePhys) : (s.modPhys i f).ctxs = s.ctxs := rfl
@[simp] theorem State.modPhys_coh (s : State) (i : Nat) (f : CorePhys → CorePhys) : (s.modPhys i f).coh = s.coh := rfl
@[simp] theorem State.modPhys_tr (s : State) (i : Nat) (f : CorePhys → CorePhys) : (s.modPhys i f).tr = s.tr := rfl
@[simp] theorem State.modPhys_win (s : State) (i : Nat) (f : CorePhys → CorePhys) : (s.modPhys i f).win = s.win := rfl
@[simp] theorem State.modPhys_boot (s : State) (i : Nat) (f : CorePhys → CorePhys) : (s.modPhys i f).boot = s.boot := rfl
@[simp] theorem State.modPhys_power (s : State) (i : Nat) (f : CorePhys → CorePhys) : (s.modPhys i f).power = s.power := rfl
@[simp] theorem State.modPhys_hst (s : State) (i : Nat) (f : CorePhys → CorePhys) : (s.modPhys i f).hst = s.hst := rfl
@[simp] theorem State.modPhys_fenced (s : State) (i : Nat) (f : CorePhys → CorePhys) : (s.modPhys i f).fenced = s.fenced := rfl
@[simp] theorem State.modPhys_images (s : State) (i : Nat) (f : CorePhys → CorePhys) : (s.modPhys i f).images = s.images := rfl

/-! ### State.modWin -/

@[simp] theorem State.modWin_cur (s : State) (d : Nat) (f : Window → Window) : (s.modWin d f).cur = s.cur := rfl
@[simp] theorem State.modWin_agenda (s : State) (d : Nat) (f : Window → Window) : (s.modWin d f).agenda = s.agenda := rfl
@[simp] theorem State.modWin_clock (s : State) (d : Nat) (f : Window → Window) : (s.modWin d f).clock = s.clock := rfl
@[simp] theorem State.modWin_fresh (s : State) (d : Nat) (f : Window → Window) : (s.modWin d f).fresh = s.fresh := rfl
@[simp] theorem State.modWin_mem (s : State) (d : Nat) (f : Window → Window) : (s.modWin d f).mem = s.mem := rfl
@[simp] theorem State.modWin_far (s : State) (d : Nat) (f : Window → Window) : (s.modWin d f).far = s.far := rfl
@[simp] theorem State.modWin_ctl (s : State) (d : Nat) (f : Window → Window) : (s.modWin d f).ctl = s.ctl := rfl
@[simp] theorem State.modWin_parts (s : State) (d : Nat) (f : Window → Window) : (s.modWin d f).parts = s.parts := rfl
@[simp] theorem State.modWin_ctxs (s : State) (d : Nat) (f : Window → Window) : (s.modWin d f).ctxs = s.ctxs := rfl
@[simp] theorem State.modWin_cores (s : State) (d : Nat) (f : Window → Window) : (s.modWin d f).cores = s.cores := rfl
@[simp] theorem State.modWin_coh (s : State) (d : Nat) (f : Window → Window) : (s.modWin d f).coh = s.coh := rfl
@[simp] theorem State.modWin_tr (s : State) (d : Nat) (f : Window → Window) : (s.modWin d f).tr = s.tr := rfl
@[simp] theorem State.modWin_boot (s : State) (d : Nat) (f : Window → Window) : (s.modWin d f).boot = s.boot := rfl
@[simp] theorem State.modWin_power (s : State) (d : Nat) (f : Window → Window) : (s.modWin d f).power = s.power := rfl
@[simp] theorem State.modWin_hst (s : State) (d : Nat) (f : Window → Window) : (s.modWin d f).hst = s.hst := rfl
@[simp] theorem State.modWin_fenced (s : State) (d : Nat) (f : Window → Window) : (s.modWin d f).fenced = s.fenced := rfl
@[simp] theorem State.modWin_images (s : State) (d : Nat) (f : Window → Window) : (s.modWin d f).images = s.images := rfl

/-! ### State.setThr, setMe, modMe, modThr: everything but ctl and ctxs stays -/

@[simp] theorem State.setThr_cur (s : State) (t : Tid) (th : Thread) : (s.setThr t th).cur = s.cur := by cases t <;> rfl
@[simp] theorem State.setThr_agenda (s : State) (t : Tid) (th : Thread) : (s.setThr t th).agenda = s.agenda := by cases t <;> rfl
@[simp] theorem State.setThr_clock (s : State) (t : Tid) (th : Thread) : (s.setThr t th).clock = s.clock := by cases t <;> rfl
@[simp] theorem State.setThr_fresh (s : State) (t : Tid) (th : Thread) : (s.setThr t th).fresh = s.fresh := by cases t <;> rfl
@[simp] theorem State.setThr_mem (s : State) (t : Tid) (th : Thread) : (s.setThr t th).mem = s.mem := by cases t <;> rfl
@[simp] theorem State.setThr_far (s : State) (t : Tid) (th : Thread) : (s.setThr t th).far = s.far := by cases t <;> rfl
@[simp] theorem State.setThr_parts (s : State) (t : Tid) (th : Thread) : (s.setThr t th).parts = s.parts := by cases t <;> rfl
@[simp] theorem State.setThr_cores (s : State) (t : Tid) (th : Thread) : (s.setThr t th).cores = s.cores := by cases t <;> rfl
@[simp] theorem State.setThr_coh (s : State) (t : Tid) (th : Thread) : (s.setThr t th).coh = s.coh := by cases t <;> rfl
@[simp] theorem State.setThr_tr (s : State) (t : Tid) (th : Thread) : (s.setThr t th).tr = s.tr := by cases t <;> rfl
@[simp] theorem State.setThr_win (s : State) (t : Tid) (th : Thread) : (s.setThr t th).win = s.win := by cases t <;> rfl
@[simp] theorem State.setThr_boot (s : State) (t : Tid) (th : Thread) : (s.setThr t th).boot = s.boot := by cases t <;> rfl
@[simp] theorem State.setThr_power (s : State) (t : Tid) (th : Thread) : (s.setThr t th).power = s.power := by cases t <;> rfl
@[simp] theorem State.setThr_hst (s : State) (t : Tid) (th : Thread) : (s.setThr t th).hst = s.hst := by cases t <;> rfl
@[simp] theorem State.setThr_fenced (s : State) (t : Tid) (th : Thread) : (s.setThr t th).fenced = s.fenced := by cases t <;> rfl
@[simp] theorem State.setThr_images (s : State) (t : Tid) (th : Thread) : (s.setThr t th).images = s.images := by cases t <;> rfl
@[simp] theorem State.setMe_cur (s : State) (th : Thread) : (s.setMe th).cur = s.cur := s.setThr_cur _ _
@[simp] theorem State.modMe_cur (s : State) (f : Thread → Thread) : (s.modMe f).cur = s.cur := s.setThr_cur _ _
@[simp] theorem State.modThr_cur (s : State) (t : Tid) (f : Thread → Thread) : (s.modThr t f).cur = s.cur := s.setThr_cur _ _
@[simp] theorem State.setMe_agenda (s : State) (th : Thread) : (s.setMe th).agenda = s.agenda := s.setThr_agenda _ _
@[simp] theorem State.modMe_agenda (s : State) (f : Thread → Thread) : (s.modMe f).agenda = s.agenda := s.setThr_agenda _ _
@[simp] theorem State.modThr_agenda (s : State) (t : Tid) (f : Thread → Thread) : (s.modThr t f).agenda = s.agenda := s.setThr_agenda _ _
@[simp] theorem State.setMe_clock (s : State) (th : Thread) : (s.setMe th).clock = s.clock := s.setThr_clock _ _
@[simp] theorem State.modMe_clock (s : State) (f : Thread → Thread) : (s.modMe f).clock = s.clock := s.setThr_clock _ _
@[simp] theorem State.modThr_clock (s : State) (t : Tid) (f : Thread → Thread) : (s.modThr t f).clock = s.clock := s.setThr_clock _ _
@[simp] theorem State.setMe_fresh (s : State) (th : Thread) : (s.setMe th).fresh = s.fresh := s.setThr_fresh _ _
@[simp] theorem State.modMe_fresh (s : State) (f : Thread → Thread) : (s.modMe f).fresh = s.fresh := s.setThr_fresh _ _
@[simp] theorem State.modThr_fresh (s : State) (t : Tid) (f : Thread → Thread) : (s.modThr t f).fresh = s.fresh := s.setThr_fresh _ _
@[simp] theorem State.setMe_mem (s : State) (th : Thread) : (s.setMe th).mem = s.mem := s.setThr_mem _ _
@[simp] theorem State.modMe_mem (s : State) (f : Thread → Thread) : (s.modMe f).mem = s.mem := s.setThr_mem _ _
@[simp] theorem State.modThr_mem (s : State) (t : Tid) (f : Thread → Thread) : (s.modThr t f).mem = s.mem := s.setThr_mem _ _
@[simp] theorem State.setMe_far (s : State) (th : Thread) : (s.setMe th).far = s.far := s.setThr_far _ _
@[simp] theorem State.modMe_far (s : State) (f : Thread → Thread) : (s.modMe f).far = s.far := s.setThr_far _ _
@[simp] theorem State.modThr_far (s : State) (t : Tid) (f : Thread → Thread) : (s.modThr t f).far = s.far := s.setThr_far _ _
@[simp] theorem State.setMe_parts (s : State) (th : Thread) : (s.setMe th).parts = s.parts := s.setThr_parts _ _
@[simp] theorem State.modMe_parts (s : State) (f : Thread → Thread) : (s.modMe f).parts = s.parts := s.setThr_parts _ _
@[simp] theorem State.modThr_parts (s : State) (t : Tid) (f : Thread → Thread) : (s.modThr t f).parts = s.parts := s.setThr_parts _ _
@[simp] theorem State.setMe_cores (s : State) (th : Thread) : (s.setMe th).cores = s.cores := s.setThr_cores _ _
@[simp] theorem State.modMe_cores (s : State) (f : Thread → Thread) : (s.modMe f).cores = s.cores := s.setThr_cores _ _
@[simp] theorem State.modThr_cores (s : State) (t : Tid) (f : Thread → Thread) : (s.modThr t f).cores = s.cores := s.setThr_cores _ _
@[simp] theorem State.setMe_coh (s : State) (th : Thread) : (s.setMe th).coh = s.coh := s.setThr_coh _ _
@[simp] theorem State.modMe_coh (s : State) (f : Thread → Thread) : (s.modMe f).coh = s.coh := s.setThr_coh _ _
@[simp] theorem State.modThr_coh (s : State) (t : Tid) (f : Thread → Thread) : (s.modThr t f).coh = s.coh := s.setThr_coh _ _
@[simp] theorem State.setMe_tr (s : State) (th : Thread) : (s.setMe th).tr = s.tr := s.setThr_tr _ _
@[simp] theorem State.modMe_tr (s : State) (f : Thread → Thread) : (s.modMe f).tr = s.tr := s.setThr_tr _ _
@[simp] theorem State.modThr_tr (s : State) (t : Tid) (f : Thread → Thread) : (s.modThr t f).tr = s.tr := s.setThr_tr _ _
@[simp] theorem State.setMe_win (s : State) (th : Thread) : (s.setMe th).win = s.win := s.setThr_win _ _
@[simp] theorem State.modMe_win (s : State) (f : Thread → Thread) : (s.modMe f).win = s.win := s.setThr_win _ _
@[simp] theorem State.modThr_win (s : State) (t : Tid) (f : Thread → Thread) : (s.modThr t f).win = s.win := s.setThr_win _ _
@[simp] theorem State.setMe_boot (s : State) (th : Thread) : (s.setMe th).boot = s.boot := s.setThr_boot _ _
@[simp] theorem State.modMe_boot (s : State) (f : Thread → Thread) : (s.modMe f).boot = s.boot := s.setThr_boot _ _
@[simp] theorem State.modThr_boot (s : State) (t : Tid) (f : Thread → Thread) : (s.modThr t f).boot = s.boot := s.setThr_boot _ _
@[simp] theorem State.setMe_power (s : State) (th : Thread) : (s.setMe th).power = s.power := s.setThr_power _ _
@[simp] theorem State.modMe_power (s : State) (f : Thread → Thread) : (s.modMe f).power = s.power := s.setThr_power _ _
@[simp] theorem State.modThr_power (s : State) (t : Tid) (f : Thread → Thread) : (s.modThr t f).power = s.power := s.setThr_power _ _
@[simp] theorem State.setMe_hst (s : State) (th : Thread) : (s.setMe th).hst = s.hst := s.setThr_hst _ _
@[simp] theorem State.modMe_hst (s : State) (f : Thread → Thread) : (s.modMe f).hst = s.hst := s.setThr_hst _ _
@[simp] theorem State.modThr_hst (s : State) (t : Tid) (f : Thread → Thread) : (s.modThr t f).hst = s.hst := s.setThr_hst _ _
@[simp] theorem State.setMe_fenced (s : State) (th : Thread) : (s.setMe th).fenced = s.fenced := s.setThr_fenced _ _
@[simp] theorem State.modMe_fenced (s : State) (f : Thread → Thread) : (s.modMe f).fenced = s.fenced := s.setThr_fenced _ _
@[simp] theorem State.modThr_fenced (s : State) (t : Tid) (f : Thread → Thread) : (s.modThr t f).fenced = s.fenced := s.setThr_fenced _ _
@[simp] theorem State.setMe_images (s : State) (th : Thread) : (s.setMe th).images = s.images := s.setThr_images _ _
@[simp] theorem State.modMe_images (s : State) (f : Thread → Thread) : (s.modMe f).images = s.images := s.setThr_images _ _
@[simp] theorem State.modThr_images (s : State) (t : Tid) (f : Thread → Thread) : (s.modThr t f).images = s.images := s.setThr_images _ _

/-! ### Threads -/

@[simp] theorem Thread.setG_pc (th : Thread) (n : Nat) (v : Word): (th.setG n v).pc = th.pc := rfl
@[simp] theorem Thread.setG_p (th : Thread) (n : Nat) (v : Word): (th.setG n v).p = th.p := rfl
@[simp] theorem Thread.setG_a (th : Thread) (n : Nat) (v : Word): (th.setG n v).a = th.a := rfl
@[simp] theorem Thread.setG_m (th : Thread) (n : Nat) (v : Word): (th.setG n v).m = th.m := rfl
@[simp] theorem Thread.setG_k (th : Thread) (n : Nat) (v : Word): (th.setG n v).k = th.k := rfl
@[simp] theorem Thread.setG_hints (th : Thread) (n : Nat) (v : Word): (th.setG n v).hints = th.hints := rfl
@[simp] theorem Thread.setG_fpmode (th : Thread) (n : Nat) (v : Word): (th.setG n v).fpmode = th.fpmode := rfl
@[simp] theorem Thread.setG_fpflags (th : Thread) (n : Nat) (v : Word): (th.setG n v).fpflags = th.fpflags := rfl
@[simp] theorem Thread.setG_srseed (th : Thread) (n : Nat) (v : Word): (th.setG n v).srseed = th.srseed := rfl
@[simp] theorem Thread.setG_regmode (th : Thread) (n : Nat) (v : Word): (th.setG n v).regmode = th.regmode := rfl
@[simp] theorem Thread.setG_hold (th : Thread) (n : Nat) (v : Word): (th.setG n v).hold = th.hold := rfl
@[simp] theorem Thread.setG_gang (th : Thread) (n : Nat) (v : Word): (th.setG n v).gang = th.gang := rfl
@[simp] theorem Thread.setG_lease (th : Thread) (n : Nat) (v : Word): (th.setG n v).lease = th.lease := rfl
@[simp] theorem Thread.setG_cpopen (th : Thread) (n : Nat) (v : Word): (th.setG n v).cpopen = th.cpopen := rfl
@[simp] theorem Thread.setG_alloc (th : Thread) (n : Nat) (v : Word): (th.setG n v).alloc = th.alloc := rfl
@[simp] theorem Thread.setG_pend (th : Thread) (n : Nat) (v : Word): (th.setG n v).pend = th.pend := rfl
@[simp] theorem Thread.setG_par (th : Thread) (n : Nat) (v : Word): (th.setG n v).par = th.par := rfl
@[simp] theorem Thread.setG_iss (th : Thread) (n : Nat) (v : Word): (th.setG n v).iss = th.iss := rfl
@[simp] theorem Thread.setG_entry (th : Thread) (n : Nat) (v : Word): (th.setG n v).entry = th.entry := rfl
@[simp] theorem Thread.setG_met (th : Thread) (n : Nat) (v : Word): (th.setG n v).met = th.met := rfl
@[simp] theorem Thread.setG_acq (th : Thread) (n : Nat) (v : Word): (th.setG n v).acq = th.acq := rfl

@[simp] theorem Thread.setA_pc (th : Thread) (n : Nat) (v : Dword): (th.setA n v).pc = th.pc := rfl
@[simp] theorem Thread.setA_g (th : Thread) (n : Nat) (v : Dword): (th.setA n v).g = th.g := rfl
@[simp] theorem Thread.setA_p (th : Thread) (n : Nat) (v : Dword): (th.setA n v).p = th.p := rfl
@[simp] theorem Thread.setA_m (th : Thread) (n : Nat) (v : Dword): (th.setA n v).m = th.m := rfl
@[simp] theorem Thread.setA_k (th : Thread) (n : Nat) (v : Dword): (th.setA n v).k = th.k := rfl
@[simp] theorem Thread.setA_hints (th : Thread) (n : Nat) (v : Dword): (th.setA n v).hints = th.hints := rfl
@[simp] theorem Thread.setA_fpmode (th : Thread) (n : Nat) (v : Dword): (th.setA n v).fpmode = th.fpmode := rfl
@[simp] theorem Thread.setA_fpflags (th : Thread) (n : Nat) (v : Dword): (th.setA n v).fpflags = th.fpflags := rfl
@[simp] theorem Thread.setA_srseed (th : Thread) (n : Nat) (v : Dword): (th.setA n v).srseed = th.srseed := rfl
@[simp] theorem Thread.setA_regmode (th : Thread) (n : Nat) (v : Dword): (th.setA n v).regmode = th.regmode := rfl
@[simp] theorem Thread.setA_hold (th : Thread) (n : Nat) (v : Dword): (th.setA n v).hold = th.hold := rfl
@[simp] theorem Thread.setA_gang (th : Thread) (n : Nat) (v : Dword): (th.setA n v).gang = th.gang := rfl
@[simp] theorem Thread.setA_lease (th : Thread) (n : Nat) (v : Dword): (th.setA n v).lease = th.lease := rfl
@[simp] theorem Thread.setA_cpopen (th : Thread) (n : Nat) (v : Dword): (th.setA n v).cpopen = th.cpopen := rfl
@[simp] theorem Thread.setA_alloc (th : Thread) (n : Nat) (v : Dword): (th.setA n v).alloc = th.alloc := rfl
@[simp] theorem Thread.setA_pend (th : Thread) (n : Nat) (v : Dword): (th.setA n v).pend = th.pend := rfl
@[simp] theorem Thread.setA_par (th : Thread) (n : Nat) (v : Dword): (th.setA n v).par = th.par := rfl
@[simp] theorem Thread.setA_iss (th : Thread) (n : Nat) (v : Dword): (th.setA n v).iss = th.iss := rfl
@[simp] theorem Thread.setA_entry (th : Thread) (n : Nat) (v : Dword): (th.setA n v).entry = th.entry := rfl
@[simp] theorem Thread.setA_met (th : Thread) (n : Nat) (v : Dword): (th.setA n v).met = th.met := rfl
@[simp] theorem Thread.setA_acq (th : Thread) (n : Nat) (v : Dword): (th.setA n v).acq = th.acq := rfl

@[simp] theorem Thread.setM_pc (th : Thread) (n : Nat) (v : Dword): (th.setM n v).pc = th.pc := rfl
@[simp] theorem Thread.setM_g (th : Thread) (n : Nat) (v : Dword): (th.setM n v).g = th.g := rfl
@[simp] theorem Thread.setM_p (th : Thread) (n : Nat) (v : Dword): (th.setM n v).p = th.p := rfl
@[simp] theorem Thread.setM_a (th : Thread) (n : Nat) (v : Dword): (th.setM n v).a = th.a := rfl
@[simp] theorem Thread.setM_k (th : Thread) (n : Nat) (v : Dword): (th.setM n v).k = th.k := rfl
@[simp] theorem Thread.setM_hints (th : Thread) (n : Nat) (v : Dword): (th.setM n v).hints = th.hints := rfl
@[simp] theorem Thread.setM_fpmode (th : Thread) (n : Nat) (v : Dword): (th.setM n v).fpmode = th.fpmode := rfl
@[simp] theorem Thread.setM_fpflags (th : Thread) (n : Nat) (v : Dword): (th.setM n v).fpflags = th.fpflags := rfl
@[simp] theorem Thread.setM_srseed (th : Thread) (n : Nat) (v : Dword): (th.setM n v).srseed = th.srseed := rfl
@[simp] theorem Thread.setM_regmode (th : Thread) (n : Nat) (v : Dword): (th.setM n v).regmode = th.regmode := rfl
@[simp] theorem Thread.setM_hold (th : Thread) (n : Nat) (v : Dword): (th.setM n v).hold = th.hold := rfl
@[simp] theorem Thread.setM_gang (th : Thread) (n : Nat) (v : Dword): (th.setM n v).gang = th.gang := rfl
@[simp] theorem Thread.setM_lease (th : Thread) (n : Nat) (v : Dword): (th.setM n v).lease = th.lease := rfl
@[simp] theorem Thread.setM_cpopen (th : Thread) (n : Nat) (v : Dword): (th.setM n v).cpopen = th.cpopen := rfl
@[simp] theorem Thread.setM_alloc (th : Thread) (n : Nat) (v : Dword): (th.setM n v).alloc = th.alloc := rfl
@[simp] theorem Thread.setM_pend (th : Thread) (n : Nat) (v : Dword): (th.setM n v).pend = th.pend := rfl
@[simp] theorem Thread.setM_par (th : Thread) (n : Nat) (v : Dword): (th.setM n v).par = th.par := rfl
@[simp] theorem Thread.setM_iss (th : Thread) (n : Nat) (v : Dword): (th.setM n v).iss = th.iss := rfl
@[simp] theorem Thread.setM_entry (th : Thread) (n : Nat) (v : Dword): (th.setM n v).entry = th.entry := rfl
@[simp] theorem Thread.setM_met (th : Thread) (n : Nat) (v : Dword): (th.setM n v).met = th.met := rfl
@[simp] theorem Thread.setM_acq (th : Thread) (n : Nat) (v : Dword): (th.setM n v).acq = th.acq := rfl

@[simp] theorem Thread.setK_pc (th : Thread) (n : Nat) (v : BitVec 256): (th.setK n v).pc = th.pc := rfl
@[simp] theorem Thread.setK_g (th : Thread) (n : Nat) (v : BitVec 256): (th.setK n v).g = th.g := rfl
@[simp] theorem Thread.setK_p (th : Thread) (n : Nat) (v : BitVec 256): (th.setK n v).p = th.p := rfl
@[simp] theorem Thread.setK_a (th : Thread) (n : Nat) (v : BitVec 256): (th.setK n v).a = th.a := rfl
@[simp] theorem Thread.setK_m (th : Thread) (n : Nat) (v : BitVec 256): (th.setK n v).m = th.m := rfl
@[simp] theorem Thread.setK_hints (th : Thread) (n : Nat) (v : BitVec 256): (th.setK n v).hints = th.hints := rfl
@[simp] theorem Thread.setK_fpmode (th : Thread) (n : Nat) (v : BitVec 256): (th.setK n v).fpmode = th.fpmode := rfl
@[simp] theorem Thread.setK_fpflags (th : Thread) (n : Nat) (v : BitVec 256): (th.setK n v).fpflags = th.fpflags := rfl
@[simp] theorem Thread.setK_srseed (th : Thread) (n : Nat) (v : BitVec 256): (th.setK n v).srseed = th.srseed := rfl
@[simp] theorem Thread.setK_regmode (th : Thread) (n : Nat) (v : BitVec 256): (th.setK n v).regmode = th.regmode := rfl
@[simp] theorem Thread.setK_hold (th : Thread) (n : Nat) (v : BitVec 256): (th.setK n v).hold = th.hold := rfl
@[simp] theorem Thread.setK_gang (th : Thread) (n : Nat) (v : BitVec 256): (th.setK n v).gang = th.gang := rfl
@[simp] theorem Thread.setK_lease (th : Thread) (n : Nat) (v : BitVec 256): (th.setK n v).lease = th.lease := rfl
@[simp] theorem Thread.setK_cpopen (th : Thread) (n : Nat) (v : BitVec 256): (th.setK n v).cpopen = th.cpopen := rfl
@[simp] theorem Thread.setK_alloc (th : Thread) (n : Nat) (v : BitVec 256): (th.setK n v).alloc = th.alloc := rfl
@[simp] theorem Thread.setK_pend (th : Thread) (n : Nat) (v : BitVec 256): (th.setK n v).pend = th.pend := rfl
@[simp] theorem Thread.setK_par (th : Thread) (n : Nat) (v : BitVec 256): (th.setK n v).par = th.par := rfl
@[simp] theorem Thread.setK_iss (th : Thread) (n : Nat) (v : BitVec 256): (th.setK n v).iss = th.iss := rfl
@[simp] theorem Thread.setK_entry (th : Thread) (n : Nat) (v : BitVec 256): (th.setK n v).entry = th.entry := rfl
@[simp] theorem Thread.setK_met (th : Thread) (n : Nat) (v : BitVec 256): (th.setK n v).met = th.met := rfl
@[simp] theorem Thread.setK_acq (th : Thread) (n : Nat) (v : BitVec 256): (th.setK n v).acq = th.acq := rfl

@[simp] theorem Thread.setPair_pc (th : Thread) (n : Nat) (v : Dword): (th.setPair n v).pc = th.pc := rfl
@[simp] theorem Thread.setPair_p (th : Thread) (n : Nat) (v : Dword): (th.setPair n v).p = th.p := rfl
@[simp] theorem Thread.setPair_a (th : Thread) (n : Nat) (v : Dword): (th.setPair n v).a = th.a := rfl
@[simp] theorem Thread.setPair_m (th : Thread) (n : Nat) (v : Dword): (th.setPair n v).m = th.m := rfl
@[simp] theorem Thread.setPair_k (th : Thread) (n : Nat) (v : Dword): (th.setPair n v).k = th.k := rfl
@[simp] theorem Thread.setPair_hints (th : Thread) (n : Nat) (v : Dword): (th.setPair n v).hints = th.hints := rfl
@[simp] theorem Thread.setPair_fpmode (th : Thread) (n : Nat) (v : Dword): (th.setPair n v).fpmode = th.fpmode := rfl
@[simp] theorem Thread.setPair_fpflags (th : Thread) (n : Nat) (v : Dword): (th.setPair n v).fpflags = th.fpflags := rfl
@[simp] theorem Thread.setPair_srseed (th : Thread) (n : Nat) (v : Dword): (th.setPair n v).srseed = th.srseed := rfl
@[simp] theorem Thread.setPair_regmode (th : Thread) (n : Nat) (v : Dword): (th.setPair n v).regmode = th.regmode := rfl
@[simp] theorem Thread.setPair_hold (th : Thread) (n : Nat) (v : Dword): (th.setPair n v).hold = th.hold := rfl
@[simp] theorem Thread.setPair_gang (th : Thread) (n : Nat) (v : Dword): (th.setPair n v).gang = th.gang := rfl
@[simp] theorem Thread.setPair_lease (th : Thread) (n : Nat) (v : Dword): (th.setPair n v).lease = th.lease := rfl
@[simp] theorem Thread.setPair_cpopen (th : Thread) (n : Nat) (v : Dword): (th.setPair n v).cpopen = th.cpopen := rfl
@[simp] theorem Thread.setPair_alloc (th : Thread) (n : Nat) (v : Dword): (th.setPair n v).alloc = th.alloc := rfl
@[simp] theorem Thread.setPair_pend (th : Thread) (n : Nat) (v : Dword): (th.setPair n v).pend = th.pend := rfl
@[simp] theorem Thread.setPair_par (th : Thread) (n : Nat) (v : Dword): (th.setPair n v).par = th.par := rfl
@[simp] theorem Thread.setPair_iss (th : Thread) (n : Nat) (v : Dword): (th.setPair n v).iss = th.iss := rfl
@[simp] theorem Thread.setPair_entry (th : Thread) (n : Nat) (v : Dword): (th.setPair n v).entry = th.entry := rfl
@[simp] theorem Thread.setPair_met (th : Thread) (n : Nat) (v : Dword): (th.setPair n v).met = th.met := rfl
@[simp] theorem Thread.setPair_acq (th : Thread) (n : Nat) (v : Dword): (th.setPair n v).acq = th.acq := rfl

@[simp] theorem Thread.goTo_g (th : Thread) (pc : BitVec 57): (th.goTo pc).g = th.g := rfl
@[simp] theorem Thread.goTo_p (th : Thread) (pc : BitVec 57): (th.goTo pc).p = th.p := rfl
@[simp] theorem Thread.goTo_a (th : Thread) (pc : BitVec 57): (th.goTo pc).a = th.a := rfl
@[simp] theorem Thread.goTo_m (th : Thread) (pc : BitVec 57): (th.goTo pc).m = th.m := rfl
@[simp] theorem Thread.goTo_k (th : Thread) (pc : BitVec 57): (th.goTo pc).k = th.k := rfl
@[simp] theorem Thread.goTo_fpmode (th : Thread) (pc : BitVec 57): (th.goTo pc).fpmode = th.fpmode := rfl
@[simp] theorem Thread.goTo_fpflags (th : Thread) (pc : BitVec 57): (th.goTo pc).fpflags = th.fpflags := rfl
@[simp] theorem Thread.goTo_srseed (th : Thread) (pc : BitVec 57): (th.goTo pc).srseed = th.srseed := rfl
@[simp] theorem Thread.goTo_regmode (th : Thread) (pc : BitVec 57): (th.goTo pc).regmode = th.regmode := rfl
@[simp] theorem Thread.goTo_hold (th : Thread) (pc : BitVec 57): (th.goTo pc).hold = th.hold := rfl
@[simp] theorem Thread.goTo_gang (th : Thread) (pc : BitVec 57): (th.goTo pc).gang = th.gang := rfl
@[simp] theorem Thread.goTo_lease (th : Thread) (pc : BitVec 57): (th.goTo pc).lease = th.lease := rfl
@[simp] theorem Thread.goTo_cpopen (th : Thread) (pc : BitVec 57): (th.goTo pc).cpopen = th.cpopen := rfl
@[simp] theorem Thread.goTo_alloc (th : Thread) (pc : BitVec 57): (th.goTo pc).alloc = th.alloc := rfl
@[simp] theorem Thread.goTo_pend (th : Thread) (pc : BitVec 57): (th.goTo pc).pend = th.pend := rfl
@[simp] theorem Thread.goTo_par (th : Thread) (pc : BitVec 57): (th.goTo pc).par = th.par := rfl

@[simp] theorem Thread.past_g (th : Thread) : (th.past).g = th.g := rfl
@[simp] theorem Thread.past_p (th : Thread) : (th.past).p = th.p := rfl
@[simp] theorem Thread.past_a (th : Thread) : (th.past).a = th.a := rfl
@[simp] theorem Thread.past_m (th : Thread) : (th.past).m = th.m := rfl
@[simp] theorem Thread.past_k (th : Thread) : (th.past).k = th.k := rfl
@[simp] theorem Thread.past_fpmode (th : Thread) : (th.past).fpmode = th.fpmode := rfl
@[simp] theorem Thread.past_fpflags (th : Thread) : (th.past).fpflags = th.fpflags := rfl
@[simp] theorem Thread.past_srseed (th : Thread) : (th.past).srseed = th.srseed := rfl
@[simp] theorem Thread.past_regmode (th : Thread) : (th.past).regmode = th.regmode := rfl
@[simp] theorem Thread.past_hold (th : Thread) : (th.past).hold = th.hold := rfl
@[simp] theorem Thread.past_gang (th : Thread) : (th.past).gang = th.gang := rfl
@[simp] theorem Thread.past_lease (th : Thread) : (th.past).lease = th.lease := rfl
@[simp] theorem Thread.past_cpopen (th : Thread) : (th.past).cpopen = th.cpopen := rfl
@[simp] theorem Thread.past_alloc (th : Thread) : (th.past).alloc = th.alloc := rfl
@[simp] theorem Thread.past_pend (th : Thread) : (th.past).pend = th.pend := rfl
@[simp] theorem Thread.past_par (th : Thread) : (th.past).par = th.par := rfl

@[simp] theorem Thread.hang_pc (th : Thread) (l : List PReg): (th.hang l).pc = th.pc := rfl
@[simp] theorem Thread.hang_g (th : Thread) (l : List PReg): (th.hang l).g = th.g := rfl
@[simp] theorem Thread.hang_p (th : Thread) (l : List PReg): (th.hang l).p = th.p := rfl
@[simp] theorem Thread.hang_a (th : Thread) (l : List PReg): (th.hang l).a = th.a := rfl
@[simp] theorem Thread.hang_m (th : Thread) (l : List PReg): (th.hang l).m = th.m := rfl
@[simp] theorem Thread.hang_k (th : Thread) (l : List PReg): (th.hang l).k = th.k := rfl
@[simp] theorem Thread.hang_hints (th : Thread) (l : List PReg): (th.hang l).hints = th.hints := rfl
@[simp] theorem Thread.hang_fpmode (th : Thread) (l : List PReg): (th.hang l).fpmode = th.fpmode := rfl
@[simp] theorem Thread.hang_fpflags (th : Thread) (l : List PReg): (th.hang l).fpflags = th.fpflags := rfl
@[simp] theorem Thread.hang_srseed (th : Thread) (l : List PReg): (th.hang l).srseed = th.srseed := rfl
@[simp] theorem Thread.hang_regmode (th : Thread) (l : List PReg): (th.hang l).regmode = th.regmode := rfl
@[simp] theorem Thread.hang_hold (th : Thread) (l : List PReg): (th.hang l).hold = th.hold := rfl
@[simp] theorem Thread.hang_gang (th : Thread) (l : List PReg): (th.hang l).gang = th.gang := rfl
@[simp] theorem Thread.hang_lease (th : Thread) (l : List PReg): (th.hang l).lease = th.lease := rfl
@[simp] theorem Thread.hang_cpopen (th : Thread) (l : List PReg): (th.hang l).cpopen = th.cpopen := rfl
@[simp] theorem Thread.hang_alloc (th : Thread) (l : List PReg): (th.hang l).alloc = th.alloc := rfl
@[simp] theorem Thread.hang_par (th : Thread) (l : List PReg): (th.hang l).par = th.par := rfl
@[simp] theorem Thread.hang_iss (th : Thread) (l : List PReg): (th.hang l).iss = th.iss := rfl
@[simp] theorem Thread.hang_entry (th : Thread) (l : List PReg): (th.hang l).entry = th.entry := rfl
@[simp] theorem Thread.hang_met (th : Thread) (l : List PReg): (th.hang l).met = th.met := rfl
@[simp] theorem Thread.hang_acq (th : Thread) (l : List PReg): (th.hang l).acq = th.acq := rfl

@[simp] theorem Thread.unhang_pc (th : Thread) (l : List PReg): (th.unhang l).pc = th.pc := rfl
@[simp] theorem Thread.unhang_g (th : Thread) (l : List PReg): (th.unhang l).g = th.g := rfl
@[simp] theorem Thread.unhang_p (th : Thread) (l : List PReg): (th.unhang l).p = th.p := rfl
@[simp] theorem Thread.unhang_a (th : Thread) (l : List PReg): (th.unhang l).a = th.a := rfl
@[simp] theorem Thread.unhang_m (th : Thread) (l : List PReg): (th.unhang l).m = th.m := rfl
@[simp] theorem Thread.unhang_k (th : Thread) (l : List PReg): (th.unhang l).k = th.k := rfl
@[simp] theorem Thread.unhang_hints (th : Thread) (l : List PReg): (th.unhang l).hints = th.hints := rfl
@[simp] theorem Thread.unhang_fpmode (th : Thread) (l : List PReg): (th.unhang l).fpmode = th.fpmode := rfl
@[simp] theorem Thread.unhang_fpflags (th : Thread) (l : List PReg): (th.unhang l).fpflags = th.fpflags := rfl
@[simp] theorem Thread.unhang_srseed (th : Thread) (l : List PReg): (th.unhang l).srseed = th.srseed := rfl
@[simp] theorem Thread.unhang_regmode (th : Thread) (l : List PReg): (th.unhang l).regmode = th.regmode := rfl
@[simp] theorem Thread.unhang_hold (th : Thread) (l : List PReg): (th.unhang l).hold = th.hold := rfl
@[simp] theorem Thread.unhang_gang (th : Thread) (l : List PReg): (th.unhang l).gang = th.gang := rfl
@[simp] theorem Thread.unhang_lease (th : Thread) (l : List PReg): (th.unhang l).lease = th.lease := rfl
@[simp] theorem Thread.unhang_cpopen (th : Thread) (l : List PReg): (th.unhang l).cpopen = th.cpopen := rfl
@[simp] theorem Thread.unhang_alloc (th : Thread) (l : List PReg): (th.unhang l).alloc = th.alloc := rfl
@[simp] theorem Thread.unhang_par (th : Thread) (l : List PReg): (th.unhang l).par = th.par := rfl
@[simp] theorem Thread.unhang_iss (th : Thread) (l : List PReg): (th.unhang l).iss = th.iss := rfl
@[simp] theorem Thread.unhang_entry (th : Thread) (l : List PReg): (th.unhang l).entry = th.entry := rfl
@[simp] theorem Thread.unhang_met (th : Thread) (l : List PReg): (th.unhang l).met = th.met := rfl
@[simp] theorem Thread.unhang_acq (th : Thread) (l : List PReg): (th.unhang l).acq = th.acq := rfl

@[simp] theorem Thread.setP_pc (th : Thread) (n : Nat) (v : Bool) : (th.setP n v).pc = th.pc := by unfold Thread.setP; split <;> rfl
@[simp] theorem Thread.setP_g (th : Thread) (n : Nat) (v : Bool) : (th.setP n v).g = th.g := by unfold Thread.setP; split <;> rfl
@[simp] theorem Thread.setP_a (th : Thread) (n : Nat) (v : Bool) : (th.setP n v).a = th.a := by unfold Thread.setP; split <;> rfl
@[simp] theorem Thread.setP_m (th : Thread) (n : Nat) (v : Bool) : (th.setP n v).m = th.m := by unfold Thread.setP; split <;> rfl
@[simp] theorem Thread.setP_k (th : Thread) (n : Nat) (v : Bool) : (th.setP n v).k = th.k := by unfold Thread.setP; split <;> rfl
@[simp] theorem Thread.setP_hints (th : Thread) (n : Nat) (v : Bool) : (th.setP n v).hints = th.hints := by unfold Thread.setP; split <;> rfl
@[simp] theorem Thread.setP_fpmode (th : Thread) (n : Nat) (v : Bool) : (th.setP n v).fpmode = th.fpmode := by unfold Thread.setP; split <;> rfl
@[simp] theorem Thread.setP_fpflags (th : Thread) (n : Nat) (v : Bool) : (th.setP n v).fpflags = th.fpflags := by unfold Thread.setP; split <;> rfl
@[simp] theorem Thread.setP_srseed (th : Thread) (n : Nat) (v : Bool) : (th.setP n v).srseed = th.srseed := by unfold Thread.setP; split <;> rfl
@[simp] theorem Thread.setP_regmode (th : Thread) (n : Nat) (v : Bool) : (th.setP n v).regmode = th.regmode := by unfold Thread.setP; split <;> rfl
@[simp] theorem Thread.setP_hold (th : Thread) (n : Nat) (v : Bool) : (th.setP n v).hold = th.hold := by unfold Thread.setP; split <;> rfl
@[simp] theorem Thread.setP_gang (th : Thread) (n : Nat) (v : Bool) : (th.setP n v).gang = th.gang := by unfold Thread.setP; split <;> rfl
@[simp] theorem Thread.setP_lease (th : Thread) (n : Nat) (v : Bool) : (th.setP n v).lease = th.lease := by unfold Thread.setP; split <;> rfl
@[simp] theorem Thread.setP_cpopen (th : Thread) (n : Nat) (v : Bool) : (th.setP n v).cpopen = th.cpopen := by unfold Thread.setP; split <;> rfl
@[simp] theorem Thread.setP_alloc (th : Thread) (n : Nat) (v : Bool) : (th.setP n v).alloc = th.alloc := by unfold Thread.setP; split <;> rfl
@[simp] theorem Thread.setP_pend (th : Thread) (n : Nat) (v : Bool) : (th.setP n v).pend = th.pend := by unfold Thread.setP; split <;> rfl
@[simp] theorem Thread.setP_par (th : Thread) (n : Nat) (v : Bool) : (th.setP n v).par = th.par := by unfold Thread.setP; split <;> rfl
@[simp] theorem Thread.setP_iss (th : Thread) (n : Nat) (v : Bool) : (th.setP n v).iss = th.iss := by unfold Thread.setP; split <;> rfl
@[simp] theorem Thread.setP_entry (th : Thread) (n : Nat) (v : Bool) : (th.setP n v).entry = th.entry := by unfold Thread.setP; split <;> rfl
@[simp] theorem Thread.setP_met (th : Thread) (n : Nat) (v : Bool) : (th.setP n v).met = th.met := by unfold Thread.setP; split <;> rfl
@[simp] theorem Thread.setP_acq (th : Thread) (n : Nat) (v : Bool) : (th.setP n v).acq = th.acq := by unfold Thread.setP; split <;> rfl

@[simp] theorem Thread.past_hints (th : Thread) : th.past.hints = {} := rfl
@[simp] theorem Thread.goTo_hints (th : Thread) (pc : BitVec 57) : (th.goTo pc).hints = {} := rfl
@[simp] theorem Thread.goTo_pc (th : Thread) (pc : BitVec 57) : (th.goTo pc).pc = pc &&& ~~~(3 : BitVec 57) := rfl
@[simp] theorem Thread.past_pc (th : Thread) : th.past.pc = (th.pc + 4) &&& ~~~(3 : BitVec 57) := rfl
@[simp] theorem Thread.past_iss (th : Thread) : th.past.iss = none := rfl
@[simp] theorem Thread.goTo_iss (th : Thread) (pc : BitVec 57) : (th.goTo pc).iss = none := rfl
@[simp] theorem Thread.past_entry (th : Thread) : th.past.entry = none := rfl
@[simp] theorem Thread.goTo_entry (th : Thread) (pc : BitVec 57) : (th.goTo pc).entry = none := rfl
@[simp] theorem Thread.past_met (th : Thread) : th.past.met = false := rfl
@[simp] theorem Thread.past_acq (th : Thread) : th.past.acq = none := rfl
@[simp] theorem Thread.goTo_met (th : Thread) (pc : BitVec 57) : (th.goTo pc).met = false := rfl
@[simp] theorem Thread.goTo_acq (th : Thread) (pc : BitVec 57) : (th.goTo pc).acq = none := rfl

end Sys2Proof.Machine
end

