-- ==== Sys2Proof/Laws/Threads.lean ====
section
/-! SUPPORT. Sys2Proof/Laws/Threads.lean: reading control cores, banks, cores and threads after an update. -/

namespace Sys2Proof.Machine

@[simp] theorem State.ctlAt_setCtl_self (s : State) (n : Nat) (c : Ctl) : (s.setCtl n c).ctlAt n = c := by
  simp [State.ctlAt, State.setCtl]

theorem State.ctlAt_setCtl_ne (s : State) {n m : Nat} (c : Ctl) (h : n ≠ m) : (s.setCtl n c).ctlAt m = s.ctlAt m := by
  simp [State.ctlAt, State.setCtl, tget_tput_ne _ _ _ h]

@[simp] theorem State.ctlAt_setCtx (s : State) (x n : Nat) (k : Ctx) : (s.setCtx x k).ctlAt n = s.ctlAt n := rfl

@[simp] theorem State.ctxAt_setCtx_self (s : State) (x : Nat) (k : Ctx) : (s.setCtx x k).ctxAt x = k := by
  simp [State.ctxAt, State.setCtx]

theorem State.ctxAt_setCtx_ne (s : State) {x y : Nat} (k : Ctx) (h : x ≠ y) : (s.setCtx x k).ctxAt y = s.ctxAt y := by
  simp [State.ctxAt, State.setCtx, tget_tput_ne _ _ _ h]

@[simp] theorem State.ctxAt_setCtl (s : State) (n x : Nat) (c : Ctl) : (s.setCtl n c).ctxAt x = s.ctxAt x := rfl

@[simp] theorem Ctx.coreAt_setCore_self (k : Ctx) (c : Nat) (v : CtxCore) : (k.setCore c v).coreAt c = v := by
  simp [Ctx.coreAt, Ctx.setCore]

theorem Ctx.coreAt_setCore_ne (k : Ctx) {c d : Nat} (v : CtxCore) (h : c ≠ d) : (k.setCore c v).coreAt d = k.coreAt d := by
  simp [Ctx.coreAt, Ctx.setCore, tget_tput_ne _ _ _ h]

@[simp] theorem CtxCore.thrAt_setThr_self (k : CtxCore) (i : Nat) (th : Thread) : (k.setThr i th).thrAt i = th := by
  simp [CtxCore.thrAt, CtxCore.setThr]

theorem CtxCore.thrAt_setThr_ne (k : CtxCore) {i j : Nat} (th : Thread) (h : i ≠ j) :
    (k.setThr i th).thrAt j = k.thrAt j := by
  simp [CtxCore.thrAt, CtxCore.setThr, tget_tput_ne _ _ _ h]

@[simp] theorem CtxCore.blkAt_setBlk_self (k : CtxCore) (b : Nat) (v : Block) : (k.setBlk b v).blkAt b = v := by
  simp [CtxCore.blkAt, CtxCore.setBlk]

@[simp] theorem State.thr_setThr_self (s : State) (t : Tid) (th : Thread) : (s.setThr t th).thr t = th := by
  cases t <;> simp [State.thr, State.setThr, State.modCore, State.modCtx]

/-- Writing one thread leaves every other. -/
theorem State.thr_setThr_ne (s : State) {t u : Tid} (th : Thread) (h : t ≠ u) : (s.setThr t th).thr u = s.thr u := by
  cases t with
  | ctl n =>
    cases u with
    | ctl m => simp only [State.thr, State.setThr]; rw [State.ctlAt_setCtl_ne]; intro e; exact h (by rw [e])
    | cmp x c i => rfl
  | cmp x c i =>
    cases u with
    | ctl m => rfl
    | cmp y d j =>
      simp only [State.thr, State.setThr, State.modCore, State.modCtx]
      by_cases hx : x = y
      · subst hx
        rw [State.ctxAt_setCtx_self]
        by_cases hc : c = d
        · subst hc
          rw [Ctx.coreAt_setCore_self, CtxCore.thrAt_setThr_ne]
          intro e; exact h (by rw [e])
        · rw [Ctx.coreAt_setCore_ne _ _ hc]
      · rw [State.ctxAt_setCtx_ne _ _ hx]

@[simp] theorem State.me_setMe (s : State) (th : Thread) : (s.setMe th).me = th := by simp [State.me, State.setMe]

@[simp] theorem State.me_modMe (s : State) (f : Thread → Thread) : (s.modMe f).me = f s.me := by simp [State.modMe]

@[simp] theorem State.setCtl_setCtl (s : State) (n : Nat) (c d : Ctl) : (s.setCtl n c).setCtl n d = s.setCtl n d := by
  simp [State.setCtl]

@[simp] theorem State.setCtx_setCtx (s : State) (x : Nat) (k l : Ctx) : (s.setCtx x k).setCtx x l = s.setCtx x l := by
  simp [State.setCtx]

@[simp] theorem State.setThr_setThr (s : State) (t : Tid) (u v : Thread) : (s.setThr t u).setThr t v = s.setThr t v := by
  cases t <;> simp [State.setThr, State.modCore, State.modCtx, Ctx.setCore, CtxCore.setThr, Ctx.coreAt]

@[simp] theorem State.setMe_setMe (s : State) (u v : Thread) : (s.setMe u).setMe v = s.setMe v := by
  simp [State.setMe]

/-- Two updates of the executing thread are one. -/
@[simp] theorem State.modMe_modMe (s : State) (f g : Thread → Thread) :
    (s.modMe f).modMe g = s.modMe fun th => g (f th) := by
  simp [State.modMe]

end Sys2Proof.Machine
end

