-- ==== Sys2Proof/Laws/Coherence.lean ====
section
/-! SUPPORT. Sys2Proof/Laws/Coherence.lean: what the operations on lines, directory, log and memory leave alone, and that
each keeps the invariant. -/

namespace Sys2Proof.Machine

/-! ### Folds and tables -/

theorem foldl_keeps {α β : Type} {P : β → Prop} {f : β → α → β} (hf : ∀ b a, P b → P (f b a)) (l : List α) {b : β}
    (h : P b) : P (l.foldl f b) := by
  induction l generalizing b with
  | nil => exact h
  | cons a r ih => exact ih (hf b a h)

theorem foldl_field {α β γ : Type} (g : β → γ) {f : β → α → β} (hf : ∀ b a, g (f b a) = g b) (l : List α) (b : β) :
    g (l.foldl f b) = g b := by
  induction l generalizing b with
  | nil => rfl
  | cons a r ih => exact (ih _).trans (hf b a)

theorem mem_tput {κ α : Type} [DecidableEq κ] {k : κ} {v : α} {t : Tab κ α} {e : κ × α} (h : e ∈ tput k v t) :
    e = (k, v) ∨ e ∈ t := by
  induction t with
  | nil => exact .inl (by simpa [tput] using h)
  | cons u r ih =>
    obtain ⟨j, w⟩ := u
    simp only [tput] at h
    split at h
    · rcases List.mem_cons.1 h with h | h
      · exact .inl h
      · exact .inr (List.mem_cons_of_mem _ h)
    · rcases List.mem_cons.1 h with h | h
      · exact .inr (h ▸ List.mem_cons_self)
      · exact (ih h).imp_right (List.mem_cons_of_mem _)

theorem tget_mem {κ α : Type} [DecidableEq κ] (d : α) (t : Tab κ α) (k : κ) : tget d t k = d ∨ (k, tget d t k) ∈ t := by
  induction t with
  | nil => exact .inl rfl
  | cons u r ih =>
    obtain ⟨j, w⟩ := u
    by_cases h : j = k
    · exact .inr (by simp [tget, h])
    · simpa [tget, h] using ih.imp_right Or.inr

/-- Reading a table whose entries have been changed in place, by a change that leaves the value of an unlisted key. -/
theorem tget_map {κ α : Type} [DecidableEq κ] {d : α} {g : κ × α → κ × α} (f : α → α) (hg : ∀ e, g e = (e.1, f e.2)) (hd : f d = d)
    (t : Tab κ α) (k : κ) : tget d (t.map g) k = f (tget d t k) := by
  induction t with
  | nil => exact hd.symm
  | cons u r ih =>
    obtain ⟨j, w⟩ := u
    simp only [List.map_cons, hg, tget]
    split
    · rfl
    · exact ih

/-- As tget_map, where each key has a value of its own while unlisted. -/
theorem tget_map_key {κ α : Type} [DecidableEq κ] {d : κ → α} {g : κ × α → κ × α} (f : α → α) (hg : ∀ e, g e = (e.1, f e.2))
    (hd : ∀ k, f (d k) = d k) (t : Tab κ α) (k : κ) : tget (d k) (t.map g) k = f (tget (d k) t k) := tget_map f hg (hd k) t k

/-! ### The invariant -/

theorem State.Inv.of_eq {s t : State} (h : s.Inv) (hm : t.mem = s.mem) (hc : t.cores = s.cores) : t.Inv := by
  unfold State.Inv; rw [hm, hc]; exact h

/-- New memory in canonical form keeps the invariant. -/
theorem State.Inv.of_mem {s t : State} (h : s.Inv) (hm : Memory.wf t.mem = true) (hc : t.cores = s.cores) : t.Inv :=
  ⟨hm, hc ▸ h.2⟩

theorem State.Inv.frames {s : State} (h : s.Inv) (i : Nat) : Memory.wf (s.coreAt i).frames = true := by
  rcases tget_mem {} s.cores i with he | he
  · rw [State.coreAt, he]; rfl
  · exact h.2 _ he

/-- A change of a physical core that keeps its frames canonical keeps the invariant. -/
theorem State.Inv.modPhys {s : State} (h : s.Inv) (i : Nat) {f : CorePhys → CorePhys}
    (hf : Memory.wf (f (s.coreAt i)).frames = true) : (s.modPhys i f).Inv := by
  refine ⟨h.1, fun e he => ?_⟩
  rcases mem_tput he with rfl | he
  · exact hf
  · exact h.2 e he

@[simp] theorem CorePhys.setLt_frames (c : CorePhys) (now : Nat) (v : BitVec 24) : (c.setLt now v).frames = c.frames := rfl

theorem State.Inv.raiseLt {s : State} (h : s.Inv) (i : Nat) (v : BitVec 24) : (s.raiseLt i v).Inv := by
  refine h.modPhys i ?_
  split <;> exact h.frames i

theorem State.Inv.raiseOpt {s : State} (h : s.Inv) (i : Nat) (v : Option (BitVec 24)) : (s.raiseOpt i v).Inv := by
  cases v with
  | none => exact h
  | some v => exact h.raiseLt i v

/-! ### Updates of lines, directory and counters: memory, banks, control cores and physical cores stay -/

@[simp] theorem State.modL2_mem (s : State) (ln : Nat) (f : L2Line → L2Line) : (s.modL2 ln f).mem = s.mem := rfl
@[simp] theorem State.modL2_cores (s : State) (ln : Nat) (f : L2Line → L2Line) : (s.modL2 ln f).cores = s.cores := rfl
@[simp] theorem State.modL2_ctxs (s : State) (ln : Nat) (f : L2Line → L2Line) : (s.modL2 ln f).ctxs = s.ctxs := rfl
@[simp] theorem State.modL2_ctl (s : State) (ln : Nat) (f : L2Line → L2Line) : (s.modL2 ln f).ctl = s.ctl := rfl
@[simp] theorem State.modL2_reps (s : State) (ln : Nat) (f : L2Line → L2Line) : (s.modL2 ln f).coh.reps = s.coh.reps := rfl
@[simp] theorem State.modL2_msgs (s : State) (ln : Nat) (f : L2Line → L2Line) : (s.modL2 ln f).coh.msgs = s.coh.msgs := rfl
@[simp] theorem State.setRep_mem (s : State) (ln d : Nat) (r : Replica) : (s.setRep ln d r).mem = s.mem := rfl
@[simp] theorem State.setRep_cores (s : State) (ln d : Nat) (r : Replica) : (s.setRep ln d r).cores = s.cores := rfl
@[simp] theorem State.setRep_ctxs (s : State) (ln d : Nat) (r : Replica) : (s.setRep ln d r).ctxs = s.ctxs := rfl
@[simp] theorem State.setRep_ctl (s : State) (ln d : Nat) (r : Replica) : (s.setRep ln d r).ctl = s.ctl := rfl
@[simp] theorem State.delRep_mem (s : State) (ln d : Nat) : (s.delRep ln d).mem = s.mem := rfl
@[simp] theorem State.delRep_cores (s : State) (ln d : Nat) : (s.delRep ln d).cores = s.cores := rfl
@[simp] theorem State.delRep_ctxs (s : State) (ln d : Nat) : (s.delRep ln d).ctxs = s.ctxs := rfl
@[simp] theorem State.delRep_ctl (s : State) (ln d : Nat) : (s.delRep ln d).ctl = s.ctl := rfl
@[simp] theorem State.send_mem (s : State) (m : CMsg) : (s.send m).mem = s.mem := rfl
@[simp] theorem State.send_cores (s : State) (m : CMsg) : (s.send m).cores = s.cores := rfl
@[simp] theorem State.send_ctxs (s : State) (m : CMsg) : (s.send m).ctxs = s.ctxs := rfl
@[simp] theorem State.send_ctl (s : State) (m : CMsg) : (s.send m).ctl = s.ctl := rfl
@[simp] theorem State.unsend_mem (s : State) (k : MKind) (ln d : Nat) : (s.unsend k ln d).mem = s.mem := rfl
@[simp] theorem State.unsend_cores (s : State) (k : MKind) (ln d : Nat) : (s.unsend k ln d).cores = s.cores := rfl
@[simp] theorem State.unsend_ctxs (s : State) (k : MKind) (ln d : Nat) : (s.unsend k ln d).ctxs = s.ctxs := rfl
@[simp] theorem State.unsend_ctl (s : State) (k : MKind) (ln d : Nat) : (s.unsend k ln d).ctl = s.ctl := rfl
@[simp] theorem State.returned_mem (s : State) (ln : Nat) (w r : BitVec 24) : (s.returned ln w r).mem = s.mem := rfl
@[simp] theorem State.returned_cores (s : State) (ln : Nat) (w r : BitVec 24) : (s.returned ln w r).cores = s.cores := rfl
@[simp] theorem State.returned_ctxs (s : State) (ln : Nat) (w r : BitVec 24) : (s.returned ln w r).ctxs = s.ctxs := rfl
@[simp] theorem State.returned_ctl (s : State) (ln : Nat) (w r : BitVec 24) : (s.returned ln w r).ctl = s.ctl := rfl

/-- Counting an access changes the counters and the fault records alone. -/
theorem State.countAccess_eq (s : State) (ln die p : Nat) : ∃ t, s.countAccess ln die p = { s with tr := t } := by
  unfold State.countAccess
  dsimp only
  split
  · exact ⟨s.tr, rfl⟩
  · split <;> exact ⟨_, rfl⟩

/-! ### Recalls, evictions and the directory -/

/-- The states agree on all but memory, lines and directory, access counters and fault records, and the count of free values;
memory keeps its canonical form. -/
def State.Recalled (s t : State) : Prop :=
  ∃ m c r f, t = { s with mem := m, coh := c, tr := r, fresh := f } ∧ (s.Inv → Memory.wf m = true)

theorem State.Recalled.refl (s : State) : s.Recalled s := ⟨s.mem, s.coh, s.tr, s.fresh, rfl, fun h => h.1⟩

theorem State.Recalled.trans {s t u : State} (h : s.Recalled t) (h' : t.Recalled u) : s.Recalled u := by
  obtain ⟨m, c, r, f, rfl, hm⟩ := h
  obtain ⟨n, d, r', f', rfl, hn⟩ := h'
  exact ⟨n, d, r', f', rfl, fun hi => hn ⟨hm hi, hi.2⟩⟩

theorem State.Recalled.inv {s t : State} (h : s.Recalled t) (hi : s.Inv) : t.Inv := by
  obtain ⟨m, c, r, f, rfl, hm⟩ := h
  exact ⟨hm hi, hi.2⟩

theorem State.Recalled.ctxs {s t : State} (h : s.Recalled t) : t.ctxs = s.ctxs := by
  obtain ⟨m, c, r, f, rfl, -⟩ := h; rfl

theorem State.Recalled.ctl {s t : State} (h : s.Recalled t) : t.ctl = s.ctl := by
  obtain ⟨m, c, r, f, rfl, -⟩ := h; rfl

theorem State.Recalled.cores {s t : State} (h : s.Recalled t) : t.cores = s.cores := by
  obtain ⟨m, c, r, f, rfl, -⟩ := h; rfl

theorem State.Recalled.hst {s t : State} (h : s.Recalled t) : t.hst = s.hst := by
  obtain ⟨m, c, r, f, rfl, -⟩ := h; rfl

theorem State.recalled_coh (s : State) (c : Coh) : s.Recalled { s with coh := c } := ⟨s.mem, c, s.tr, s.fresh, rfl, fun h => h.1⟩

theorem State.recalled_modL2 (s : State) (ln : Nat) (f : L2Line → L2Line) : s.Recalled (s.modL2 ln f) := s.recalled_coh _

theorem State.recalled_returned (s : State) (ln : Nat) (w r : BitVec 24) : s.Recalled (s.returned ln w r) := s.recalled_coh _

theorem State.recalled_unsend (s : State) (k : MKind) (ln d : Nat) : s.Recalled (s.unsend k ln d) := s.recalled_coh _

theorem State.recalled_memWrite (s : State) (a : Nat) (b : List Byte) : s.Recalled { s with mem := memWrite a b s.mem } :=
  ⟨_, s.coh, s.tr, s.fresh, rfl, fun h => memWrite_wf _ _ h.1⟩

theorem State.recalled_returnedBy (s : State) (ln d : Nat) : s.Recalled (s.returnedBy ln d) := by
  unfold State.returnedBy
  split
  · exact State.recalled_returned _ _ _ _
  · exact .refl s

theorem State.recalled_recallFrom (s : State) (ln d : Nat) : s.Recalled (s.recallFrom ln d) := by
  unfold State.recallFrom
  split
  · exact s.recalled_returnedBy ln d
  · dsimp only
    refine .trans ?_ ((State.recalled_coh _ _).trans ((State.recalled_returned _ _ _ _).trans (State.recalled_modL2 _ _ _)))
    split
    · exact s.recalled_memWrite _ _
    · exact .refl s

theorem State.recalled_settleWb (s : State) (ln : Nat) : s.Recalled (s.settleWb ln) := by
  unfold State.settleWb
  split
  · exact .refl s
  · exact (s.recalled_memWrite _ _).trans ((State.recalled_returned _ _ _ _).trans (State.recalled_modL2 _ _ _))

/-- A recall changes memory, the lines and the directory alone. -/
theorem State.recalled_recallLine (s : State) (ln : Nat) : s.Recalled (s.recallLine ln) := by
  refine .trans ?_ (State.recalled_settleWb _ _)
  exact foldl_keeps (P := s.Recalled) (fun t d h => h.trans (t.recalled_recallFrom ln d)) _ (.refl s)

theorem State.recalled_evictLine (s : State) (ln : Nat) : s.Recalled (s.evictLine ln) :=
  (s.recalled_recallLine ln).trans (State.recalled_coh _ _)

theorem State.recalled_pick {α : Type} (s : State) (l : List α) : s.Recalled (s.pick l).2 := by
  unfold State.pick
  split
  · exact .refl s
  · exact ⟨s.mem, s.coh, s.tr, s.fresh + 1, rfl, fun h => h.1⟩

theorem State.recalled_dropRep (s : State) (ln d : Nat) (q : Replica) : s.Recalled (s.dropRep ln d q) := s.recalled_coh _

theorem State.recalled_makeRoom (s : State) (key : Nat) : s.Recalled (s.makeRoom key) := by
  unfold State.makeRoom
  dsimp only
  split
  · exact .refl s
  · have h1 := s.recalled_pick ((List.map Prod.fst s.coh.l2).filter (fun l => sliceKey l == key) |>.filter s.quiet)
    split
    · rename_i v t he
      rw [he] at h1
      exact h1.trans (t.recalled_evictLine v)
    · rename_i t he
      rw [he] at h1
      have h2 := t.recalled_pick ((s.slotReps key).filter fun e => t.quiet e.1.1)
      split
      · rename_i e u hu
        rw [hu] at h2
        exact h1.trans (h2.trans (u.recalled_dropRep _ _ _))
      · rename_i u hu
        rw [hu] at h2
        exact h1.trans h2

/-- Entering a line changes what a recall may, and the access counters. -/
theorem State.recalled_ensureLine (s : State) (ln die p : Nat) (ac : Bool) : s.Recalled (s.ensureLine ln die p ac) := by
  unfold State.ensureLine
  split
  · exact .refl s
  · dsimp only
    refine (s.recalled_makeRoom (sliceKey ln)).trans ?_
    generalize s.makeRoom (sliceKey ln) = u
    split
    · obtain ⟨t, h⟩ := State.countAccess_eq (u.modL2 ln fun _ => { wts := u.mtsOf ln, rts := u.mtsOf ln }) ln die p
      rw [h]
      exact ⟨u.mem, _, t, u.fresh, rfl, fun h => h.1⟩
    · exact State.recalled_modL2 _ _ _

@[simp] theorem State.ensureLine_cores (s : State) (ln die p : Nat) (ac : Bool) : (s.ensureLine ln die p ac).cores = s.cores :=
  (s.recalled_ensureLine ln die p ac).cores

@[simp] theorem State.ensureLine_ctxs (s : State) (ln die p : Nat) (ac : Bool) : (s.ensureLine ln die p ac).ctxs = s.ctxs :=
  (s.recalled_ensureLine ln die p ac).ctxs

@[simp] theorem State.ensureLine_ctl (s : State) (ln die p : Nat) (ac : Bool) : (s.ensureLine ln die p ac).ctl = s.ctl :=
  (s.recalled_ensureLine ln die p ac).ctl

/-- A line of a slice that has room enters L2 with the slice's memory timestamp, and nothing else changes but the counters
(R215, R229). -/
theorem State.ensureLine_room {s : State} {ln : Nat} (die p : Nat) (ac : Bool)
    (h : ((s.coh.l2.map Prod.fst).filter fun l => sliceKey l == sliceKey ln).length + (s.slotReps (sliceKey ln)).length < sliceLines) :
    ∃ l t, s.ensureLine ln die p ac = { s with coh := { s.coh with l2 := l }, tr := t } := by
  have hm : s.makeRoom (sliceKey ln) = s := by unfold State.makeRoom; simp only [h, if_true]
  unfold State.ensureLine
  split
  · exact ⟨s.coh.l2, s.tr, rfl⟩
  · simp only [hm]
    split
    · obtain ⟨t, h⟩ := State.countAccess_eq (s.modL2 ln fun _ => { wts := s.mtsOf ln, rts := s.mtsOf ln }) ln die p
      exact ⟨_, t, by rw [h]; rfl⟩
    · exact ⟨_, s.tr, rfl⟩

theorem State.recalled_dirRoom (s : State) (ln : Nat) : s.Recalled (s.dirRoom ln) := by
  unfold State.dirRoom
  dsimp only
  split
  · exact .refl s
  · have h1 := s.recalled_pick (((s.coh.l2.filter fun e => sliceKey e.1 == sliceKey ln && e.2.listed && e.1 != ln).map Prod.fst).filter s.quiet)
    split
    · rename_i v t he
      rw [he] at h1
      exact h1.trans (t.recalled_recallLine v)
    · rename_i t he
      rw [he] at h1
      exact h1

theorem State.recalled_finishTxn (s : State) (ln : Nat) : s.Recalled (s.finishTxn ln) := by
  unfold State.finishTxn
  dsimp only
  split
  · exact s.recalled_coh _
  · split
    · exact s.recalled_coh _
    · exact s.recalled_coh _

theorem State.recalled_answered (s : State) (ln : Nat) : s.Recalled (s.answered ln) := by
  unfold State.answered
  dsimp only
  split
  · exact (s.recalled_modL2 _ _).trans (State.recalled_finishTxn _ _)
  · exact s.recalled_modL2 _ _

theorem State.recalled_sends (s : State) (l : List CMsg) : s.Recalled (l.foldl State.send s) :=
  foldl_keeps (P := s.Recalled) (f := State.send) (fun u _ hu => hu.trans (u.recalled_coh _)) l (.refl s)

theorem State.recalled_startTxn (s : State) (ln r : Nat) (own up : Bool) : s.Recalled (s.startTxn ln r own up) := by
  have h : ∀ (l : List CMsg) (f : L2Line → L2Line), s.Recalled
      (if l.isEmpty = true then ((l.foldl State.send (s.modL2 ln f)).finishTxn ln) else l.foldl State.send (s.modL2 ln f)) := by
    intro l f
    have hu := (s.recalled_modL2 ln f).trans (State.recalled_sends _ l)
    split
    · exact hu.trans (State.recalled_finishTxn _ _)
    · exact hu
  exact h _ _

theorem State.recalled_takeReq (s : State) (k : MKind) (ln r : Nat) (own : Bool) : s.Recalled (s.takeReq k ln r own) := by
  unfold State.takeReq
  split
  · exact .refl s
  · rename_i m _
    split
    · exact .refl s
    · dsimp only
      refine (((s.recalled_unsend k ln r).trans (State.recalled_ensureLine _ ln r (m.ac.getD 0) m.ac.isSome)).trans
        (State.recalled_dirRoom _ ln)).trans ?_
      split
      · exact (State.recalled_returned _ _ _ _).trans (State.recalled_startTxn _ _ _ _ _)
      · exact State.recalled_startTxn _ _ _ _ _

theorem State.recalled_fwdsDone (s : State) (ln r : Nat) : s.Recalled (s.fwdsDone ln r) := by
  unfold State.fwdsDone
  dsimp only
  refine .trans ?_ (((State.recalled_modL2 _ _ _).trans (State.recalled_coh _ _)).trans (State.recalled_modL2 _ _ _))
  refine (s.recalled_unsend .fwdS ln r).trans ?_
  generalize s.unsend .fwdS ln r = u
  split
  · exact ((u.recalled_coh _).trans (State.recalled_returned _ _ _ _)).trans (State.recalled_modL2 _ _ _)
  · exact ((u.recalled_returnedBy ln r).trans (State.recalled_settleWb _ _)).trans (State.recalled_modL2 _ _ _)

theorem State.recalled_fwdownDone (s : State) (ln r : Nat) : s.Recalled (s.fwdownDone ln r) :=
  ((((((s.recalled_unsend .fwdOwn ln r).trans (State.recalled_returnedBy _ ln r)).trans (State.recalled_recallFrom _ ln r)).trans
    (State.recalled_settleWb _ ln)).trans (State.recalled_modL2 _ _ _))).trans (State.recalled_answered _ _)

/-- A slice that may serve a load, or has asked for what it needs, changes what a recall may. -/
theorem State.recalled_prepLoad (s : State) (die ln : Nat) (rep : Bool) (p : Nat) (ac : Bool) :
    s.Recalled (s.prepLoad die ln rep p ac).1 := by
  have he := s.recalled_ensureLine ln die p ac
  unfold State.prepLoad
  split
  · split
    · exact .refl s
    · split
      · exact .refl s
      · exact s.recalled_coh _
  · dsimp only
    generalize s.ensureLine ln die p ac = u at he ⊢
    split
    · exact he
    · split
      · exact he
      · split
        · exact he
        · split
          · exact he.trans (u.recalled_coh _)
          · exact he.trans (u.recalled_settleWb _)

theorem State.recalled_setTimes (s : State) (die ln : Nat) (rep : Bool) (w r : BitVec 24) :
    s.Recalled (s.setTimes die ln rep w r) := by
  unfold State.setTimes; split
  · split
    · exact s.recalled_coh _
    · exact .refl s
  · exact s.recalled_coh _

/-! ### What a write performed at once may change -/

/-- `t` comes from `s` by reads and writes of memory: beside what a recall may change, the host's lines, and of every bank its accesses
in flight and its checkpoint, of every control core the times it is owed and the store it waits for. Threads, blocks and engines stay. -/
structure State.Within (s t : State) : Prop where
  rest : ∃ m c r h f k l, t = { s with mem := m, coh := c, tr := r, hst := h, fresh := f, ctxs := k, ctl := l }
  ctx  : ∀ x, ∃ i c, t.ctxAt x = { s.ctxAt x with infl := i, ckpt := c }
  ctl  : ∀ n, ∃ w q, t.ctlAt n = { s.ctlAt n with wb := w, store := q }
  inv  : s.Inv → t.Inv

theorem State.Recalled.within {s t : State} (h : s.Recalled t) : s.Within t := by
  have hi := h.inv
  obtain ⟨m, c, r, f, rfl, -⟩ := h
  exact ⟨⟨m, c, r, s.hst, f, s.ctxs, s.ctl, rfl⟩, fun x => ⟨_, _, rfl⟩, fun n => ⟨_, _, rfl⟩, hi⟩

theorem State.Within.refl (s : State) : s.Within s := (State.Recalled.refl s).within

theorem State.Within.trans {s t u : State} (h : s.Within t) (h' : t.Within u) : s.Within u := by
  obtain ⟨⟨m, c, r, hh, f, k, l, rfl⟩, hx, hn, hi⟩ := h
  obtain ⟨⟨m', c', r', hh', f', k', l', rfl⟩, hx', hn', hi'⟩ := h'
  refine ⟨⟨m', c', r', hh', f', k', l', rfl⟩, fun x => ?_, fun n => ?_, hi' ∘ hi⟩
  · obtain ⟨i, c, e⟩ := hx x
    obtain ⟨j, d, e'⟩ := hx' x
    exact ⟨j, d, by rw [e', e]⟩
  · obtain ⟨w, q, e⟩ := hn n
    obtain ⟨w', q', e'⟩ := hn' n
    exact ⟨w', q', by rw [e', e]⟩

/-- Every thread stays. -/
theorem State.Within.thr {s t : State} (h : s.Within t) (i : Tid) : t.thr i = s.thr i := by
  cases i with
  | ctl n => obtain ⟨w, q, e⟩ := h.ctl n; simp only [State.thr, e]
  | cmp x c j => obtain ⟨a, b, e⟩ := h.ctx x; simp only [State.thr, Ctx.coreAt, e]

theorem State.Within.cores {s t : State} (h : s.Within t) : t.cores = s.cores := by
  obtain ⟨m, c, r, hh, f, k, l, rfl⟩ := h.rest; rfl

theorem State.Within.parts {s t : State} (h : s.Within t) : t.parts = s.parts := by
  obtain ⟨m, c, r, hh, f, k, l, rfl⟩ := h.rest; rfl

theorem State.Within.cur {s t : State} (h : s.Within t) : t.cur = s.cur := by
  obtain ⟨m, c, r, hh, f, k, l, rfl⟩ := h.rest; rfl

/-- A change of one bank's accesses and checkpoint. -/
theorem State.within_setCtx (s : State) (x : Nat) (i : Tab Nat InFlight) (c : Ckpt) :
    s.Within (s.setCtx x { s.ctxAt x with infl := i, ckpt := c }) := by
  refine ⟨⟨_, _, _, _, _, _, _, rfl⟩, fun y => ?_, fun n => ⟨_, _, rfl⟩, fun h => h.of_eq rfl rfl⟩
  by_cases e : x = y
  · subst e; exact ⟨i, c, by rw [State.ctxAt_setCtx_self]⟩
  · exact ⟨_, _, by rw [State.ctxAt_setCtx_ne _ _ e]⟩

/-- A change of the accesses and checkpoints of all banks. -/
theorem State.within_mapCtxs (s : State) (g : Nat × Ctx → Nat × Ctx) (f : Ctx → Ctx) (hg : ∀ e, g e = (e.1, f e.2)) (hd : f {} = {})
    (hf : ∀ k, ∃ i c, f k = { k with infl := i, ckpt := c }) : s.Within { s with ctxs := s.ctxs.map g } := by
  refine ⟨⟨_, _, _, _, _, _, _, rfl⟩, fun y => ?_, fun n => ⟨_, _, rfl⟩, fun h => h.of_eq rfl rfl⟩
  have h := tget_map f hg hd s.ctxs y
  obtain ⟨i, c, e⟩ := hf (s.ctxAt y)
  exact ⟨i, c, h.trans e⟩

theorem State.within_addRecs (s : State) (x intv : Nat) (l : List Nat) : s.Within (s.addRecs x intv l) :=
  s.within_setCtx x (s.ctxAt x).infl _

theorem Ctx.dueFor_eq (k : Ctx) (full : List Nat) : ∃ i c, k.dueFor full = { k with infl := i, ckpt := c } := by
  unfold Ctx.dueFor
  split <;> exact ⟨_, _, rfl⟩

@[simp] theorem Ctx.dueFor_empty (full : List Nat) : ({} : Ctx).dueFor full = {} := by simp [Ctx.dueFor, Ctx.recsIn]

theorem State.within_logBank (s : State) (x pa n intv : Nat) : s.Within (s.logBank x pa n intv) := by
  unfold State.logBank
  dsimp only
  split
  · exact .refl s
  · exact (s.within_addRecs x intv _).trans (State.within_mapCtxs _ _ (Ctx.dueFor · _) (fun _ => rfl) (Ctx.dueFor_empty _)
      fun k => k.dueFor_eq _)

/-- Logging a write changes the banks' logs alone. -/
theorem State.within_logWrite (s : State) (who : Who) (pa n : Nat) : s.Within (s.logWrite who pa n) := by
  cases who with
  | bank x intv => exact s.within_logBank x pa n intv
  | nobody => exact .refl s
  | inbound =>
    exact foldl_keeps (P := s.Within) (fun u x h => h.trans (u.within_logBank x pa n _)) _ (.refl s)

@[simp] theorem State.logWrite_nobody (s : State) (pa n : Nat) : s.logWrite .nobody pa n = s := rfl

theorem State.within_hst (s : State) (h : HostSide) : s.Within { s with hst := h } :=
  ⟨⟨_, _, _, h, _, _, _, rfl⟩, fun _ => ⟨_, _, rfl⟩, fun _ => ⟨_, _, rfl⟩, fun h => h.of_eq rfl rfl⟩

theorem State.within_claim (s : State) (ln : Nat) : s.Within (s.claim ln).1 := by
  unfold State.claim
  split
  · dsimp only
    split
    · exact .refl s
    · exact s.within_hst _
  · exact .refl s

theorem State.within_claimAll (s : State) (l : List Nat) : s.Within (s.claimAll l).1 := by
  unfold State.claimAll
  refine foldl_keeps (P := fun q : State × Bool => s.Within q.1) (fun q ln h => ?_) l (State.Within.refl s)
  exact State.Within.trans h (q.1.within_claim ln)

/-- A slice that may apply a store, or has asked for what it needs. -/
theorem State.within_prepStore (s : State) (die ln : Nat) (rep : Bool) (p : Nat) (ac : Bool) :
    s.Within (s.prepStore die ln rep p ac).1 := by
  have hc := s.within_claim ln
  unfold State.prepStore
  generalize s.claim ln = o at hc ⊢
  obtain ⟨u, b⟩ := o
  cases b with
  | false => exact hc
  | true =>
    dsimp only
    refine State.Within.trans hc ?_
    have he := u.recalled_ensureLine ln die p ac
    split
    · split
      · split
        · exact .refl u
        · split
          · exact .refl u
          · exact (u.recalled_coh _).within
      · split
        · exact .refl u
        · exact (u.recalled_coh _).within
    · dsimp only
      generalize u.ensureLine ln die p ac = v at he ⊢
      split
      · exact he.within
      · split
        · exact he.within
        · split
          · exact he.within
          · exact (he.trans ((v.recalled_recallFrom _ _).trans (State.recalled_settleWb _ _))).within

/-- A store applied at its slice. -/
theorem State.within_applyStore (s : State) (who : Who) (die : Nat) (rep : Bool) (t : BitVec 24) (pa : Nat)
    (data : List Byte) : s.Within (s.applyStore who die rep t pa data).1 := by
  unfold State.applyStore
  dsimp only
  refine (s.within_logWrite who pa data.length).trans ?_
  generalize s.logWrite who pa data.length = u
  generalize later t _ = w
  refine (u.recalled_setTimes die (pa / lineSize) rep w w).within.trans ?_
  generalize u.setTimes die (pa / lineSize) rep w w = v
  split
  · split
    · exact (v.recalled_coh _).within
    · exact .refl v
  · split
    · exact (v.recalled_memWrite _ _).within
    · exact ((v.recalled_memWrite pa data).trans ((State.recalled_modL2 _ _ _).trans (State.recalled_sends _ _))).within

theorem State.within_bringTimes (s : State) (ln : Nat) (w : BitVec 24) : s.Within (s.bringTimes ln w) := by
  unfold State.bringTimes
  dsimp only
  refine ⟨⟨_, _, _, _, _, _, _, rfl⟩, fun x => ?_, fun n => ?_, fun h => h.of_eq rfl rfl⟩
  · exact ⟨_, _, tget_map (d := ({} : Ctx)) (fun k => { k with infl := k.infl.map _ }) (fun e => rfl) rfl s.ctxs x⟩
  · exact ⟨_, _, tget_map_key (d := Ctl.reset) (fun c => { c with wb := c.wb.map _ }) (fun e => rfl) (fun _ => rfl) s.ctl n⟩

theorem State.within_invDone (s : State) (ln r : Nat) : s.Within (s.invDone ln r) := by
  unfold State.invDone
  dsimp only
  refine State.Within.trans ?_ (State.recalled_answered _ _).within
  have h : s.Recalled (((s.unsend .inv ln r).delRep ln r).modL2 ln (·.drop r)) :=
    (s.recalled_unsend .inv ln r).trans ((State.recalled_coh _ _).trans (State.recalled_modL2 _ _ _))
  generalize ((s.unsend .inv ln r).delRep ln r).modL2 ln (·.drop r) = u at h ⊢
  cases s.repAt ln r with
  | some q => exact (h.trans (State.recalled_returned _ _ _ _)).within.trans (State.within_bringTimes _ _ _)
  | none =>
    dsimp only
    split
    · exact (h.trans (State.recalled_returned _ _ _ _)).within.trans (State.within_bringTimes _ _ _)
    · exact h.within

theorem State.within_setInfl (s : State) (x id : Nat) (f : InFlight) : s.Within (s.setInfl x id f) :=
  s.within_setCtx x _ (s.ctxAt x).ckpt

theorem State.within_applyPart (s : State) (x id : Nat) (f : InFlight) (pa die : Nat) (rep : Bool) :
    s.Within (s.applyPart x id f pa die rep) := by
  unfold State.applyPart
  split
  · exact (s.within_applyStore _ _ _ _ _ _).trans (State.within_setInfl _ _ _ _)
  · exact (s.within_applyStore _ _ _ _ _ _).trans (State.within_setInfl _ _ _ _)

theorem State.within_applyOwn (s : State) (ln die : Nat) : s.Within (s.applyOwn ln die) := by
  unfold State.applyOwn
  refine foldl_keeps (P := s.Within) (fun u x hu => ?_) _ (.refl s)
  refine foldl_keeps (P := s.Within) (fun v e hv => ?_) _ hu
  split
  · split
    · rename_i pa _ _
      have hc := v.within_claim ln
      generalize v.claim ln = o at hc ⊢
      obtain ⟨w, b⟩ := o
      cases b with
      | false => exact State.Within.trans hv hc
      | true => exact (State.Within.trans hv hc).trans (State.within_applyPart _ _ _ _ _ _ _)
    · exact hv
  · exact hv

/-- A change of what a control core is owed and waits for. -/
theorem State.within_modCtl (s : State) (n : Nat) (f : Ctl → Ctl) (hf : ∀ c, ∃ w q, f c = { c with wb := w, store := q }) :
    s.Within (s.modCtl n f) := by
  refine ⟨⟨_, _, _, _, _, _, _, rfl⟩, fun y => ⟨_, _, rfl⟩, fun m => ?_, fun h => h.of_eq rfl rfl⟩
  obtain ⟨w, q, e⟩ := hf (s.ctlAt n)
  by_cases h : n = m
  · subst h; exact ⟨w, q, by rw [State.modCtl, State.ctlAt_setCtl_self, e]⟩
  · exact ⟨_, _, by rw [State.modCtl, State.ctlAt_setCtl_ne _ _ h]⟩

theorem State.within_applyCtl (s : State) (n : Nat) (q : CtlStore) : s.Within (s.applyCtl n q) := by
  unfold State.applyCtl
  dsimp only
  exact (s.within_applyStore _ _ _ _ _ _).trans (State.within_modCtl _ _ _ fun c => ⟨_, _, rfl⟩)

theorem State.within_applyHeld (s : State) (ln die : Nat) : s.Within (s.applyHeld ln die) := by
  unfold State.applyHeld
  refine foldl_keeps (P := s.Within) (fun u n hu => ?_) _ (s.within_applyOwn ln die)
  split
  · split
    · have hc := u.within_claim ln
      generalize u.claim ln = o at hc ⊢
      obtain ⟨w, b⟩ := o
      cases b with
      | false => exact State.Within.trans hu hc
      | true => exact (State.Within.trans hu hc).trans (State.within_applyCtl _ _ _)
    · exact hu
  · exact hu

theorem State.within_grantDone (s : State) (ln r : Nat) (m : CMsg) : s.Within (s.grantDone ln r m) := by
  unfold State.grantDone
  dsimp only
  refine (s.recalled_unsend .grantM ln r).within.trans ?_
  split
  · exact (State.recalled_coh _ _).within.trans (State.within_applyHeld _ _ _)
  · exact .refl _

theorem State.within_dataDone (s : State) (ln r : Nat) (m : CMsg) : s.Within (s.dataDone ln r m) := by
  unfold State.dataDone
  dsimp only
  refine (s.recalled_unsend .data ln r).within.trans ?_
  generalize s.unsend .data ln r = u
  have hr : u.Recalled (if (u.repAt ln r).isSome = true then u else u.makeRoom (32 * r + sliceOf (lineSize * ln))) := by
    split
    · exact .refl u
    · exact u.recalled_makeRoom _
  generalize (if (u.repAt ln r).isSome = true then u else u.makeRoom (32 * r + sliceOf (lineSize * ln))) = v at hr ⊢
  have hv : u.Recalled (v.setRep ln r { st := m.st, data := m.bytes, wts := m.wts, rts := m.rts }) := hr.trans (v.recalled_coh _)
  split
  · exact hv.within.trans (State.within_applyHeld _ _ _)
  · exact hv.within

theorem State.within_deliver (s : State) (m : CMsg) : s.Within (s.deliver m) := by
  unfold State.deliver
  dsimp only
  split
  · split
    · exact .refl s
    · exact s.within_invDone _ _
  · split
    · exact .refl s
    · exact (s.recalled_fwdsDone _ _).within
  · split
    · exact .refl s
    · exact (s.recalled_fwdownDone _ _).within
  · exact s.within_grantDone _ _ _
  · exact s.within_dataDone _ _ _
  · exact .refl s

theorem State.within_drain (s : State) (ln : Nat) : s.Within (s.drain ln) :=
  foldl_keeps (P := s.Within) (fun u m hu => hu.trans (u.within_deliver m)) _ (.refl s)

theorem State.within_quiesce (s : State) (ln : Nat) : s.Within (s.quiesce ln) :=
  ((s.within_drain ln).trans (State.within_drain _ ln)).trans (State.within_drain _ ln)

theorem State.within_homeLine (s : State) (ln die p : Nat) (ac : Bool) : s.Within (s.homeLine ln die p ac) :=
  ((s.recalled_ensureLine ln die p ac).within.trans (State.within_quiesce _ ln)).trans (State.recalled_recallLine _ ln).within

/-- A write at home, performed at once. -/
theorem State.within_homeWrite1 (s : State) (who : Who) (t : Option (BitVec 24)) (pa : Nat) (data : List Byte) (fr : From) :
    s.Within (s.homeWrite1 who t pa data fr).1 := by
  have h := (s.within_homeLine (pa / lineSize) fr.die fr.p fr.ac).trans (State.within_logWrite _ who pa data.length)
  unfold State.homeWrite1
  dsimp only
  generalize (s.homeLine (pa / lineSize) fr.die fr.p fr.ac).logWrite who pa data.length = u at h ⊢
  exact h.trans ((State.recalled_modL2 u _ _).trans (State.recalled_memWrite _ _ _)).within

/-- A write of any length performed at once. -/
theorem State.within_homeWrite (s : State) (who : Who) (t : Option (BitVec 24)) (pa : Nat) (data : List Byte) (fr : From) :
    s.Within (s.homeWrite who t pa data fr) :=
  foldl_keeps (P := s.Within) (fun u e hu => hu.trans (u.within_homeWrite1 who t e.1 e.2 fr)) _ (.refl s)

theorem State.Inv.homeWrite {s : State} (h : s.Inv) (who : Who) (t : Option (BitVec 24)) (pa : Nat) (data : List Byte) (fr : From) :
    (s.homeWrite who t pa data fr).Inv := (s.within_homeWrite who t pa data fr).inv h

@[simp] theorem State.homeWrite_cores (s : State) (who : Who) (t : Option (BitVec 24)) (pa : Nat) (data : List Byte) (fr : From) :
    (s.homeWrite who t pa data fr).cores = s.cores := (s.within_homeWrite who t pa data fr).cores

@[simp] theorem State.homeWrite_parts (s : State) (who : Who) (t : Option (BitVec 24)) (pa : Nat) (data : List Byte) (fr : From) :
    (s.homeWrite who t pa data fr).parts = s.parts := (s.within_homeWrite who t pa data fr).parts

@[simp] theorem State.homeWrite_thr (s : State) (who : Who) (t : Option (BitVec 24)) (pa : Nat) (data : List Byte) (fr : From) (i : Tid) :
    (s.homeWrite who t pa data fr).thr i = s.thr i := (s.within_homeWrite who t pa data fr).thr i

/-- A write at home of one line writes its bytes to the memory that the recall left, and no message is made. -/
theorem State.homeWrite1_mem (s : State) (who : Who) (t : Option (BitVec 24)) (pa : Nat) (data : List Byte) (fr : From) :
    ∃ m, (s.homeWrite1 who t pa data fr).1.mem = memWrite pa data m := ⟨_, rfl⟩

end Sys2Proof.Machine
end

