-- ==== Sys2Proof/Laws/Dispatch.lean ====
section
/-! SUPPORT. Sys2Proof/Laws/Dispatch.lean: exec of each instruction is its meaning. -/

namespace Sys2Proof.Machine

@[simp] theorem exec_storagePathRequest (sid0 : Nat) (va0 : BitVec 64) (n0 : Nat) (wr0 : Option (List Byte)) (s : State) : exec (.storagePathRequest sid0 va0 n0 wr0) s = execStoragePathRequest sid0 va0 n0 wr0 s := rfl
@[simp] theorem exec_herborInboundAccess (src0 : Nat) (sid0 : Nat) (va0 : BitVec 64) (n0 : Nat) (wr0 : Inbound) (s : State) : exec (.herborInboundAccess src0 sid0 va0 n0 wr0) s = execHerborInboundAccess src0 sid0 va0 n0 wr0 s := rfl
@[simp] theorem exec_rollback (p0 : Nat) (s : State) : exec (.rollback p0) s = execRollback p0 s := rfl
@[simp] theorem exec_illegalInstruction (w0 : BitVec 32) (s : State) : exec (.illegalInstruction w0) s = execIllegalInstruction w0 s := rfl
@[simp] theorem exec_add (pg0 : BitVec 3) (d0 : BitVec 7) (a0 : BitVec 7) (b0 : BitVec 7) (s : State) : exec (.add pg0 d0 a0 b0) s = execAdd pg0 d0 a0 b0 s := rfl
@[simp] theorem exec_sub (pg0 : BitVec 3) (d0 : BitVec 7) (a0 : BitVec 7) (b0 : BitVec 7) (s : State) : exec (.sub pg0 d0 a0 b0) s = execSub pg0 d0 a0 b0 s := rfl
@[simp] theorem exec_addc (pg0 : BitVec 3) (d0 : BitVec 7) (a0 : BitVec 7) (b0 : BitVec 7) (s : State) : exec (.addc pg0 d0 a0 b0) s = execAddc pg0 d0 a0 b0 s := rfl
@[simp] theorem exec_subb (pg0 : BitVec 3) (d0 : BitVec 7) (a0 : BitVec 7) (b0 : BitVec 7) (s : State) : exec (.subb pg0 d0 a0 b0) s = execSubb pg0 d0 a0 b0 s := rfl
@[simp] theorem exec_and (pg0 : BitVec 3) (d0 : BitVec 7) (a0 : BitVec 7) (b0 : BitVec 7) (s : State) : exec (.and pg0 d0 a0 b0) s = execAnd pg0 d0 a0 b0 s := rfl
@[simp] theorem exec_or (pg0 : BitVec 3) (d0 : BitVec 7) (a0 : BitVec 7) (b0 : BitVec 7) (s : State) : exec (.or pg0 d0 a0 b0) s = execOr pg0 d0 a0 b0 s := rfl
@[simp] theorem exec_xor (pg0 : BitVec 3) (d0 : BitVec 7) (a0 : BitVec 7) (b0 : BitVec 7) (s : State) : exec (.xor pg0 d0 a0 b0) s = execXor pg0 d0 a0 b0 s := rfl
@[simp] theorem exec_andn (pg0 : BitVec 3) (d0 : BitVec 7) (a0 : BitVec 7) (b0 : BitVec 7) (s : State) : exec (.andn pg0 d0 a0 b0) s = execAndn pg0 d0 a0 b0 s := rfl
@[simp] theorem exec_shl (pg0 : BitVec 3) (d0 : BitVec 7) (a0 : BitVec 7) (b0 : BitVec 7) (s : State) : exec (.shl pg0 d0 a0 b0) s = execShl pg0 d0 a0 b0 s := rfl
@[simp] theorem exec_shr (pg0 : BitVec 3) (d0 : BitVec 7) (a0 : BitVec 7) (b0 : BitVec 7) (s : State) : exec (.shr pg0 d0 a0 b0) s = execShr pg0 d0 a0 b0 s := rfl
@[simp] theorem exec_sar (pg0 : BitVec 3) (d0 : BitVec 7) (a0 : BitVec 7) (b0 : BitVec 7) (s : State) : exec (.sar pg0 d0 a0 b0) s = execSar pg0 d0 a0 b0 s := rfl
@[simp] theorem exec_rotr (pg0 : BitVec 3) (d0 : BitVec 7) (a0 : BitVec 7) (b0 : BitVec 7) (s : State) : exec (.rotr pg0 d0 a0 b0) s = execRotr pg0 d0 a0 b0 s := rfl
@[simp] theorem exec_mul (pg0 : BitVec 3) (d0 : BitVec 7) (a0 : BitVec 7) (b0 : BitVec 7) (s : State) : exec (.mul pg0 d0 a0 b0) s = execMul pg0 d0 a0 b0 s := rfl
@[simp] theorem exec_mulhu (pg0 : BitVec 3) (d0 : BitVec 7) (a0 : BitVec 7) (b0 : BitVec 7) (s : State) : exec (.mulhu pg0 d0 a0 b0) s = execMulhu pg0 d0 a0 b0 s := rfl
@[simp] theorem exec_mulhs (pg0 : BitVec 3) (d0 : BitVec 7) (a0 : BitVec 7) (b0 : BitVec 7) (s : State) : exec (.mulhs pg0 d0 a0 b0) s = execMulhs pg0 d0 a0 b0 s := rfl
@[simp] theorem exec_mad (pg0 : BitVec 3) (d0 : BitVec 7) (a0 : BitVec 7) (b0 : BitVec 7) (s : State) : exec (.mad pg0 d0 a0 b0) s = execMad pg0 d0 a0 b0 s := rfl
@[simp] theorem exec_min (pg0 : BitVec 3) (d0 : BitVec 7) (a0 : BitVec 7) (b0 : BitVec 7) (s : State) : exec (.min pg0 d0 a0 b0) s = execMin pg0 d0 a0 b0 s := rfl
@[simp] theorem exec_max (pg0 : BitVec 3) (d0 : BitVec 7) (a0 : BitVec 7) (b0 : BitVec 7) (s : State) : exec (.max pg0 d0 a0 b0) s = execMax pg0 d0 a0 b0 s := rfl
@[simp] theorem exec_minu (pg0 : BitVec 3) (d0 : BitVec 7) (a0 : BitVec 7) (b0 : BitVec 7) (s : State) : exec (.minu pg0 d0 a0 b0) s = execMinu pg0 d0 a0 b0 s := rfl
@[simp] theorem exec_maxu (pg0 : BitVec 3) (d0 : BitVec 7) (a0 : BitVec 7) (b0 : BitVec 7) (s : State) : exec (.maxu pg0 d0 a0 b0) s = execMaxu pg0 d0 a0 b0 s := rfl
@[simp] theorem exec_clz (pg0 : BitVec 3) (d0 : BitVec 7) (a0 : BitVec 7) (s : State) : exec (.clz pg0 d0 a0) s = execClz pg0 d0 a0 s := rfl
@[simp] theorem exec_popc (pg0 : BitVec 3) (d0 : BitVec 7) (a0 : BitVec 7) (s : State) : exec (.popc pg0 d0 a0) s = execPopc pg0 d0 a0 s := rfl
@[simp] theorem exec_brev (pg0 : BitVec 3) (d0 : BitVec 7) (a0 : BitVec 7) (s : State) : exec (.brev pg0 d0 a0) s = execBrev pg0 d0 a0 s := rfl
@[simp] theorem exec_abs (pg0 : BitVec 3) (d0 : BitVec 7) (a0 : BitVec 7) (s : State) : exec (.abs pg0 d0 a0) s = execAbs pg0 d0 a0 s := rfl
@[simp] theorem exec_add64 (pg0 : BitVec 3) (d0 : BitVec 7) (a0 : BitVec 7) (b0 : BitVec 7) (s : State) : exec (.add64 pg0 d0 a0 b0) s = execAdd64 pg0 d0 a0 b0 s := rfl
@[simp] theorem exec_sub64 (pg0 : BitVec 3) (d0 : BitVec 7) (a0 : BitVec 7) (b0 : BitVec 7) (s : State) : exec (.sub64 pg0 d0 a0 b0) s = execSub64 pg0 d0 a0 b0 s := rfl
@[simp] theorem exec_shl64 (pg0 : BitVec 3) (d0 : BitVec 7) (a0 : BitVec 7) (b0 : BitVec 7) (s : State) : exec (.shl64 pg0 d0 a0 b0) s = execShl64 pg0 d0 a0 b0 s := rfl
@[simp] theorem exec_shr64 (pg0 : BitVec 3) (d0 : BitVec 7) (a0 : BitVec 7) (b0 : BitVec 7) (s : State) : exec (.shr64 pg0 d0 a0 b0) s = execShr64 pg0 d0 a0 b0 s := rfl
@[simp] theorem exec_addi (pg0 : BitVec 3) (d0 : BitVec 7) (a0 : BitVec 7) (i0 : BitVec 9) (s : State) : exec (.addi pg0 d0 a0 i0) s = execAddi pg0 d0 a0 i0 s := rfl
@[simp] theorem exec_andi (pg0 : BitVec 3) (d0 : BitVec 7) (a0 : BitVec 7) (i0 : BitVec 9) (s : State) : exec (.andi pg0 d0 a0 i0) s = execAndi pg0 d0 a0 i0 s := rfl
@[simp] theorem exec_ori (pg0 : BitVec 3) (d0 : BitVec 7) (a0 : BitVec 7) (i0 : BitVec 9) (s : State) : exec (.ori pg0 d0 a0 i0) s = execOri pg0 d0 a0 i0 s := rfl
@[simp] theorem exec_xori (pg0 : BitVec 3) (d0 : BitVec 7) (a0 : BitVec 7) (i0 : BitVec 9) (s : State) : exec (.xori pg0 d0 a0 i0) s = execXori pg0 d0 a0 i0 s := rfl
@[simp] theorem exec_shli (pg0 : BitVec 3) (d0 : BitVec 7) (a0 : BitVec 7) (n0 : BitVec 5) (s : State) : exec (.shli pg0 d0 a0 n0) s = execShli pg0 d0 a0 n0 s := rfl
@[simp] theorem exec_shri (pg0 : BitVec 3) (d0 : BitVec 7) (a0 : BitVec 7) (n0 : BitVec 5) (s : State) : exec (.shri pg0 d0 a0 n0) s = execShri pg0 d0 a0 n0 s := rfl
@[simp] theorem exec_sari (pg0 : BitVec 3) (d0 : BitVec 7) (a0 : BitVec 7) (n0 : BitVec 5) (s : State) : exec (.sari pg0 d0 a0 n0) s = execSari pg0 d0 a0 n0 s := rfl
@[simp] theorem exec_rotri (pg0 : BitVec 3) (d0 : BitVec 7) (a0 : BitVec 7) (n0 : BitVec 5) (s : State) : exec (.rotri pg0 d0 a0 n0) s = execRotri pg0 d0 a0 n0 s := rfl
@[simp] theorem exec_movi (pg0 : BitVec 3) (d0 : BitVec 7) (i0 : BitVec 16) (s : State) : exec (.movi pg0 d0 i0) s = execMovi pg0 d0 i0 s := rfl
@[simp] theorem exec_bfe (pg0 : BitVec 3) (d0 : BitVec 7) (a0 : BitVec 7) (b0 : BitVec 7) (s : State) : exec (.bfe pg0 d0 a0 b0) s = execBfe pg0 d0 a0 b0 s := rfl
@[simp] theorem exec_bfeu (pg0 : BitVec 3) (d0 : BitVec 7) (a0 : BitVec 7) (b0 : BitVec 7) (s : State) : exec (.bfeu pg0 d0 a0 b0) s = execBfeu pg0 d0 a0 b0 s := rfl
@[simp] theorem exec_bfi (pg0 : BitVec 3) (d0 : BitVec 7) (a0 : BitVec 7) (b0 : BitVec 7) (s : State) : exec (.bfi pg0 d0 a0 b0) s = execBfi pg0 d0 a0 b0 s := rfl
@[simp] theorem exec_prmt (pg0 : BitVec 3) (d0 : BitVec 7) (a0 : BitVec 7) (b0 : BitVec 7) (s : State) : exec (.prmt pg0 d0 a0 b0) s = execPrmt pg0 d0 a0 b0 s := rfl
@[simp] theorem exec_setp (pg0 : BitVec 3) (q0 : BitVec 3) (c0 : ICond) (a0 : BitVec 7) (b0 : BitVec 7) (s : State) : exec (.setp pg0 q0 c0 a0 b0) s = execSetp pg0 q0 c0 a0 b0 s := rfl
@[simp] theorem exec_setp64 (pg0 : BitVec 3) (q0 : BitVec 3) (c0 : ICond) (a0 : BitVec 7) (b0 : BitVec 7) (s : State) : exec (.setp64 pg0 q0 c0 a0 b0) s = execSetp64 pg0 q0 c0 a0 b0 s := rfl
@[simp] theorem exec_setpImm (pg0 : BitVec 3) (q0 : BitVec 3) (c0 : ICond) (a0 : BitVec 7) (i0 : BitVec 7) (s : State) : exec (.setpImm pg0 q0 c0 a0 i0) s = execSetpImm pg0 q0 c0 a0 i0 s := rfl
@[simp] theorem exec_plop (pg0 : BitVec 3) (q0 : BitVec 3) (a0 : BitVec 3) (b0 : BitVec 3) (t0 : BitVec 4) (s : State) : exec (.plop pg0 q0 a0 b0 t0) s = execPlop pg0 q0 a0 b0 t0 s := rfl
@[simp] theorem exec_sel (pg0 : BitVec 3) (d0 : BitVec 7) (a0 : BitVec 7) (b0 : BitVec 7) (s0 : BitVec 2) (s : State) : exec (.sel pg0 d0 a0 b0 s0) s = execSel pg0 d0 a0 b0 s0 s := rfl
@[simp] theorem exec_lda (pg0 : BitVec 3) (x0 : BitVec 3) (g0 : BitVec 7) (s : State) : exec (.lda pg0 x0 g0) s = execLda pg0 x0 g0 s := rfl
@[simp] theorem exec_sta (pg0 : BitVec 3) (x0 : BitVec 3) (g0 : BitVec 7) (s : State) : exec (.sta pg0 x0 g0) s = execSta pg0 x0 g0 s := rfl
@[simp] theorem exec_adda (pg0 : BitVec 3) (x0 : BitVec 3) (g0 : BitVec 7) (s : State) : exec (.adda pg0 x0 g0) s = execAdda pg0 x0 g0 s := rfl
@[simp] theorem exec_addai (pg0 : BitVec 3) (x0 : BitVec 3) (i0 : BitVec 10) (s : State) : exec (.addai pg0 x0 i0) s = execAddai pg0 x0 i0 s := rfl
@[simp] theorem exec_setm (pg0 : BitVec 3) (x0 : BitVec 3) (g0 : BitVec 7) (s : State) : exec (.setm pg0 x0 g0) s = execSetm pg0 x0 g0 s := rfl
@[simp] theorem exec_clrm (pg0 : BitVec 3) (x0 : BitVec 3) (s : State) : exec (.clrm pg0 x0) s = execClrm pg0 x0 s := rfl
@[simp] theorem exec_csrr (pg0 : BitVec 3) (d0 : BitVec 7) (c0 : BitVec 12) (s : State) : exec (.csrr pg0 d0 c0) s = execCsrr pg0 d0 c0 s := rfl
@[simp] theorem exec_csrw (pg0 : BitVec 3) (d0 : BitVec 7) (c0 : BitVec 12) (s : State) : exec (.csrw pg0 d0 c0) s = execCsrw pg0 d0 c0 s := rfl
@[simp] theorem exec_csrs (pg0 : BitVec 3) (d0 : BitVec 7) (c0 : BitVec 12) (s : State) : exec (.csrs pg0 d0 c0) s = execCsrs pg0 d0 c0 s := rfl
@[simp] theorem exec_csrc (pg0 : BitVec 3) (d0 : BitVec 7) (c0 : BitVec 12) (s : State) : exec (.csrc pg0 d0 c0) s = execCsrc pg0 d0 c0 s := rfl
@[simp] theorem exec_fadd (pg0 : BitVec 3) (d0 : BitVec 7) (a0 : BitVec 7) (b0 : BitVec 7) (s : State) : exec (.fadd pg0 d0 a0 b0) s = execFadd pg0 d0 a0 b0 s := rfl
@[simp] theorem exec_fsub (pg0 : BitVec 3) (d0 : BitVec 7) (a0 : BitVec 7) (b0 : BitVec 7) (s : State) : exec (.fsub pg0 d0 a0 b0) s = execFsub pg0 d0 a0 b0 s := rfl
@[simp] theorem exec_fmul (pg0 : BitVec 3) (d0 : BitVec 7) (a0 : BitVec 7) (b0 : BitVec 7) (s : State) : exec (.fmul pg0 d0 a0 b0) s = execFmul pg0 d0 a0 b0 s := rfl
@[simp] theorem exec_fmin (pg0 : BitVec 3) (d0 : BitVec 7) (a0 : BitVec 7) (b0 : BitVec 7) (s : State) : exec (.fmin pg0 d0 a0 b0) s = execFmin pg0 d0 a0 b0 s := rfl
@[simp] theorem exec_ffma (pg0 : BitVec 3) (d0 : BitVec 7) (a0 : BitVec 7) (b0 : BitVec 7) (s : State) : exec (.ffma pg0 d0 a0 b0) s = execFfma pg0 d0 a0 b0 s := rfl
@[simp] theorem exec_ffms (pg0 : BitVec 3) (d0 : BitVec 7) (a0 : BitVec 7) (b0 : BitVec 7) (s : State) : exec (.ffms pg0 d0 a0 b0) s = execFfms pg0 d0 a0 b0 s := rfl
@[simp] theorem exec_fmax (pg0 : BitVec 3) (d0 : BitVec 7) (a0 : BitVec 7) (b0 : BitVec 7) (s : State) : exec (.fmax pg0 d0 a0 b0) s = execFmax pg0 d0 a0 b0 s := rfl
@[simp] theorem exec_fcpys (pg0 : BitVec 3) (d0 : BitVec 7) (a0 : BitVec 7) (b0 : BitVec 7) (s : State) : exec (.fcpys pg0 d0 a0 b0) s = execFcpys pg0 d0 a0 b0 s := rfl
@[simp] theorem exec_fsetp (pg0 : BitVec 3) (q0 : BitVec 3) (c0 : FCond) (a0 : BitVec 7) (b0 : BitVec 7) (t0 : BitVec 1) (s : State) : exec (.fsetp pg0 q0 c0 a0 b0 t0) s = execFsetp pg0 q0 c0 a0 b0 t0 s := rfl
@[simp] theorem exec_frcp (pg0 : BitVec 3) (d0 : BitVec 7) (a0 : BitVec 7) (t0 : FElt) (s : State) : exec (.frcp pg0 d0 a0 t0) s = execFrcp pg0 d0 a0 t0 s := rfl
@[simp] theorem exec_frsq (pg0 : BitVec 3) (d0 : BitVec 7) (a0 : BitVec 7) (t0 : FElt) (s : State) : exec (.frsq pg0 d0 a0 t0) s = execFrsq pg0 d0 a0 t0 s := rfl
@[simp] theorem exec_fsqrt (pg0 : BitVec 3) (d0 : BitVec 7) (a0 : BitVec 7) (t0 : FElt) (s : State) : exec (.fsqrt pg0 d0 a0 t0) s = execFsqrt pg0 d0 a0 t0 s := rfl
@[simp] theorem exec_fexp2 (pg0 : BitVec 3) (d0 : BitVec 7) (a0 : BitVec 7) (t0 : FElt) (s : State) : exec (.fexp2 pg0 d0 a0 t0) s = execFexp2 pg0 d0 a0 t0 s := rfl
@[simp] theorem exec_flog2 (pg0 : BitVec 3) (d0 : BitVec 7) (a0 : BitVec 7) (t0 : FElt) (s : State) : exec (.flog2 pg0 d0 a0 t0) s = execFlog2 pg0 d0 a0 t0 s := rfl
@[simp] theorem exec_fsin (pg0 : BitVec 3) (d0 : BitVec 7) (a0 : BitVec 7) (t0 : FElt) (s : State) : exec (.fsin pg0 d0 a0 t0) s = execFsin pg0 d0 a0 t0 s := rfl
@[simp] theorem exec_fcos (pg0 : BitVec 3) (d0 : BitVec 7) (a0 : BitVec 7) (t0 : FElt) (s : State) : exec (.fcos pg0 d0 a0 t0) s = execFcos pg0 d0 a0 t0 s := rfl
@[simp] theorem exec_ftanh (pg0 : BitVec 3) (d0 : BitVec 7) (a0 : BitVec 7) (t0 : FElt) (s : State) : exec (.ftanh pg0 d0 a0 t0) s = execFtanh pg0 d0 a0 t0 s := rfl
@[simp] theorem exec_fsigm (pg0 : BitVec 3) (d0 : BitVec 7) (a0 : BitVec 7) (t0 : FElt) (s : State) : exec (.fsigm pg0 d0 a0 t0) s = execFsigm pg0 d0 a0 t0 s := rfl
@[simp] theorem exec_fabs (pg0 : BitVec 3) (d0 : BitVec 7) (a0 : BitVec 7) (t0 : FElt) (s : State) : exec (.fabs pg0 d0 a0 t0) s = execFabs pg0 d0 a0 t0 s := rfl
@[simp] theorem exec_fneg (pg0 : BitVec 3) (d0 : BitVec 7) (a0 : BitVec 7) (t0 : FElt) (s : State) : exec (.fneg pg0 d0 a0 t0) s = execFneg pg0 d0 a0 t0 s := rfl
@[simp] theorem exec_frnd (pg0 : BitVec 3) (d0 : BitVec 7) (a0 : BitVec 7) (t0 : FElt) (s : State) : exec (.frnd pg0 d0 a0 t0) s = execFrnd pg0 d0 a0 t0 s := rfl
@[simp] theorem exec_fclass (pg0 : BitVec 3) (d0 : BitVec 7) (a0 : BitVec 7) (t0 : FElt) (s : State) : exec (.fclass pg0 d0 a0 t0) s = execFclass pg0 d0 a0 t0 s := rfl
@[simp] theorem exec_dadd (pg0 : BitVec 3) (d0 : BitVec 7) (a0 : BitVec 7) (b0 : BitVec 7) (s : State) : exec (.dadd pg0 d0 a0 b0) s = execDadd pg0 d0 a0 b0 s := rfl
@[simp] theorem exec_dsub (pg0 : BitVec 3) (d0 : BitVec 7) (a0 : BitVec 7) (b0 : BitVec 7) (s : State) : exec (.dsub pg0 d0 a0 b0) s = execDsub pg0 d0 a0 b0 s := rfl
@[simp] theorem exec_dmul (pg0 : BitVec 3) (d0 : BitVec 7) (a0 : BitVec 7) (b0 : BitVec 7) (s : State) : exec (.dmul pg0 d0 a0 b0) s = execDmul pg0 d0 a0 b0 s := rfl
@[simp] theorem exec_dfma (pg0 : BitVec 3) (d0 : BitVec 7) (a0 : BitVec 7) (b0 : BitVec 7) (s : State) : exec (.dfma pg0 d0 a0 b0) s = execDfma pg0 d0 a0 b0 s := rfl
@[simp] theorem exec_dmin (pg0 : BitVec 3) (d0 : BitVec 7) (a0 : BitVec 7) (b0 : BitVec 7) (s : State) : exec (.dmin pg0 d0 a0 b0) s = execDmin pg0 d0 a0 b0 s := rfl
@[simp] theorem exec_dmax (pg0 : BitVec 3) (d0 : BitVec 7) (a0 : BitVec 7) (b0 : BitVec 7) (s : State) : exec (.dmax pg0 d0 a0 b0) s = execDmax pg0 d0 a0 b0 s := rfl
@[simp] theorem exec_drcpa (pg0 : BitVec 3) (d0 : BitVec 7) (a0 : BitVec 7) (s : State) : exec (.drcpa pg0 d0 a0) s = execDrcpa pg0 d0 a0 s := rfl
@[simp] theorem exec_drsqa (pg0 : BitVec 3) (d0 : BitVec 7) (a0 : BitVec 7) (s : State) : exec (.drsqa pg0 d0 a0) s = execDrsqa pg0 d0 a0 s := rfl
@[simp] theorem exec_badd2 (pg0 : BitVec 3) (d0 : BitVec 7) (a0 : BitVec 7) (b0 : BitVec 7) (s : State) : exec (.badd2 pg0 d0 a0 b0) s = execBadd2 pg0 d0 a0 b0 s := rfl
@[simp] theorem exec_bmul2 (pg0 : BitVec 3) (d0 : BitVec 7) (a0 : BitVec 7) (b0 : BitVec 7) (s : State) : exec (.bmul2 pg0 d0 a0 b0) s = execBmul2 pg0 d0 a0 b0 s := rfl
@[simp] theorem exec_bfma2 (pg0 : BitVec 3) (d0 : BitVec 7) (a0 : BitVec 7) (b0 : BitVec 7) (s : State) : exec (.bfma2 pg0 d0 a0 b0) s = execBfma2 pg0 d0 a0 b0 s := rfl
@[simp] theorem exec_bmax2 (pg0 : BitVec 3) (d0 : BitVec 7) (a0 : BitVec 7) (b0 : BitVec 7) (s : State) : exec (.bmax2 pg0 d0 a0 b0) s = execBmax2 pg0 d0 a0 b0 s := rfl
@[simp] theorem exec_hadd2 (pg0 : BitVec 3) (d0 : BitVec 7) (a0 : BitVec 7) (b0 : BitVec 7) (s : State) : exec (.hadd2 pg0 d0 a0 b0) s = execHadd2 pg0 d0 a0 b0 s := rfl
@[simp] theorem exec_hmul2 (pg0 : BitVec 3) (d0 : BitVec 7) (a0 : BitVec 7) (b0 : BitVec 7) (s : State) : exec (.hmul2 pg0 d0 a0 b0) s = execHmul2 pg0 d0 a0 b0 s := rfl
@[simp] theorem exec_hfma2 (pg0 : BitVec 3) (d0 : BitVec 7) (a0 : BitVec 7) (b0 : BitVec 7) (s : State) : exec (.hfma2 pg0 d0 a0 b0) s = execHfma2 pg0 d0 a0 b0 s := rfl
@[simp] theorem exec_hmax2 (pg0 : BitVec 3) (d0 : BitVec 7) (a0 : BitVec 7) (b0 : BitVec 7) (s : State) : exec (.hmax2 pg0 d0 a0 b0) s = execHmax2 pg0 d0 a0 b0 s := rfl
@[simp] theorem exec_cvt (pg0 : BitVec 3) (d0 : BitVec 7) (a0 : BitVec 7) (y0 : BitVec 1) (c0 : CvtCode) (f0 : BitVec 2) (s : State) : exec (.cvt pg0 d0 a0 y0 c0 f0) s = execCvt pg0 d0 a0 y0 c0 f0 s := rfl
@[simp] theorem exec_knext (pg0 : BitVec 3) (d0 : BitVec 7) (k0 : BitVec 3) (b0 : BitVec 7) (s : State) : exec (.knext pg0 d0 k0 b0) s = execKnext pg0 d0 k0 b0 s := rfl
@[simp] theorem exec_kpop (pg0 : BitVec 3) (d0 : BitVec 7) (k0 : BitVec 3) (s : State) : exec (.kpop pg0 d0 k0) s = execKpop pg0 d0 k0 s := rfl
@[simp] theorem exec_kget (pg0 : BitVec 3) (d0 : BitVec 7) (k0 : BitVec 3) (b0 : BitVec 7) (s : State) : exec (.kget pg0 d0 k0 b0) s = execKget pg0 d0 k0 b0 s := rfl
@[simp] theorem exec_kset (pg0 : BitVec 3) (s0 : BitVec 7) (k0 : BitVec 3) (b0 : BitVec 7) (s : State) : exec (.kset pg0 s0 k0 b0) s = execKset pg0 s0 k0 b0 s := rfl
@[simp] theorem exec_trap (pg0 : BitVec 3) (c0 : BitVec 12) (s : State) : exec (.trap pg0 c0) s = execTrap pg0 c0 s := rfl
@[simp] theorem exec_bkpt (pg0 : BitVec 3) (s : State) : exec (.bkpt pg0) s = execBkpt pg0 s := rfl
@[simp] theorem exec_rte (pg0 : BitVec 3) (s : State) : exec (.rte pg0) s = execRte pg0 s := rfl
@[simp] theorem exec_wfi (pg0 : BitVec 3) (s : State) : exec (.wfi pg0) s = execWfi pg0 s := rfl
@[simp] theorem exec_rdts (pg0 : BitVec 3) (d0 : BitVec 7) (s0 : BitVec 7) (s : State) : exec (.rdts pg0 d0 s0) s = execRdts pg0 d0 s0 s := rfl
@[simp] theorem exec_wrts (pg0 : BitVec 3) (d0 : BitVec 7) (s0 : BitVec 7) (s : State) : exec (.wrts pg0 d0 s0) s = execWrts pg0 d0 s0 s := rfl
@[simp] theorem exec_resume (pg0 : BitVec 3) (d0 : BitVec 7) (n0 : BitVec 3) (s : State) : exec (.resume pg0 d0 n0) s = execResume pg0 d0 n0 s := rfl
@[simp] theorem exec_bra (pg0 : BitVec 3) (o0 : BitVec 23) (s : State) : exec (.bra pg0 o0) s = execBra pg0 o0 s := rfl
@[simp] theorem exec_call (pg0 : BitVec 3) (o0 : BitVec 23) (s : State) : exec (.call pg0 o0) s = execCall pg0 o0 s := rfl
@[simp] theorem exec_brx (pg0 : BitVec 3) (x0 : BitVec 3) (s : State) : exec (.brx pg0 x0) s = execBrx pg0 x0 s := rfl
@[simp] theorem exec_callx (pg0 : BitVec 3) (x0 : BitVec 3) (s : State) : exec (.callx pg0 x0) s = execCallx pg0 x0 s := rfl
@[simp] theorem exec_ret (pg0 : BitVec 3) (s : State) : exec (.ret pg0) s = execRet pg0 s := rfl
@[simp] theorem exec_exit (pg0 : BitVec 3) (s : State) : exec (.exit pg0) s = execExit pg0 s := rfl
@[simp] theorem exec_jarm (pg0 : BitVec 3) (j0 : BitVec 4) (s : State) : exec (.jarm pg0 j0) s = execJarm pg0 j0 s := rfl
@[simp] theorem exec_jdis (pg0 : BitVec 3) (j0 : BitVec 4) (s : State) : exec (.jdis pg0 j0) s = execJdis pg0 j0 s := rfl
@[simp] theorem exec_join (pg0 : BitVec 3) (j0 : BitVec 4) (s : State) : exec (.join pg0 j0) s = execJoin pg0 j0 s := rfl
@[simp] theorem exec_jtest (pg0 : BitVec 3) (q0 : BitVec 3) (j0 : BitVec 4) (s : State) : exec (.jtest pg0 q0 j0) s = execJtest pg0 q0 j0 s := rfl
@[simp] theorem exec_shflIdx (pg0 : BitVec 3) (d0 : BitVec 7) (a0 : BitVec 7) (b0 : BitVec 7) (s : State) : exec (.shflIdx pg0 d0 a0 b0) s = execShflIdx pg0 d0 a0 b0 s := rfl
@[simp] theorem exec_shflUp (pg0 : BitVec 3) (d0 : BitVec 7) (a0 : BitVec 7) (o0 : BitVec 7) (s : State) : exec (.shflUp pg0 d0 a0 o0) s = execShflUp pg0 d0 a0 o0 s := rfl
@[simp] theorem exec_shflDn (pg0 : BitVec 3) (d0 : BitVec 7) (a0 : BitVec 7) (o0 : BitVec 7) (s : State) : exec (.shflDn pg0 d0 a0 o0) s = execShflDn pg0 d0 a0 o0 s := rfl
@[simp] theorem exec_shflXor (pg0 : BitVec 3) (d0 : BitVec 7) (a0 : BitVec 7) (o0 : BitVec 7) (s : State) : exec (.shflXor pg0 d0 a0 o0) s = execShflXor pg0 d0 a0 o0 s := rfl
@[simp] theorem exec_voteAll (pg0 : BitVec 3) (q0 : BitVec 3) (s0 : BitVec 3) (s : State) : exec (.voteAll pg0 q0 s0) s = execVoteAll pg0 q0 s0 s := rfl
@[simp] theorem exec_voteAny (pg0 : BitVec 3) (q0 : BitVec 3) (s0 : BitVec 3) (s : State) : exec (.voteAny pg0 q0 s0) s = execVoteAny pg0 q0 s0 s := rfl
@[simp] theorem exec_ballot (pg0 : BitVec 3) (d0 : BitVec 7) (s0 : BitVec 3) (s : State) : exec (.ballot pg0 d0 s0) s = execBallot pg0 d0 s0 s := rfl
@[simp] theorem exec_matchg (pg0 : BitVec 3) (d0 : BitVec 7) (a0 : BitVec 7) (s : State) : exec (.matchg pg0 d0 a0) s = execMatchg pg0 d0 a0 s := rfl
@[simp] theorem exec_lred (pg0 : BitVec 3) (d0 : BitVec 7) (a0 : BitVec 7) (o0 : TeamOp) (s : State) : exec (.lred pg0 d0 a0 o0) s = execLred pg0 d0 a0 o0 s := rfl
@[simp] theorem exec_lscan (pg0 : BitVec 3) (d0 : BitVec 7) (a0 : BitVec 7) (e0 : BitVec 1) (o0 : TeamOp) (s : State) : exec (.lscan pg0 d0 a0 e0 o0) s = execLscan pg0 d0 a0 e0 o0 s := rfl
@[simp] theorem exec_lstep (pg0 : BitVec 3) (d0 : BitVec 7) (a0 : BitVec 7) (h0 : BitVec 3) (o0 : TeamOp) (s : State) : exec (.lstep pg0 d0 a0 h0 o0) s = execLstep pg0 d0 a0 h0 o0 s := rfl
@[simp] theorem exec_lrank (pg0 : BitVec 3) (d0 : BitVec 7) (a0 : BitVec 7) (m0 : BitVec 1) (s : State) : exec (.lrank pg0 d0 a0 m0) s = execLrank pg0 d0 a0 m0 s := rfl
@[simp] theorem exec_keygrp (pg0 : BitVec 3) (a0 : BitVec 7) (s : State) : exec (.keygrp pg0 a0) s = execKeygrp pg0 a0 s := rfl
@[simp] theorem exec_spawn (pg0 : BitVec 3) (d0 : BitVec 7) (a0 : BitVec 7) (b0 : BitVec 7) (s : State) : exec (.spawn pg0 d0 a0 b0) s = execSpawn pg0 d0 a0 b0 s := rfl
@[simp] theorem exec_yield (pg0 : BitVec 3) (s : State) : exec (.yield pg0) s = execYield pg0 s := rfl
@[simp] theorem exec_sleep (pg0 : BitVec 3) (a0 : BitVec 7) (s : State) : exec (.sleep pg0 a0) s = execSleep pg0 a0 s := rfl
@[simp] theorem exec_bar (pg0 : BitVec 3) (i0 : BitVec 4) (s0 : PScope) (s : State) : exec (.bar pg0 i0 s0) s = execBar pg0 i0 s0 s := rfl
@[simp] theorem exec_barg (pg0 : BitVec 3) (s0 : PScope) (a0 : BitVec 7) (s : State) : exec (.barg pg0 s0 a0) s = execBarg pg0 s0 a0 s := rfl
@[simp] theorem exec_arrive (pg0 : BitVec 3) (i0 : BitVec 4) (s0 : PScope) (s : State) : exec (.arrive pg0 i0 s0) s = execArrive pg0 i0 s0 s := rfl
@[simp] theorem exec_await (pg0 : BitVec 3) (i0 : BitVec 4) (s : State) : exec (.await pg0 i0) s = execAwait pg0 i0 s := rfl
@[simp] theorem exec_synct (pg0 : BitVec 3) (a0 : BitVec 7) (s : State) : exec (.synct pg0 a0) s = execSynct pg0 a0 s := rfl
@[simp] theorem exec_ticket (pg0 : BitVec 3) (d0 : BitVec 7) (k0 : BitVec 4) (s : State) : exec (.ticket pg0 d0 k0) s = execTicket pg0 d0 k0 s := rfl
@[simp] theorem exec_evset (pg0 : BitVec 3) (d0 : BitVec 7) (n0 : BitVec 6) (r0 : BitVec 1) (k0 : BitVec 7) (s : State) : exec (.evset pg0 d0 n0 r0 k0) s = execEvset pg0 d0 n0 r0 k0 s := rfl
@[simp] theorem exec_evsig (pg0 : BitVec 3) (d0 : BitVec 7) (n0 : BitVec 6) (r0 : BitVec 1) (k0 : BitVec 7) (s : State) : exec (.evsig pg0 d0 n0 r0 k0) s = execEvsig pg0 d0 n0 r0 k0 s := rfl
@[simp] theorem exec_evwait (pg0 : BitVec 3) (n0 : BitVec 6) (s : State) : exec (.evwait pg0 n0) s = execEvwait pg0 n0 s := rfl
@[simp] theorem exec_evread (pg0 : BitVec 3) (d0 : BitVec 7) (n0 : BitVec 6) (s : State) : exec (.evread pg0 d0 n0) s = execEvread pg0 d0 n0 s := rfl
@[simp] theorem exec_nrec (pg0 : BitVec 3) (d0 : BitVec 7) (a0 : BitVec 7) (b0 : BitVec 7) (s : State) : exec (.nrec pg0 d0 a0 b0) s = execNrec pg0 d0 a0 b0 s := rfl
@[simp] theorem exec_launch (pg0 : BitVec 3) (d0 : BitVec 7) (a0 : BitVec 7) (s : State) : exec (.launch pg0 d0 a0) s = execLaunch pg0 d0 a0 s := rfl
@[simp] theorem exec_nflush (pg0 : BitVec 3) (d0 : BitVec 7) (b0 : BitVec 7) (s : State) : exec (.nflush pg0 d0 b0) s = execNflush pg0 d0 b0 s := rfl
@[simp] theorem exec_send (pg0 : BitVec 3) (d0 : BitVec 7) (a0 : BitVec 7) (b0 : BitVec 7) (s : State) : exec (.send pg0 d0 a0 b0) s = execSend pg0 d0 a0 b0 s := rfl
@[simp] theorem exec_rpoll (pg0 : BitVec 3) (d0 : BitVec 7) (a0 : BitVec 7) (s : State) : exec (.rpoll pg0 d0 a0) s = execRpoll pg0 d0 a0 s := rfl
@[simp] theorem exec_rwait (pg0 : BitVec 3) (d0 : BitVec 7) (a0 : BitVec 7) (s : State) : exec (.rwait pg0 d0 a0) s = execRwait pg0 d0 a0 s := rfl
@[simp] theorem exec_radv (pg0 : BitVec 3) (d0 : BitVec 7) (a0 : BitVec 7) (b0 : BitVec 7) (s : State) : exec (.radv pg0 d0 a0 b0) s = execRadv pg0 d0 a0 b0 s := rfl
@[simp] theorem exec_ld (pg0 : BitVec 3) (d0 : BitVec 7) (r0 : BitVec 3) (m0 : Am) (s0 : Sz) (o0 : BitVec 8) (s : State) : exec (.ld pg0 d0 r0 m0 s0 o0) s = execLd pg0 d0 r0 m0 s0 o0 s := rfl
@[simp] theorem exec_st (pg0 : BitVec 3) (d0 : BitVec 7) (r0 : BitVec 3) (m0 : Am) (s0 : Sz) (o0 : BitVec 8) (s : State) : exec (.st pg0 d0 r0 m0 s0 o0) s = execSt pg0 d0 r0 m0 s0 o0 s := rfl
@[simp] theorem exec_lds (pg0 : BitVec 3) (d0 : BitVec 7) (r0 : BitVec 3) (m0 : Am) (s0 : Sz) (o0 : BitVec 8) (s : State) : exec (.lds pg0 d0 r0 m0 s0 o0) s = execLds pg0 d0 r0 m0 s0 o0 s := rfl
@[simp] theorem exec_sts (pg0 : BitVec 3) (d0 : BitVec 7) (r0 : BitVec 3) (m0 : Am) (s0 : Sz) (o0 : BitVec 8) (s : State) : exec (.sts pg0 d0 r0 m0 s0 o0) s = execSts pg0 d0 r0 m0 s0 o0 s := rfl
@[simp] theorem exec_atom (pg0 : BitVec 3) (d0 : BitVec 7) (r0 : BitVec 3) (o0 : AtomOp) (b0 : BitVec 7) (s0 : AScope) (s : State) : exec (.atom pg0 d0 r0 o0 b0 s0) s = execAtom pg0 d0 r0 o0 b0 s0 s := rfl
@[simp] theorem exec_atoms (pg0 : BitVec 3) (d0 : BitVec 7) (r0 : BitVec 3) (o0 : AtomOp) (b0 : BitVec 7) (s : State) : exec (.atoms pg0 d0 r0 o0 b0) s = execAtoms pg0 d0 r0 o0 b0 s := rfl
@[simp] theorem exec_fence (pg0 : BitVec 3) (s0 : Scope) (s : State) : exec (.fence pg0 s0) s = execFence pg0 s0 s := rfl
@[simp] theorem exec_acq (pg0 : BitVec 3) (g0 : BitVec 7) (e0 : BitVec 6) (s0 : Scope) (s : State) : exec (.acq pg0 g0 e0 s0) s = execAcq pg0 g0 e0 s0 s := rfl
@[simp] theorem exec_rel (pg0 : BitVec 3) (g0 : BitVec 7) (e0 : BitVec 6) (s0 : Scope) (s : State) : exec (.rel pg0 g0 e0 s0) s = execRel pg0 g0 e0 s0 s := rfl
@[simp] theorem exec_bind (pg0 : BitVec 3) (g0 : BitVec 7) (r0 : BitVec 3) (e0 : BitVec 6) (s : State) : exec (.bind pg0 g0 r0 e0) s = execBind pg0 g0 r0 e0 s := rfl
@[simp] theorem exec_unbind (pg0 : BitVec 3) (e0 : BitVec 6) (s : State) : exec (.unbind pg0 e0) s = execUnbind pg0 e0 s := rfl
@[simp] theorem exec_pref (pg0 : BitVec 3) (r0 : BitVec 3) (m0 : Am) (o0 : BitVec 8) (s : State) : exec (.pref pg0 r0 m0 o0) s = execPref pg0 r0 m0 o0 s := rfl
@[simp] theorem exec_cinv (pg0 : BitVec 3) (r0 : BitVec 3) (m0 : Am) (o0 : BitVec 8) (s : State) : exec (.cinv pg0 r0 m0 o0) s = execCinv pg0 r0 m0 o0 s := rfl
@[simp] theorem exec_cwb (pg0 : BitVec 3) (r0 : BitVec 3) (m0 : Am) (o0 : BitVec 8) (s : State) : exec (.cwb pg0 r0 m0 o0) s = execCwb pg0 r0 m0 o0 s := rfl
@[simp] theorem exec_tdset (pg0 : BitVec 3) (h0 : BitVec 8) (g0 : BitVec 7) (w0 : BitVec 4) (s : State) : exec (.tdset pg0 h0 g0 w0) s = execTdset pg0 h0 g0 w0 s := rfl
@[simp] theorem exec_tdget (pg0 : BitVec 3) (h0 : BitVec 8) (g0 : BitVec 7) (w0 : BitVec 4) (s : State) : exec (.tdget pg0 h0 g0 w0) s = execTdget pg0 h0 g0 w0 s := rfl
@[simp] theorem exec_tdld (pg0 : BitVec 3) (h0 : BitVec 8) (g0 : BitVec 7) (s : State) : exec (.tdld pg0 h0 g0) s = execTdld pg0 h0 g0 s := rfl
@[simp] theorem exec_tdinv (pg0 : BitVec 3) (h0 : BitVec 8) (s : State) : exec (.tdinv pg0 h0) s = execTdinv pg0 h0 s := rfl
@[simp] theorem exec_cp (pg0 : BitVec 3) (d0 : BitVec 8) (s0 : BitVec 8) (s : State) : exec (.cp pg0 d0 s0) s = execCp pg0 d0 s0 s := rfl
@[simp] theorem exec_cpc (pg0 : BitVec 3) (d0 : BitVec 8) (s0 : BitVec 8) (s : State) : exec (.cpc pg0 d0 s0) s = execCpc pg0 d0 s0 s := rfl
@[simp] theorem exec_cpz (pg0 : BitVec 3) (d0 : BitVec 8) (s : State) : exec (.cpz pg0 d0) s = execCpz pg0 d0 s := rfl
@[simp] theorem exec_cpseal (pg0 : BitVec 3) (d0 : BitVec 7) (s : State) : exec (.cpseal pg0 d0) s = execCpseal pg0 d0 s := rfl
@[simp] theorem exec_cpwait (pg0 : BitVec 3) (s0 : BitVec 7) (s : State) : exec (.cpwait pg0 s0) s = execCpwait pg0 s0 s := rfl
@[simp] theorem exec_cptest (pg0 : BitVec 3) (d0 : BitVec 7) (s : State) : exec (.cptest pg0 d0) s = execCptest pg0 d0 s := rfl
@[simp] theorem exec_mma (pg0 : BitVec 3) (a0 : BitVec 8) (b0 : BitVec 8) (n0 : BitVec 4) (s : State) : exec (.mma pg0 a0 b0 n0) s = execMma pg0 a0 b0 n0 s := rfl
@[simp] theorem exec_mmas (pg0 : BitVec 3) (a0 : BitVec 8) (b0 : BitVec 8) (n0 : BitVec 4) (s : State) : exec (.mmas pg0 a0 b0 n0) s = execMmas pg0 a0 b0 n0 s := rfl
@[simp] theorem exec_mmab (pg0 : BitVec 3) (a0 : BitVec 8) (b0 : BitVec 8) (n0 : BitVec 4) (s : State) : exec (.mmab pg0 a0 b0 n0) s = execMmab pg0 a0 b0 n0 s := rfl
@[simp] theorem exec_mmam (pg0 : BitVec 3) (a0 : BitVec 8) (b0 : BitVec 8) (n0 : BitVec 4) (s : State) : exec (.mmam pg0 a0 b0 n0) s = execMmam pg0 a0 b0 n0 s := rfl
@[simp] theorem exec_mmaz (pg0 : BitVec 3) (a0 : BitVec 8) (b0 : BitVec 8) (n0 : BitVec 4) (s : State) : exec (.mmaz pg0 a0 b0 n0) s = execMmaz pg0 a0 b0 n0 s := rfl
@[simp] theorem exec_dmma (pg0 : BitVec 3) (a0 : BitVec 8) (b0 : BitVec 8) (n0 : BitVec 4) (s : State) : exec (.dmma pg0 a0 b0 n0) s = execDmma pg0 a0 b0 n0 s := rfl
@[simp] theorem exec_accz (pg0 : BitVec 3) (n0 : BitVec 4) (s : State) : exec (.accz pg0 n0) s = execAccz pg0 n0 s := rfl
@[simp] theorem exec_accld (pg0 : BitVec 3) (s0 : BitVec 8) (n0 : BitVec 4) (s : State) : exec (.accld pg0 s0 n0) s = execAccld pg0 s0 n0 s := rfl
@[simp] theorem exec_accst (pg0 : BitVec 3) (d0 : BitVec 8) (n0 : BitVec 4) (s : State) : exec (.accst pg0 d0 n0) s = execAccst pg0 d0 n0 s := rfl
@[simp] theorem exec_accrd (pg0 : BitVec 3) (d0 : BitVec 7) (c0 : BitVec 7) (n0 : BitVec 4) (s : State) : exec (.accrd pg0 d0 c0 n0) s = execAccrd pg0 d0 c0 n0 s := rfl
@[simp] theorem exec_accwr (pg0 : BitVec 3) (s0 : BitVec 7) (c0 : BitVec 7) (n0 : BitVec 4) (s : State) : exec (.accwr pg0 s0 c0 n0) s = execAccwr pg0 s0 c0 n0 s := rfl
@[simp] theorem exec_ownv (pg0 : BitVec 3) (n0 : BitVec 4) (s : State) : exec (.ownv pg0 n0) s = execOwnv pg0 n0 s := rfl
@[simp] theorem exec_ownm (pg0 : BitVec 3) (n0 : BitVec 4) (s : State) : exec (.ownm pg0 n0) s = execOwnm pg0 n0 s := rfl
@[simp] theorem exec_accpsn (pg0 : BitVec 3) (s0 : BitVec 7) (c0 : BitVec 7) (n0 : BitVec 4) (s : State) : exec (.accpsn pg0 s0 c0 n0) s = execAccpsn pg0 s0 c0 n0 s := rfl
@[simp] theorem exec_scout (pg0 : BitVec 3) (s0 : BitVec 8) (q0 : BitVec 8) (s : State) : exec (.scout pg0 s0 q0) s = execScout pg0 s0 q0 s := rfl
@[simp] theorem exec_dodge (pg0 : BitVec 3) (s0 : BitVec 8) (t0 : BitVec 7) (k0 : BitVec 3) (s : State) : exec (.dodge pg0 s0 t0 k0) s = execDodge pg0 s0 t0 k0 s := rfl
@[simp] theorem exec_chset (pg0 : BitVec 3) (h0 : BitVec 8) (s : State) : exec (.chset pg0 h0) s = execChset pg0 h0 s := rfl
@[simp] theorem exec_chain (pg0 : BitVec 3) (d0 : BitVec 8) (s0 : BitVec 8) (s : State) : exec (.chain pg0 d0 s0) s = execChain pg0 d0 s0 s := rfl
@[simp] theorem exec_chain2 (pg0 : BitVec 3) (d0 : BitVec 8) (s0 : BitVec 8) (s : State) : exec (.chain2 pg0 d0 s0) s = execChain2 pg0 d0 s0 s := rfl
@[simp] theorem exec_hx (e0 : BitVec 23) (s : State) : exec (.hx e0) s = execHx e0 s := rfl
@[simp] theorem exec_hm (n0 : BitVec 1) (s0 : BitVec 1) (r0 : BitVec 3) (c0 : BitVec 2) (s : State) : exec (.hm n0 s0 r0 c0) s = execHm n0 s0 r0 c0 s := rfl
@[simp] theorem exec_he (g0 : BitVec 1) (k0 : BitVec 3) (m0 : BitVec 1) (v0 : BitVec 1) (e0 : BitVec 6) (t0 : BitVec 8) (s : State) : exec (.he g0 k0 m0 v0 e0 t0) s = execHe g0 k0 m0 v0 e0 t0 s := rfl
@[simp] theorem exec_hs (h0 : BitVec 7) (r0 : BitVec 1) (k0 : BitVec 1) (s : State) : exec (.hs h0 r0 k0) s = execHs h0 r0 k0 s := rfl
@[simp] theorem exec_interrupt (n0 : Nat) (src0 : Nat) (s : State) : exec (.interrupt n0 src0) s = execInterrupt n0 src0 s := rfl
@[simp] theorem exec_partitionStopped (p0 : Nat) (s : State) : exec (.partitionStopped p0) s = execPartitionStopped p0 s := rfl
@[simp] theorem exec_formationCycle (x0 : Nat) (c0 : Nat) (s : State) : exec (.formationCycle x0 c0) s = execFormationCycle x0 c0 s := rfl
@[simp] theorem exec_threadSplit (t0 : Tid) (s : State) : exec (.threadSplit t0) s = execThreadSplit t0 s := rfl
@[simp] theorem exec_teamInstanceExecute (x0 : Nat) (c0 : Nat) (blk0 : Nat) (team0 : Nat) (s : State) : exec (.teamInstanceExecute x0 c0 blk0 team0) s = execTeamInstanceExecute x0 c0 blk0 team0 s := rfl
@[simp] theorem exec_sleepExpiry (t0 : Tid) (s : State) : exec (.sleepExpiry t0) s = execSleepExpiry t0 s := rfl
@[simp] theorem exec_loadReturn (x0 : Nat) (id0 : Nat) (s : State) : exec (.loadReturn x0 id0) s = execLoadReturn x0 id0 s := rfl
@[simp] theorem exec_storeAcknowledge (x0 : Nat) (id0 : Nat) (s : State) : exec (.storeAcknowledge x0 id0) s = execStoreAcknowledge x0 id0 s := rfl
@[simp] theorem exec_logicalTimeTick (core0 : Nat) (s : State) : exec (.logicalTimeTick core0) s = execLogicalTimeTick core0 s := rfl
@[simp] theorem exec_logicalTimeRaise (die0 : Nat) (s : State) : exec (.logicalTimeRaise die0) s = execLogicalTimeRaise die0 s := rfl
@[simp] theorem exec_l1Sweep (core0 : Nat) (s : State) : exec (.l1Sweep core0) s = execL1Sweep core0 s := rfl
@[simp] theorem exec_l2Sweep (die0 : Nat) (slice0 : Nat) (s : State) : exec (.l2Sweep die0 slice0) s = execL2Sweep die0 slice0 s := rfl
@[simp] theorem exec_memoryFill (line0 : Nat) (victim0 : Option Nat) (req0 : Nat) (ac0 : Bool) (s : State) : exec (.memoryFill line0 victim0 req0 ac0) s = execMemoryFill line0 victim0 req0 ac0 s := rfl
@[simp] theorem exec_reads (line0 : Nat) (r0 : Nat) (s : State) : exec (.reads line0 r0) s = execReads line0 r0 s := rfl
@[simp] theorem exec_readown (line0 : Nat) (r0 : Nat) (s : State) : exec (.readown line0 r0) s = execReadown line0 r0 s := rfl
@[simp] theorem exec_upgrade (line0 : Nat) (r0 : Nat) (s : State) : exec (.upgrade line0 r0) s = execUpgrade line0 r0 s := rfl
@[simp] theorem exec_evictc (line0 : Nat) (r0 : Nat) (s : State) : exec (.evictc line0 r0) s = execEvictc line0 r0 s := rfl
@[simp] theorem exec_writeback (line0 : Nat) (r0 : Nat) (s : State) : exec (.writeback line0 r0) s = execWriteback line0 r0 s := rfl
@[simp] theorem exec_fwds (line0 : Nat) (r0 : Nat) (s : State) : exec (.fwds line0 r0) s = execFwds line0 r0 s := rfl
@[simp] theorem exec_fwdown (line0 : Nat) (r0 : Nat) (s : State) : exec (.fwdown line0 r0) s = execFwdown line0 r0 s := rfl
@[simp] theorem exec_inv (line0 : Nat) (r0 : Nat) (s : State) : exec (.inv line0 r0) s = execInv line0 r0 s := rfl
@[simp] theorem exec_grantm (line0 : Nat) (r0 : Nat) (s : State) : exec (.grantm line0 r0) s = execGrantm line0 r0 s := rfl
@[simp] theorem exec_flitReplay (a0 : Nat) (b0 : Nat) (s : State) : exec (.flitReplay a0 b0) s = execFlitReplay a0 b0 s := rfl
@[simp] theorem exec_linkDown (a0 : Nat) (b0 : Nat) (via0 : Nat) (s : State) : exec (.linkDown a0 b0 via0) s = execLinkDown a0 b0 via0 s := rfl
@[simp] theorem exec_hostSnoop (line0 : Nat) (s : State) : exec (.hostSnoop line0) s = execHostSnoop line0 s := rfl
@[simp] theorem exec_hostMemoryAccess (addr0 : Nat) (n0 : Nat) (wr0 : Option (List Byte)) (s : State) : exec (.hostMemoryAccess addr0 n0 wr0) s = execHostMemoryAccess addr0 n0 wr0 s := rfl
@[simp] theorem exec_ringAppend (id0 : Nat) (s : State) : exec (.ringAppend id0) s = execRingAppend id0 s := rfl
@[simp] theorem exec_pageWalk (die0 : Nat) (sid0 : Nat) (va0 : BitVec 64) (acc0 : Acc) (s : State) : exec (.pageWalk die0 sid0 va0 acc0) s = execPageWalk die0 sid0 va0 acc0 s := rfl
@[simp] theorem exec_faultRecordWrite (p0 : Nat) (s : State) : exec (.faultRecordWrite p0) s = execFaultRecordWrite p0 s := rfl
@[simp] theorem exec_operandLogReplay (x0 : Nat) (id0 : Nat) (s : State) : exec (.operandLogReplay x0 id0) s = execOperandLogReplay x0 id0 s := rfl
@[simp] theorem exec_scratchpadPageFault (x0 : Nat) (c0 : Nat) (bs0 : Nat) (vpn0 : Nat) (s : State) : exec (.scratchpadPageFault x0 c0 bs0 vpn0) s = execScratchpadPageFault x0 c0 bs0 vpn0 s := rfl
@[simp] theorem exec_pageFillComplete (x0 : Nat) (c0 : Nat) (bs0 : Nat) (vpn0 : Nat) (s : State) : exec (.pageFillComplete x0 c0 bs0 vpn0) s = execPageFillComplete x0 c0 bs0 vpn0 s := rfl
@[simp] theorem exec_writeOutAck (x0 : Nat) (c0 : Nat) (bs0 : Nat) (vpn0 : Nat) (s : State) : exec (.writeOutAck x0 c0 bs0 vpn0) s = execWriteOutAck x0 c0 bs0 vpn0 s := rfl
@[simp] theorem exec_blockMigrate (x0 : Nat) (c0 : Nat) (bs0 : Nat) (dst0 : Nat) (s : State) : exec (.blockMigrate x0 c0 bs0 dst0) s = execBlockMigrate x0 c0 bs0 dst0 s := rfl
@[simp] theorem exec_engineStep (x0 : Nat) (c0 : Nat) (q0 : EngQ) (s : State) : exec (.engineStep x0 c0 q0) s = execEngineStep x0 c0 q0 s := rfl
@[simp] theorem exec_stepRetire (x0 : Nat) (c0 : Nat) (q0 : EngQ) (s : State) : exec (.stepRetire x0 c0 q0) s = execStepRetire x0 c0 q0 s := rfl
@[simp] theorem exec_copyBatchComplete (t0 : Tid) (s : State) : exec (.copyBatchComplete t0) s = execCopyBatchComplete t0 s := rfl
@[simp] theorem exec_gangArrival (x0 : Nat) (c0 : Nat) (s : State) : exec (.gangArrival x0 c0) s = execGangArrival x0 c0 s := rfl
@[simp] theorem exec_launchRecordRead (x0 : Nat) (q0 : Nat) (s : State) : exec (.launchRecordRead x0 q0) s = execLaunchRecordRead x0 q0 s := rfl
@[simp] theorem exec_blockPlace (p0 : Nat) (s : State) : exec (.blockPlace p0) s = execBlockPlace p0 s := rfl
@[simp] theorem exec_priorityWaitExpiry (p0 : Nat) (q0 : Nat) (s : State) : exec (.priorityWaitExpiry p0 q0) s = execPriorityWaitExpiry p0 q0 s := rfl
@[simp] theorem exec_blockRetire (x0 : Nat) (c0 : Nat) (bs0 : Nat) (s : State) : exec (.blockRetire x0 c0 bs0) s = execBlockRetire x0 c0 bs0 s := rfl
@[simp] theorem exec_launchComplete (x0 : Nat) (l0 : Nat) (s : State) : exec (.launchComplete x0 l0) s = execLaunchComplete x0 l0 s := rfl
@[simp] theorem exec_binTimerExpiry (x0 : Nat) (bin0 : Nat) (s : State) : exec (.binTimerExpiry x0 bin0) s = execBinTimerExpiry x0 bin0 s := rfl
@[simp] theorem exec_doorbell (x0 : Nat) (q0 : Nat) (addr0 : BitVec 64) (s : State) : exec (.doorbell x0 q0 addr0) s = execDoorbell x0 q0 addr0 s := rfl
@[simp] theorem exec_ctxrootWrite (die0 : Nat) (off0 : Nat) (v0 : BitVec 64) (s : State) : exec (.ctxrootWrite die0 off0 v0) s = execCtxrootWrite die0 off0 v0 s := rfl
@[simp] theorem exec_shoot (die0 : Nat) (v0 : BitVec 64) (s : State) : exec (.shoot die0 v0) s = execShoot die0 v0 s := rfl
@[simp] theorem exec_shootdownComplete (die0 : Nat) (s : State) : exec (.shootdownComplete die0) s = execShootdownComplete die0 s := rfl
@[simp] theorem exec_frespRetry (p0 : Nat) (tag0 : Nat) (s : State) : exec (.frespRetry p0 tag0) s = execFrespRetry p0 tag0 s := rfl
@[simp] theorem exec_frespError (p0 : Nat) (tag0 : Nat) (s : State) : exec (.frespError p0 tag0) s = execFrespError p0 tag0 s := rfl
@[simp] theorem exec_bootstatWrite (die0 : Nat) (v0 : BitVec 64) (s : State) : exec (.bootstatWrite die0 v0) s = execBootstatWrite die0 v0 s := rfl
@[simp] theorem exec_configWindowWrite (die0 : Nat) (off0 : Nat) (v0 : BitVec 64) (s : State) : exec (.configWindowWrite die0 off0 v0) s = execConfigWindowWrite die0 off0 v0 s := rfl
@[simp] theorem exec_swap (p0 : Nat) (abandon0 : Bool) (s : State) : exec (.swap p0 abandon0) s = execSwap p0 abandon0 s := rfl
@[simp] theorem exec_saveComplete (p0 : Nat) (s : State) : exec (.saveComplete p0) s = execSaveComplete p0 s := rfl
@[simp] theorem exec_fillComplete (p0 : Nat) (s : State) : exec (.fillComplete p0) s = execFillComplete p0 s := rfl
@[simp] theorem exec_checkpointIntervalExpiry (p0 : Nat) (s : State) : exec (.checkpointIntervalExpiry p0) s = execCheckpointIntervalExpiry p0 s := rfl
@[simp] theorem exec_snapshotSwap (p0 : Nat) (s : State) : exec (.snapshotSwap p0) s = execSnapshotSwap p0 s := rfl
@[simp] theorem exec_checkpointCommit (p0 : Nat) (s : State) : exec (.checkpointCommit p0) s = execCheckpointCommit p0 s := rfl
@[simp] theorem exec_uncorrectableError (e0 : ErrSite) (s : State) : exec (.uncorrectableError e0) s = execUncorrectableError e0 s := rfl
@[simp] theorem exec_kernelLineRestore (die0 : Nat) (line0 : Nat) (s : State) : exec (.kernelLineRestore die0 line0) s = execKernelLineRestore die0 line0 s := rfl
@[simp] theorem exec_selfTest (die0 : Nat) (f0 : TestOutcome) (s : State) : exec (.selfTest die0 f0) s = execSelfTest die0 f0 s := rfl
@[simp] theorem exec_fatalStop (s : State) : exec (.fatalStop) s = execFatalStop s := rfl
@[simp] theorem exec_powerOn (s : State) : exec (.powerOn) s = execPowerOn s := rfl
@[simp] theorem exec_powerOff (s : State) : exec (.powerOff) s = execPowerOff s := rfl
@[simp] theorem exec_warmBoot (s : State) : exec (.warmBoot) s = execWarmBoot s := rfl
@[simp] theorem exec_romBoot (s : State) : exec (.romBoot) s = execRomBoot s := rfl
@[simp] theorem exec_firmwareBringup (s : State) : exec (.firmwareBringup) s = execFirmwareBringup s := rfl
@[simp] theorem exec_startCores (s : State) : exec (.startCores) s = execStartCores s := rfl
@[simp] theorem exec_kernelLoad (img0 : Image) (loc0 : Nat) (s : State) : exec (.kernelLoad img0 loc0) s = execKernelLoad img0 loc0 s := rfl
@[simp] theorem exec_mailboxStatus (s : State) : exec (.mailboxStatus) s = execMailboxStatus s := rfl
@[simp] theorem exec_mailboxLoad (img0 : Image) (s : State) : exec (.mailboxLoad img0) s = execMailboxLoad img0 s := rfl
@[simp] theorem exec_mailboxDump (off0 : Nat) (n0 : Nat) (s : State) : exec (.mailboxDump off0 n0) s = execMailboxDump off0 n0 s := rfl
@[simp] theorem exec_mailboxClear (s : State) : exec (.mailboxClear) s = execMailboxClear s := rfl
@[simp] theorem exec_mailboxAttest (nonce0 : List Byte) (s : State) : exec (.mailboxAttest nonce0) s = execMailboxAttest nonce0 s := rfl
@[simp] theorem exec_powerEpoch (outside0 : Nat) (demand0 : List Nat) (temp0 : List Nat) (s : State) : exec (.powerEpoch outside0 demand0 temp0) s = execPowerEpoch outside0 demand0 temp0 s := rfl
@[simp] theorem exec_currentSurge (die0 : Nat) (s : State) : exec (.currentSurge die0) s = execCurrentSurge die0 s := rfl
@[simp] theorem exec_thermalLimit (temp0 : Nat) (s : State) : exec (.thermalLimit temp0) s = execThermalLimit temp0 s := rfl
@[simp] theorem exec_thermalShutdown (temp0 : Nat) (s : State) : exec (.thermalShutdown temp0) s = execThermalShutdown temp0 s := rfl
@[simp] theorem exec_contextFill (p0 : Nat) (area0 : Nat) (s : State) : exec (.contextFill p0 area0) s = execContextFill p0 area0 s := rfl
@[simp] theorem exec_sendAcknowledgement (id0 : Nat) (s : State) : exec (.sendAcknowledgement id0) s = execSendAcknowledgement id0 s := rfl
@[simp] theorem exec_dataMessage (line0 : Nat) (r0 : Nat) (s : State) : exec (.dataMessage line0 r0) s = execDataMessage line0 r0 s := rfl
@[simp] theorem exec_backInvalidationResponse (line0 : Nat) (s : State) : exec (.backInvalidationResponse line0) s = execBackInvalidationResponse line0 s := rfl
@[simp] theorem exec_hdmbaseWrite (v0 : Nat) (s : State) : exec (.hdmbaseWrite v0) s = execHdmbaseWrite v0 s := rfl
@[simp] theorem exec_versionCounterRaise (v0 : Nat) (s : State) : exec (.versionCounterRaise v0) s = execVersionCounterRaise v0 s := rfl
@[simp] theorem exec_thermalRecovery (temps0 : List Nat) (s : State) : exec (.thermalRecovery temps0) s = execThermalRecovery temps0 s := rfl
@[simp] theorem exec_partitionConfiguration (p0 : Nat) (cfg0 : PartCfg) (s : State) : exec (.partitionConfiguration p0 cfg0) s = execPartitionConfiguration p0 cfg0 s := rfl
@[simp] theorem exec_queueConfiguration (x0 : Nat) (q0 : Nat) (prio0 : Nat) (s : State) : exec (.queueConfiguration x0 q0 prio0) s = execQueueConfiguration x0 q0 prio0 s := rfl
@[simp] theorem exec_checkpointEnable (p0 : Nat) (us0 : Nat) (areaA0 : Nat) (areaB0 : Nat) (s : State) : exec (.checkpointEnable p0 us0 areaA0 areaB0) s = execCheckpointEnable p0 us0 areaA0 areaB0 s := rfl
@[simp] theorem exec_accessCounterRearm (region0 : Nat) (s : State) : exec (.accessCounterRearm region0) s = execAccessCounterRearm region0 s := rfl

end Sys2Proof.Machine
end

