-- ==== Sys2Proof/Laws/Encoding.lean ====
section
/-! SUPPORT. Sys2Proof/Laws/Encoding.lean: fields of a word put together from fields. -/

namespace Sys2Proof

/-- A field that lies above the last one appended is a field of what it was appended to. -/
theorem fldN_cat_hi (hi : Nat) {n : Nat} (x : BitVec n) (lo len : Nat) (h : n ≤ lo) :
    fldN (cat hi x) lo len = fldN hi (lo - n) len := by
  unfold fldN cat
  congr 1
  obtain ⟨k, rfl⟩ := Nat.exists_eq_add_of_le h
  rw [Nat.pow_add, ← Nat.div_div_eq_div_mul, Nat.add_sub_cancel_left]
  congr 1
  rw [Nat.mul_comm, Nat.mul_add_div (Nat.two_pow_pos n), Nat.div_eq_of_lt x.isLt, Nat.add_zero]

/-- The last field appended reads back. -/
theorem fldN_cat_lo (hi : Nat) {n : Nat} (x : BitVec n) : fldN (cat hi x) 0 n = x := by
  apply BitVec.eq_of_toNat_eq
  simp [fldN, cat, BitVec.toNat_ofNat, Nat.mul_add_mod_self_right, Nat.mod_eq_of_lt x.isLt]

/-- A field of the word a number fills. -/
theorem fld_ofNat (v lo len : Nat) (h : lo + len ≤ 32) : fld (BitVec.ofNat 32 v) lo len = fldN v lo len := by
  apply BitVec.eq_of_toNat_eq
  simp only [fld, fldN, BitVec.toNat_ofNat]
  have : 2 ^ 32 = 2 ^ (32 - len - lo) * 2 ^ len * 2 ^ lo := by
    rw [← Nat.pow_add, ← Nat.pow_add]; congr 1; omega
  rw [this, Nat.mul_comm _ (2 ^ lo), Nat.mod_mul_right_div_self, Nat.mod_mod_of_dvd]
  exact Nat.dvd_mul_left _ _

/-- As fldN_cat_lo, once the field is written as a truncation. -/
theorem ofNat_cat (hi : Nat) {n : Nat} (x : BitVec n) : BitVec.ofNat n (cat hi x) = x := by
  simpa [fldN] using fldN_cat_lo hi x

/-- A field within the last one appended. -/
theorem fldN_cat_in (hi : Nat) {n : Nat} (x : BitVec n) (lo len : Nat) (h : lo + len ≤ n) :
    fldN (cat hi x) lo len = x.extractLsb' lo len := by
  apply BitVec.eq_of_toNat_eq
  have e : 2 ^ n = 2 ^ (n - len - lo) * 2 ^ len * 2 ^ lo := by
    rw [← Nat.pow_add, ← Nat.pow_add]; congr 1; omega
  have hx : x.toNat = (hi * 2 ^ n + x.toNat) % 2 ^ n := by
    rw [Nat.mul_add_mod_self_right, Nat.mod_eq_of_lt x.isLt]
  simp only [fldN, cat, BitVec.toNat_ofNat, BitVec.extractLsb'_toNat, Nat.shiftRight_eq_div_pow]
  generalize hi * 2 ^ n + x.toNat = v at hx ⊢
  rw [hx, e, Nat.mul_comm _ (2 ^ lo), Nat.mod_mul_right_div_self, Nat.mod_mod_of_dvd _ (Nat.dvd_mul_left _ _)]

theorem ofNat_cat_in (hi : Nat) {n m : Nat} (x : BitVec n) (h : m ≤ n) :
    BitVec.ofNat m (cat hi x) = x.extractLsb' 0 m := by
  have := fldN_cat_in hi x 0 m (by omega)
  simpa [fldN] using this

/-- The low `m` bits of `v` are `y`. -/
def low (m v y : Nat) : Prop := v % 2 ^ m = y

/-- A truncation is a value when its low bits are. -/
theorem ofNat_eq_low (m v : Nat) (y : BitVec m) : BitVec.ofNat m v = y ↔ low m v y.toNat := by
  constructor
  · intro h; rw [low, ← h, BitVec.toNat_ofNat]
  · intro h; apply BitVec.eq_of_toNat_eq; rw [BitVec.toNat_ofNat]; exact h

/-- Low bits that reach past the last field appended. -/
theorem low_cat (hi m y : Nat) {n : Nat} (x : BitVec n) (h : n ≤ m) :
    low m (cat hi x) y ↔ low (m - n) hi (y / 2 ^ n) ∧ x.toNat = y % 2 ^ n := by
  unfold low
  have hx := x.isLt
  have e : 2 ^ m = 2 ^ n * 2 ^ (m - n) := by rw [← Nat.pow_add]; congr 1; omega
  have h1 : cat hi x % 2 ^ m = (hi % 2 ^ (m - n)) * 2 ^ n + x.toNat := by
    rw [e, Nat.mod_mul, cat]
    rw [Nat.mul_add_mod_self_right, Nat.mod_eq_of_lt hx, Nat.mul_comm hi, Nat.mul_add_div (Nat.two_pow_pos n),
      Nat.div_eq_of_lt hx, Nat.add_zero]
    ring
  rw [h1]
  constructor
  · intro h; subst h
    rw [Nat.mul_comm, Nat.mul_add_div (Nat.two_pow_pos n), Nat.mul_add_mod, Nat.div_eq_of_lt hx, Nat.mod_eq_of_lt hx]
    simp
  · rintro ⟨a, b⟩
    rw [a, b, Nat.mul_comm]; exact Nat.div_add_mod y (2 ^ n)

theorem fldN_zero (v len : Nat) : fldN v 0 len = BitVec.ofNat len v := by simp [fldN]

/-! Codes of operands read back. -/

@[simp] theorem ICond.ofBits_bits (c : ICond) : ICond.ofBits c.bits = some c := by cases c <;> rfl
@[simp] theorem FCond.ofBits_bits (c : FCond) : FCond.ofBits c.bits = some c := by cases c <;> rfl
@[simp] theorem FElt.ofBits_bits (c : FElt) : FElt.ofBits c.bits = some c := by cases c <;> rfl
@[simp] theorem AtomOp.ofBits_bits (c : AtomOp) : AtomOp.ofBits c.bits = some c := by cases c <;> rfl
@[simp] theorem AScope.ofBits_bits (c : AScope) : AScope.ofBits c.bits = some c := by cases c <;> rfl
@[simp] theorem TeamOp.ofBits_bits (c : TeamOp) : TeamOp.ofBits c.bits = some c := by cases c <;> rfl
@[simp] theorem PScope.ofBits_bits (c : PScope) : PScope.ofBits c.bits = some c := by cases c <;> rfl
@[simp] theorem Scope.ofBits_bits (c : Scope) : Scope.ofBits c.bits = some c := by cases c <;> rfl
@[simp] theorem Am.ofBits_bits (c : Am) : Am.ofBits c.bits = some c := by cases c <;> rfl
@[simp] theorem Sz.ofBits_bits (c : Sz) : Sz.ofBits c.bits = some c := by cases c <;> rfl
@[simp] theorem CvtCode.ofBits_bits (c : CvtCode) : CvtCode.ofBits c.bits = some c := by cases c <;> rfl

/-- A well-formed instruction whose row is read back decodes. -/
theorem decode_of_row {w : BitVec 32} {i : Instr} (h : decodeRow w = some i) (hi : i.wf = true) : decode w = some i := by
  simp [decode, decodeE, h, hi, Except.toOption]

end Sys2Proof
end

