-- ==== Sys2Proof/Laws/Words.lean ====
section
/-! SUPPORT. Sys2Proof/Laws/Words.lean: what the order of checks of R70 makes of a word, said once. -/

namespace Sys2Proof.Machine

/-- A word that reaches its guard is its body under a true guard, and moves on under a false one. -/
theorem runWord_of_reaches {s : State} {w : W} (body : Res) (h : s.Reaches w.i w.pg w.gs w.rs w.hu w.need w.onCtl)
    (hb : w.bad = false) (hu : w.unread = false) :
    runWord w s body = if s.me.guard w.pg || w.acts then body.finish s else (Res.next s).finish s := by
  have h1 : w.illegal s.cur s.me = false := by
    have hc : (isCtl s.cur && !w.onCtl) = false := by rcases h.core with h | h <;> simp [h]
    have hg : (w.gs.any fun n => decide (s.me.alloc ≤ n)) = false := by
      simp only [List.any_eq_false, decide_eq_true_eq, Nat.not_le]; exact h.allocated
    simp only [W.illegal, h.operands, hc, hg, h.hints, hb, Bool.not_true, Bool.or_self]
  have h2 : ¬(s.level s.cur).num < w.need.num := Nat.not_lt.2 h.level
  have h3 : w.waits s.me = false := by
    simp only [W.waits, List.any_eq_false, Bool.or_eq_true, decide_eq_true_eq, Bool.and_eq_true, bne_iff_ne, beq_iff_eq]
    intro r hr
    have := h.settled r hr
    rintro (h | ⟨h7, h⟩)
    · exact this.1 h
    · rcases this.2 with e | e
      · exact h7 e
      · exact e h
  simp only [runWord, hu, h1, h2, h3]
  rfl

/-- A word that runs is its body. -/
theorem runWord_of_runs {s : State} {w : W} (body : Res) (h : s.Runs w.i w.pg w.gs w.rs w.hu w.need w.onCtl)
    (hb : w.bad = false) (hu : w.unread = false) : runWord w s body = body.finish s := by
  rw [runWord_of_reaches body h.toReaches hb hu, h.guard]; rfl

/-- A word whose effect is on its thread's registers, when it runs. -/
theorem regWord_of_runs {s : State} {w : W} (f : Thread → Thread) (h : s.Runs w.i w.pg w.gs w.rs w.hu w.need w.onCtl)
    (hb : w.bad = false) (hu : w.unread = false) : regWord w s f = .next (s.did f) := by
  rw [regWord, runWord_of_runs _ h hb hu]; rfl

/-- Everything a word can do: it waits, it raises a trap, it is skipped under a false guard, or it runs its body. -/
theorem runWord_cases (w : W) (s : State) (body : Res) :
    runWord w s body = (Res.hold s).finish s ∨
    (∃ c v, (c = 0x00 ∨ c = 0x01) ∧ runWord w s body = .next (s.trap s.cur c v false)) ∨
    (s.me.guard w.pg = false ∧ runWord w s body = .next (s.modMe Thread.past)) ∨
    runWord w s body = body.finish s := by
  unfold runWord
  split
  · exact .inl rfl
  · split
    · exact .inr (.inl ⟨0, _, .inl rfl, rfl⟩)
    · split
      · exact .inr (.inl ⟨1, _, .inr rfl, rfl⟩)
      · split
        · exact .inl rfl
        · split
          · exact .inr (.inr (.inr rfl))
          · rename_i h
            simp only [Bool.or_eq_true, not_or, Bool.not_eq_true] at h
            exact .inr (.inr (.inl ⟨h.1, rfl⟩))

/-- A word under a false guard that acts under a true one alone only moves on (R57). -/
theorem runWord_skip {s : State} {w : W} (body : Res) (hi : w.illegal s.cur s.me = false)
    (hl : w.need.num ≤ (s.level s.cur).num) (hw : w.waits s.me = false) (hu : w.unread = false) (ha : w.acts = false)
    (hg : s.me.guard w.pg = false) : runWord w s body = .next (s.modMe Thread.past) := by
  have h2 : ¬(s.level s.cur).num < w.need.num := Nat.not_lt.2 hl
  simp [runWord, hu, hi, h2, hw, hg, ha, Res.finish]

/-- An illegal word raises cause 0x00 with the word in TVAL (R69, R70). -/
theorem runWord_illegal {s : State} {w : W} (body : Res) (hu : w.unread = false) (hi : w.illegal s.cur s.me = true) :
    runWord w s body = .next (s.trap s.cur 0x00 (((encode w.i).getD 0).zeroExtend 64) false) := by
  simp [runWord, hu, hi, Res.finish]

/-- A word without the level it needs raises cause 0x01 (R14, R70). -/
theorem runWord_privilege {s : State} {w : W} (body : Res) (hu : w.unread = false) (hi : w.illegal s.cur s.me = false)
    (hl : (s.level s.cur).num < w.need.num) :
    runWord w s body = .next (s.trap s.cur 0x01 (((encode w.i).getD 0).zeroExtend 64) false) := by
  simp [runWord, hu, hi, hl, Res.finish]

/-! ### What taking a trap does -/

/-- A control core that does not stop goes on with nothing else changed; one that stops has signalled the Gecko pair (R27). -/
theorem State.trapCtl_on (s : State) (n : Nat) {c : Ctl} (h : c.stopped = false) : s.trapCtl n c = s.setCtl n c := by
  simp [State.trapCtl, h]

@[simp] theorem State.trap_ctl (s : State) (n c : Nat) (v : BitVec 64) (up : Bool) :
    s.trap (.ctl n) c v up = s.trapCtl n ((s.ctlAt n).trap c v up) := rfl

/-- What a control core's trap leaves: control cores apart, everything. -/
theorem State.trapCtl_eq (s : State) (n : Nat) (c : Ctl) : ∃ l, s.trapCtl n c = { s with ctl := l } := by
  unfold State.trapCtl
  dsimp only
  split <;> exact ⟨_, rfl⟩

/-- A trap changes its control core, or the halt of its bank, and nothing else. -/
theorem State.trap_frame (s : State) (t : Tid) (c : Nat) (v : BitVec 64) (up : Bool) :
    (s.trap t c v up).mem = s.mem ∧ (s.trap t c v up).parts = s.parts ∧ (s.trap t c v up).cores = s.cores ∧
    (s.trap t c v up).coh = s.coh ∧ (s.trap t c v up).tr = s.tr ∧ (s.trap t c v up).win = s.win ∧
    (s.trap t c v up).boot = s.boot ∧ (s.trap t c v up).power = s.power ∧ (s.trap t c v up).hst = s.hst ∧
    (s.trap t c v up).images = s.images ∧ (s.trap t c v up).clock = s.clock ∧ (s.trap t c v up).fresh = s.fresh ∧
    (s.trap t c v up).agenda = s.agenda ∧ (s.trap t c v up).cur = s.cur ∧ (s.trap t c v up).far = s.far ∧
    (s.trap t c v up).fenced = s.fenced := by
  cases t with
  | ctl n => obtain ⟨l, h⟩ := s.trapCtl_eq n ((s.ctlAt n).trap c v up); simp [h]
  | cmp x c i => simp [State.trap, State.unitTrap]

/-- Recording a trap of a bank keeps every thread. -/
theorem Ctx.record_cores (k : Ctx) (tr : TrapRec) (late : Bool) : (k.record tr late).cores = k.cores := by
  unfold Ctx.record
  cases hk : k.halt with
  | none => rfl
  | some h => dsimp only; cases h.stopped && !late <;> rfl

/-- Taking a trap of a compute thread changes no thread (R310). -/
theorem State.trap_cmp_thr (s : State) (x c i n : Nat) (v : BitVec 64) (up : Bool) (u : Tid) :
    (s.trap (.cmp x c i) n v up).thr u = s.thr u := by
  cases u with
  | ctl m => rfl
  | cmp y d j =>
    simp only [State.trap, State.unitTrap, State.modCtx, State.thr]
    by_cases h : x = y
    · subst h; rw [State.ctxAt_setCtx_self]; simp only [Ctx.coreAt, Ctx.record_cores]
    · rw [State.ctxAt_setCtx_ne _ _ h]

end Sys2Proof.Machine
end

