-- ==== Sys2Proof/Laws/Keeps.lean ====
section
/-! SUPPORT. Sys2Proof/Laws/Keeps.lean: that the shared operations of the meanings keep the invariant. -/

namespace Sys2Proof.Machine

/-! ### Updates of threads, banks and control cores -/

theorem State.Inv.setThr {s : State} (h : s.Inv) (t : Tid) (th : Thread) : (s.setThr t th).Inv := by
  cases t <;> exact h.of_eq rfl rfl

theorem State.Inv.modThr {s : State} (h : s.Inv) (t : Tid) (f : Thread → Thread) : (s.modThr t f).Inv := h.setThr _ _

theorem State.Inv.modMe {s : State} (h : s.Inv) (f : Thread → Thread) : (s.modMe f).Inv := h.setThr _ _

theorem State.Inv.setCtx {s : State} (h : s.Inv) (x : Nat) (k : Ctx) : (s.setCtx x k).Inv := h.of_eq rfl rfl

theorem State.Inv.modCtx {s : State} (h : s.Inv) (x : Nat) (f : Ctx → Ctx) : (s.modCtx x f).Inv := h.of_eq rfl rfl

theorem State.Inv.modCore {s : State} (h : s.Inv) (x c : Nat) (f : CtxCore → CtxCore) : (s.modCore x c f).Inv := h.of_eq rfl rfl

theorem State.Inv.modBlk {s : State} (h : s.Inv) (x c b : Nat) (f : Block → Block) : (s.modBlk x c b f).Inv := h.of_eq rfl rfl

theorem State.Inv.modPart {s : State} (h : s.Inv) (p : Nat) (f : Part → Part) : (s.modPart p f).Inv := h.of_eq rfl rfl

theorem State.Inv.setCtl {s : State} (h : s.Inv) (n : Nat) (c : Ctl) : (s.setCtl n c).Inv := h.of_eq rfl rfl

theorem State.Inv.modCtl {s : State} (h : s.Inv) (n : Nat) (f : Ctl → Ctl) : (s.modCtl n f).Inv := h.of_eq rfl rfl

theorem State.Inv.raiseIrq {s : State} (h : s.Inv) (d src : Nat) : (s.raiseIrq d src).Inv := h.of_eq rfl rfl

theorem State.Inv.unitTrap {s : State} (h : s.Inv) (x c slot unit : Nat) (pc : BitVec 57) (cause : Nat) (tval : BitVec 64)
    (late : Bool) : (s.unitTrap x c slot unit pc cause tval late).Inv := h.of_eq rfl rfl

theorem State.Inv.trap {s : State} (h : s.Inv) (t : Tid) (cause : Nat) (tval : BitVec 64) (up : Bool) :
    (s.trap t cause tval up).Inv := by
  cases t with
  | ctl n =>
    obtain ⟨l, e⟩ := s.trapCtl_eq n ((s.ctlAt n).trap cause tval up)
    exact h.of_eq (by simp [e]) (by simp [e])
  | cmp x c i => exact h.of_eq rfl rfl

theorem State.Inv.takeFree {s : State} (h : s.Inv) : s.takeFree.2.Inv := h.of_eq rfl rfl

/-! ### Words -/

/-- Whatever state an outcome answers meets the invariant. -/
def Out.Keeps (o : Out) : Prop := ∀ t, o = .next t → t.Inv

/-- Whatever state the body of a word answers meets the invariant. -/
def Res.Keeps : Res → Prop
  | .next s | .jump s _ | .placed s | .hold s | .wait s _ => s.Inv
  | .trap _ _ _ | .fault _ | .refuse _ => True

theorem Out.keeps_next {s : State} (h : s.Inv) : Out.Keeps (.next s) := fun t e => by cases e; exact h

theorem Res.keeps_finish {s : State} (h : s.Inv) {r : Res} (hr : r.Keeps) : Out.Keeps (r.finish s) := by
  cases r with
  | next u => exact Out.keeps_next (State.Inv.modMe hr _)
  | jump u pc => exact Out.keeps_next (State.Inv.modMe hr _)
  | placed u => exact Out.keeps_next hr
  | hold u => exact Out.keeps_next (State.Inv.modMe hr _)
  | wait u w => exact Out.keeps_next (State.Inv.modMe hr _)
  | trap c v up => exact Out.keeps_next (h.trap _ _ _ _)
  | fault f => exact fun t e => by cases e
  | refuse f => exact fun t e => by cases e

/-- A word keeps the invariant when its body does. -/
theorem runWord_keeps {w : W} {s : State} {body : Res} (h : s.Inv) (hb : body.Keeps) : Out.Keeps (runWord w s body) := by
  unfold runWord
  split
  · exact Res.keeps_finish h h
  · split
    · exact Res.keeps_finish h trivial
    · split
      · exact Res.keeps_finish h trivial
      · split
        · exact Res.keeps_finish h h
        · split
          · exact Res.keeps_finish h hb
          · exact Res.keeps_finish h h

theorem regWord_keeps {w : W} {s : State} {f : Thread → Thread} (h : s.Inv) : Out.Keeps (regWord w s f) :=
  runWord_keeps h (h.modMe f)

theorem hintWord_keeps {i : Instr} {s : State} {slot : Hints → Option (BitVec 23)} {put : Hints → Hints} (h : s.Inv) :
    Out.Keeps (hintWord i s slot put) := by
  unfold hintWord
  split
  · exact Res.keeps_finish h trivial
  · exact Out.keeps_next (h.modMe _)

/-! ### Translation -/

/-- What a translation answers when the access may go on, or waits. -/
def XRes.All (P : State → Prop) : XRes → Prop
  | .ok s _ _ _ => P s
  | .wait s => P s
  | _ => True

theorem XRes.all_xOut {P : State → Prop} {s : State} (h : P s) (q : XReq) (e : BitVec 64) (pa size : Nat) :
    XRes.All P (xOut s q e pa size) := by
  unfold xOut
  split
  · trivial
  · trivial
  · exact h

theorem State.recalled_tlbPut (s : State) (t : TlbE) : s.Recalled (s.tlbPut t) := by
  unfold State.tlbPut
  dsimp only
  split
  · exact ⟨s.mem, s.coh, _, s.fresh, rfl, fun h => h.1⟩
  · generalize List.filter _ (List.filter _ s.tr.tlb) = l
    have h := s.recalled_pick l
    generalize s.pick l = o at h ⊢
    obtain ⟨v, u⟩ := o
    exact h.trans ⟨u.mem, u.coh, _, u.fresh, rfl, fun h => h.1⟩

theorem State.recalled_tlbFill (s : State) (q : XReq) (n : Nat) (t : TlbE) : s.Recalled (s.tlbFill q n t) :=
  foldl_keeps (P := s.Recalled) (fun u _ hu => hu.trans (u.recalled_tlbPut _)) _ (.refl s)

/-- The walker's write of an entry, or what it asks for to make it. -/
theorem State.within_markEntry (s : State) (a : Nat) (e e' : BitVec 64) : s.Within (s.markEntry a e e').1 := by
  unfold State.markEntry
  split
  · exact .refl s
  · have hc := s.within_claim (a / lineSize)
    generalize s.claim (a / lineSize) = o at hc ⊢
    obtain ⟨u, b⟩ := o
    cases b with
    | false => exact hc
    | true =>
      dsimp only
      exact State.Within.trans hc (u.within_homeWrite _ _ _ _ _)

/-- A translation writes A and D of the entry it used, at home, and TLBs alone. -/
theorem State.all_translate (s : State) (q : XReq) (va : Dword) : XRes.All s.Within (s.translate q va) := by
  unfold State.translate
  dsimp only
  split
  · rename_i t _
    have hx := XRes.all_xOut (State.Within.refl s) q t.leaf (ptePa t.leaf + (va.toNat % 2 ^ 57 - t.base)) t.size
    generalize xOut s q t.leaf _ _ = o at hx ⊢
    split
    · rename_i u pa cc ac
      show s.Within (if q.marks = true then u.tlbFill q _ t else u)
      split
      · exact State.Within.trans hx (u.recalled_tlbFill _ _ _).within
      · exact hx
    · exact hx
  · split
    · trivial
    · rename_i l _
      have hx := XRes.all_xOut (State.Within.refl s) q l.e (ptePa l.e + va.toNat % 2 ^ 57 % l.size) l.size
      generalize xOut s q l.e _ _ = o at hx ⊢
      split
      · split
        · exact hx
        · rename_i u pa cc ac _
          have hm := State.Within.trans hx (u.within_markEntry l.at' l.e (l.e ||| 0x40 ||| (if q.wr = true then 0x80 else 0)))
          generalize u.markEntry l.at' l.e _ = m at hm ⊢
          obtain ⟨v, b⟩ := m
          cases b with
          | false => exact hm
          | true => exact State.Within.trans hm (v.recalled_tlbFill _ _ _).within
      · exact hx

theorem State.all_xCtl (s : State) (n : Nat) (q : XReq) (va : Dword) : XRes.All s.Within (s.xCtl n q va) := by
  have h0 := State.Within.refl s
  unfold State.xCtl
  dsimp only
  split
  · trivial
  · split
    · split
      · exact s.all_translate _ _
      · trivial
    · split
      · exact s.all_translate _ _
      · split
        · trivial
        · split
          · trivial
          · split
            · split
              · exact h0
              · trivial
            · exact h0

theorem State.all_viaHerbor {s : State} (q : XReq) (va : Dword) {r : XRes} (h : XRes.All s.Within r) :
    XRes.All s.Within (State.viaHerbor q va r).1 := by
  cases r with
  | ok u pa cc ac =>
    unfold State.viaHerbor
    dsimp only
    split
    · exact h
    · split
      · split
        · trivial
        · rename_i r _
          have ht := u.all_translate { q with root := r, user := true, priv := false, scope := none } va
          generalize u.translate _ va = o at ht ⊢
          cases o with
          | ok v pa' cc' ac' =>
            dsimp only
            split
            · trivial
            · exact State.Within.trans h ht
          | wait v => exact State.Within.trans h ht
          | flt _ _ _ => trivial
          | trap _ => trivial
      · split
        · exact h
        · trivial
  | wait u => exact h
  | flt _ _ _ => trivial
  | trap _ => trivial

/-- A translation for a thread leaves every thread, and keeps the invariant. -/
theorem State.all_xThread (s : State) (t : Tid) (q : XReq) (va : Dword) : XRes.All s.Within (s.xThread t q va).1 := by
  cases t with
  | ctl n =>
    unfold State.xThread
    dsimp only
    have h := State.all_viaHerbor (s := s)
      { q with die := n / 5, root := if (s.ctlAt n).pl = .user then (s.ctlAt n).uroot else (s.ctlAt n).kroot, core := some (512 + n) }
      va (s.all_xCtl n q va)
    generalize State.viaHerbor _ va _ = o at h ⊢
    obtain ⟨r, v⟩ := o
    cases r <;> exact h
  | cmp x c i => exact State.all_viaHerbor _ _ (s.all_translate _ _)

/-- A fault makes or joins a fault record, and changes nothing else. -/
theorem State.addFault_eq (s : State) (p : Nat) (sid : BitVec 16) (kind level : Nat) (acc : Acc) (va : Dword) (die core size : Nat) :
    ∃ t, (s.addFault p sid kind level acc va die core size).1 = { s with tr := t } := by
  unfold State.addFault
  dsimp only
  split <;> exact ⟨_, rfl⟩

theorem State.recalled_addFault (s : State) (p : Nat) (sid : BitVec 16) (kind level : Nat) (acc : Acc) (va : Dword)
    (die core size : Nat) : s.Recalled (s.addFault p sid kind level acc va die core size).1 := by
  obtain ⟨t, ht⟩ := s.addFault_eq p sid kind level acc va die core size
  exact ⟨s.mem, s.coh, t, s.fresh, ht, fun h => h.1⟩

theorem State.Inv.addFault {s : State} (h : s.Inv) (p : Nat) (sid : BitVec 16) (kind level : Nat) (acc : Acc) (va : Dword)
    (die core size : Nat) : (s.addFault p sid kind level acc va die core size).1.Inv :=
  (s.recalled_addFault p sid kind level acc va die core size).inv h

/-- Entering lines changes what a recall may. -/
theorem State.recalled_ensureLines (l : List Nat) (s : State) (die p : Nat) (ac : Bool) :
    s.Recalled (l.foldl (fun s ln => s.ensureLine ln die p ac) s) :=
  foldl_keeps (P := s.Recalled) (fun u _ h => h.trans (u.recalled_ensureLine _ _ _ _)) l (.refl s)

/-! ### Scratchpad bytes -/

theorem State.Inv.spPut {s : State} (h : s.Inv) (x c bs a : Nat) (v : Byte) : (s.spPut x c bs a v).Inv :=
  h.modPhys _ (memPut_wf _ _ (h.frames _))

theorem State.Inv.spWrite {s : State} (h : s.Inv) (x c bs a : Nat) (b : List Byte) : (s.spWrite x c bs a b).Inv := by
  induction b generalizing s a with
  | nil => exact h
  | cons v r ih => exact ih ((h.spPut x c bs a v).modCore _ _ _) _

theorem State.Inv.fillFrame {s : State} (h : s.Inv) (x c f : Nat) (b : List Byte) : (s.fillFrame x c f b).Inv :=
  h.modPhys _ (memWrite_wf _ _ (h.frames _))

theorem State.Inv.spDo {s : State} (h : s.Inv) (x c bs slot : Nat) (op : Instr) (a : Nat) (data : List Byte) :
    (s.spDo x c bs slot op a data).Inv := by
  unfold State.spDo
  dsimp only
  split
  · exact State.Inv.modThr (h.modCore _ _ _) _ _
  · exact h.spWrite _ _ _ _ _
  · exact (h.spWrite _ _ _ _ _).modThr _ _
  · exact h

theorem State.Inv.spRelease {s : State} (h : s.Inv) (x c bs v : Nat) : (s.spRelease x c bs v).Inv := by
  unfold State.spRelease
  exact foldl_keeps (P := State.Inv) (fun u e hu => (hu.spDo _ _ _ _ _ _ _).modCtx _ _) _ h

theorem State.Inv.pageReady {s : State} (h : s.Inv) (x c : Nat) (t : Xfer) (f : Nat) (set : SttE → SttE) :
    (s.pageReady x c t f set).Inv := (h.modCore _ _ _).spRelease _ _ _ _

/-! ### Loads, stores and atomics of cores -/

theorem State.Inv.modPhysKeep {s : State} (h : s.Inv) (i : Nat) {g : CorePhys → CorePhys} (hg : ∀ c, (g c).frames = c.frames) :
    (s.modPhys i g).Inv := h.modPhys i (by rw [hg]; exact h.frames i)

theorem State.Inv.ite {b : Prop} [Decidable b] {s t : State} (hs : s.Inv) (ht : t.Inv) : (if b then s else t).Inv := by
  split
  · exact hs
  · exact ht

theorem State.Inv.l1Put {s : State} (h : s.Inv) (core k : Nat) (sec : Sector) : (s.l1Put core k sec).Inv := by
  unfold State.l1Put
  dsimp only
  refine State.Inv.modPhysKeep ?_ _ fun _ => rfl
  split
  · exact h
  · generalize (List.map (fun (e : Nat × Sector) => e.1 / 4) (s.coreAt core).l1).eraseDups = l
    have hp := (s.recalled_pick l).inv h
    split
    · rename_i v u he
      rw [he] at hp
      exact hp.modPhysKeep _ fun _ => rfl
    · rename_i u he
      rw [he] at hp
      exact hp

/-- A load through a core's slice keeps the invariant, whether or not it answers. -/
theorem State.Inv.coreLoad {s : State} (h : s.Inv) (core : Nat) (va : Dword) (pa : Nat) (cc : BitVec 2) (via : Option Nat)
    (ac : Bool) (p lease : Nat) (l1 : Bool) (n : Nat) (own : Option Flight) :
    (s.coreLoad core va pa cc via ac p lease l1 n own).1.Inv := by
  unfold State.coreLoad
  split
  · dsimp only
    have hw : (s.farTime core).1.Inv := h.takeFree
    generalize s.farTime core = o at hw ⊢
    split
    · exact hw
    · exact State.Inv.raiseLt hw _ _
  · dsimp only
    split
    · exact h
    · have hp := (s.recalled_prepLoad (dieOfPhys core) (pa / lineSize) (repOk (dieOfPhys core) pa cc via) p ac).inv h
      generalize s.prepLoad _ _ _ p ac = o at hp ⊢
      obtain ⟨u, b⟩ := o
      cases b with
      | false => exact hp
      | true =>
        dsimp only
        split
        · exact hp
        · have hu : ∀ w f, ((u.setTimes (dieOfPhys core) (pa / lineSize) (repOk (dieOfPhys core) pa cc via) w f).raiseLt core w).Inv :=
            fun w f => State.Inv.raiseLt ((u.recalled_setTimes _ _ _ w f).inv hp) _ _
          exact State.Inv.ite ((hu _ _).l1Put _ _ _) (hu _ _)

theorem State.Inv.setInfl {s : State} (h : s.Inv) (x id : Nat) (f : InFlight) : (s.setInfl x id f).Inv := h.of_eq rfl rfl

theorem State.Inv.delInfl {s : State} (h : s.Inv) (x id : Nat) : (s.delInfl x id).Inv := h.of_eq rfl rfl

theorem State.Inv.landed {s : State} (h : s.Inv) (x id : Nat) (f : InFlight) (d : Nat) (ws : List Word) :
    (s.landed x id f d ws).Inv := (h.delInfl x id).modThr _ _

theorem State.Inv.ackWrite {s : State} (h : s.Inv) (x id : Nat) (f : InFlight) (w : Option (BitVec 24)) :
    (s.ackWrite x id f w).Inv := by
  have hd : ((s.raiseOpt (s.physOf x f.core) w).delInfl x id).Inv := (h.raiseOpt _ _).delInfl _ _
  unfold State.ackWrite
  dsimp only
  split
  · exact hd.modBlk _ _ _ _
  · exact hd

/-- What is done to a checkpoint image changes the images alone. -/
theorem State.inImage_eq (s : State) (x : Nat) (f : State → State) : ∃ i, s.inImage x f = { s with images := i } := by
  unfold State.inImage
  dsimp only
  split
  · exact ⟨_, rfl⟩
  · split <;> exact ⟨_, rfl⟩

theorem State.Inv.landImage {s : State} (h : s.Inv) (x : Nat) (f : InFlight) (d : Nat) (ws : List Word) :
    (s.landImage x f d ws).Inv := by
  unfold State.landImage
  split
  · exact h
  · obtain ⟨i, e⟩ := s.inImage_eq x fun s => s.modThr (.cmp x f.core f.slot) (·.land d ws)
    exact e ▸ h.of_eq rfl rfl

/-- Performing a store, REL or atomic at its slice keeps the invariant. -/
theorem State.Inv.applyWrite {s : State} (h : s.Inv) (x id : Nat) (f : InFlight) (pa die : Nat) (rep : Bool) :
    (s.applyWrite x id f pa die rep).Inv := by
  unfold State.applyWrite
  split
  · dsimp only
    refine State.Inv.setInfl (State.Inv.modThr (State.Inv.landImage ?_ _ _ _ _) _ _) _ _ _
    exact ((s.within_applyStore (.bank x f.epoch) die rep f.time pa _).inv h).modPhysKeep _ fun _ => rfl
  · exact (s.within_applyPart _ _ _ _ _ _).inv h

/-! ### Reads of the distributor, counters and bins -/

/-- What a read of the distributor answers when it succeeds, or waits. -/
def DRes.All (P : State → Prop) : DRes → Prop
  | .ok s _ => P s
  | .wait s => P s
  | _ => True

theorem State.freeList_eq (s : State) (n : Nat) : ∃ f, (s.freeList n).1 = { s with fresh := f } := by
  induction n generalizing s with
  | zero => exact ⟨s.fresh, rfl⟩
  | succ n ih =>
    obtain ⟨f, h⟩ := ih s.takeFree.2
    exact ⟨f, by simp only [State.freeList, h]; rfl⟩

/-- A read of the distributor leaves every thread, and keeps the invariant. -/
theorem State.all_distRead (s : State) (x f : Nat) (va : Dword) (n : Nat) : DRes.All s.Within (s.distRead x f va n) := by
  induction f generalizing s va n with
  | zero => exact State.Within.refl s
  | succ f ih =>
    unfold State.distRead
    split
    · exact State.Within.refl s
    · split
      · trivial
      · dsimp only
        have ht := State.all_viaHerbor (s := s) (s.distReq x) va (s.all_translate (s.distReq x) va)
        generalize State.viaHerbor _ va _ = o at ht ⊢
        obtain ⟨r, v⟩ := o
        cases r with
        | trap _ => trivial
        | flt _ _ _ => trivial
        | wait u => exact ht
        | ok u pa cc ac =>
          dsimp only
          have fin : ∀ (w : State) (b : List Byte) (va : Dword) (n : Nat), s.Within w →
              DRes.All s.Within (match w.distRead x f va n with
                | .ok s r => .ok s (b ++ r)
                | r => r) := by
            intro w b va n hw
            have hr := ih w va n
            generalize w.distRead x f va n = o at hr ⊢
            cases o with
            | ok z r => exact State.Within.trans hw hr
            | wait z => exact State.Within.trans hw hr
            | flt _ _ _ _ => trivial
            | bad => trivial
          refine fin _ _ _ _ ?_
          split
          · exact ht
          · exact State.Within.trans ht (State.recalled_ensureLines _ _ _ _ _).within

theorem State.Inv.flushOnce {s : State} (h : s.Inv) (x b : Nat) : (s.flushOnce x b).1.Inv := by
  unfold State.flushOnce
  dsimp only
  split
  · exact h.of_eq rfl rfl
  · have hd := s.all_distRead x (8 / 4096 + 2) (binTmpl ((s.ctxAt x).binAt b).entry + 16) 8
    have he : s.distBytes x (binTmpl ((s.ctxAt x).binAt b).entry + 16) 8 =
        s.distRead x (8 / 4096 + 2) (binTmpl ((s.ctxAt x).binAt b).entry + 16) 8 := rfl
    rw [he]
    generalize s.distRead x _ _ 8 = o at hd ⊢
    cases o with
    | ok u w =>
      have hu := State.Within.inv hd h
      dsimp only
      split
      · exact hu.of_eq rfl rfl
      · exact hu.of_eq rfl rfl
    | wait u => exact (State.Within.inv hd h).of_eq rfl rfl
    | flt kind level size va =>
      dsimp only
      have ht : (s.distFault x kind level size va).1.Inv := h.addFault _ _ _ _ _ _ _ _ _
      generalize s.distFault x kind level size va = p at ht ⊢
      exact ht.of_eq rfl rfl
    | bad => exact h.of_eq rfl rfl

theorem State.Inv.flushBin {s : State} (h : s.Inv) (x b : Nat) : (s.flushBin x b).1.Inv := by
  have h1 := h.flushOnce x b
  unfold State.flushBin
  generalize s.flushOnce x b = o at h1 ⊢
  obtain ⟨u, k⟩ := o
  cases k with
  | false => exact h1
  | true =>
    dsimp only
    split
    · exact State.Inv.flushOnce h1 x b
    · exact h1

theorem State.Inv.fire {s : State} (h : s.Inv) (x n : Nat) : (s.fire x n).Inv := by
  unfold State.fire
  exact foldl_keeps (P := State.Inv) (fun u e hu => hu.flushBin x e.1) _ (h.modCtx _ _)

theorem State.Inv.evSub {s : State} (h : s.Inv) (x n : Nat) (v : Word) : (s.evSub x n v).Inv := by
  unfold State.evSub
  dsimp only
  generalize (if ((s.ctxAt x).evAt n).toNat ≤ v.toNat then (0 : Word) else (s.ctxAt x).evAt n - v) = c
  split
  · exact (h.modCtx _ _).fire _ _
  · exact h.modCtx _ _

/-! ### Memory that survives a boot -/

theorem freeCells_above (keep : Nat → Bool) (n a : Nat) {m : List Host.Cell} (h : Memory.above a m = true) (hw : Memory.wf m = true) :
    Memory.above a (freeCells keep n m) = true := by
  induction m generalizing n a with
  | nil => rfl
  | cons e r ih =>
    obtain ⟨b, v⟩ := e
    have hb : a < b := by simpa [Memory.above] using h
    obtain ⟨-, ha, hr⟩ := Memory.wf_cons.1 hw
    simp only [freeCells]
    split
    · simpa [Memory.above] using hb
    · split
      · exact ih _ _ (Memory.above_mono ha (Nat.le_of_lt hb)) hr
      · simpa [Memory.above] using hb

/-- Memory that a warm boot leaves keeps the canonical form. -/
theorem freeCells_wf (keep : Nat → Bool) (n : Nat) {m : List Host.Cell} (h : Memory.wf m = true) :
    Memory.wf (freeCells keep n m) = true := by
  induction m generalizing n with
  | nil => rfl
  | cons e r ih =>
    obtain ⟨b, v⟩ := e
    obtain ⟨hv0, ha, hr⟩ := Memory.wf_cons.1 h
    simp only [freeCells]
    split
    · exact Memory.wf_cons.2 ⟨hv0, freeCells_above _ _ _ ha hr, ih _ hr⟩
    · split
      · exact ih _ hr
      · rename_i hv
        exact Memory.wf_cons.2 ⟨hv, freeCells_above _ _ _ ha hr, ih _ hr⟩

/-- A byte of the dump region that a warm boot keeps reads as before (R348). -/
theorem freeCells_keep (keep : Nat → Bool) (n a : Nat) {m : List Host.Cell} (h : Memory.wf m = true) (hk : keep a = true) :
    memGet (freeCells keep n m) a = memGet m a := by
  induction m generalizing n with
  | nil => rfl
  | cons e r ih =>
    obtain ⟨b, v⟩ := e
    obtain ⟨hv0, ha, hr⟩ := Memory.wf_cons.1 h
    by_cases hb : b = a
    · subst hb
      simp only [freeCells, hk, if_true]
      simp [memGet, tget]
    · simp only [freeCells]
      split
      · have h := ih (n + 1) hr
        simpa [memGet, tget, hb] using h
      · split
        · have h := ih (n + 1) hr
          simpa [memGet, tget, hb] using h
        · have h := ih (n + 1) hr
          simpa [memGet, tget, hb] using h

end Sys2Proof.Machine
end

