-- ==== Sys2Proof/Laws/Operands.lean ====
section
/-! SUPPORT. Sys2Proof/Laws/Operands.lean: what each operand form of a word does when the word runs. -/

namespace Sys2Proof.Machine

/-- The effect of a word depends on its function at the thread it finds alone. -/
theorem State.did_congr {s : State} {f g : Thread → Thread} (h : f s.me = g s.me) : s.did f = s.did g := by
  simp only [State.did, State.modMe, h]

theorem alu3_of_runs {i : Instr} {pg : BitVec 3} {d a b : BitVec 7} {s : State} {hu : HintUse}
    {f : Hints → Word → Word → Word} (h : s.Runs i pg [d.toNat, a.toNat, b.toNat] [] hu) :
    alu3 i pg d a b s hu f =
      .next (s.did fun th => th.setG d.toNat (f s.me.hints (s.me.gr a.toNat) (s.me.gr b.toNat))) := by
  rw [alu3, regWord_of_runs (w := ({ i, pg, gs := [d.toNat, a.toNat, b.toNat], hu } : W)) _ h rfl rfl]
  exact congrArg _ (State.did_congr rfl)

theorem alu3d_of_runs {i : Instr} {pg : BitVec 3} {d a b : BitVec 7} {s : State} {hu : HintUse}
    {f : Hints → Word → Word → Word → Word} (h : s.Runs i pg [d.toNat, a.toNat, b.toNat] [] hu) :
    alu3d i pg d a b s hu f = .next (s.did fun th =>
      th.setG d.toNat (f s.me.hints (s.me.gr d.toNat) (s.me.gr a.toNat) (s.me.gr b.toNat))) := by
  rw [alu3d, regWord_of_runs (w := ({ i, pg, gs := [d.toNat, a.toNat, b.toNat], hu } : W)) _ h rfl rfl]
  exact congrArg _ (State.did_congr rfl)

theorem alu2_of_runs {i : Instr} {pg : BitVec 3} {d a : BitVec 7} {s : State} {hu : HintUse}
    {f : Hints → Word → Word} (h : s.Runs i pg [d.toNat, a.toNat] [] hu) :
    alu2 i pg d a s hu f = .next (s.did fun th => th.setG d.toNat (f s.me.hints (s.me.gr a.toNat))) := by
  rw [alu2, regWord_of_runs (w := ({ i, pg, gs := [d.toNat, a.toNat], hu } : W)) _ h rfl rfl]
  exact congrArg _ (State.did_congr rfl)

theorem alu64_of_runs {i : Instr} {pg : BitVec 3} {d a : BitVec 7} {bs : List Nat} {s : State}
    {f : Thread → Dword → Dword} (h : s.Runs i pg ([d.toNat, d.toNat + 1, a.toNat, a.toNat + 1] ++ bs)) :
    alu64 i pg d a bs s f = .next (s.did fun th => th.setPair d.toNat (f s.me (s.me.pair a.toNat))) := by
  rw [alu64, regWord_of_runs
    (w := ({ i, pg, gs := [d.toNat, d.toNat + 1, a.toNat, a.toNat + 1] ++ bs } : W)) _ h rfl rfl]
  exact congrArg _ (State.did_congr rfl)

end Sys2Proof.Machine
end

