-- ==== Sys2Proof/Laws/PerInstr.lean ====
section
/-! SUPPORT. Sys2Proof/Laws/PerInstr.lean: per instruction, that the decoder reads every field of the encoding back. -/

set_option linter.unusedSimpArgs false

namespace Sys2Proof.Laws.RoundTrip

/-- A word's encoding reads back as the word. -/
def Statement (i : Instr) : Prop := i.isWord = true → ∃ w, encode i = some w ∧ decodeRow w = some i


theorem storagePathRequest (sid : Nat) (va : BitVec 64) (n : Nat) (wr : Option (List Byte)) : Statement (.storagePathRequest sid va n wr) := by intro h; cases h

theorem herborInboundAccess (src sid : Nat) (va : BitVec 64) (n : Nat) (wr : Inbound) : Statement (.herborInboundAccess src sid va n wr) := by intro h; cases h

theorem rollback (p : Nat) : Statement (.rollback p) := by intro h; cases h

theorem illegalInstruction (w : BitVec 32) : Statement (.illegalInstruction w) := by intro h; cases h

theorem add (pg : BitVec 3) (d a b : BitVec 7) : Statement (.add pg d a b) := fun _ => ⟨_, rfl, by
  simp [decodeRow, decode01, fld_ofNat, fldN_cat_hi, ofNat_cat, fldN_zero]⟩

theorem sub (pg : BitVec 3) (d a b : BitVec 7) : Statement (.sub pg d a b) := fun _ => ⟨_, rfl, by
  simp [decodeRow, decode01, fld_ofNat, fldN_cat_hi, ofNat_cat, fldN_zero]⟩

theorem addc (pg : BitVec 3) (d a b : BitVec 7) : Statement (.addc pg d a b) := fun _ => ⟨_, rfl, by
  simp [decodeRow, decode01, fld_ofNat, fldN_cat_hi, ofNat_cat, fldN_zero]⟩

theorem subb (pg : BitVec 3) (d a b : BitVec 7) : Statement (.subb pg d a b) := fun _ => ⟨_, rfl, by
  simp [decodeRow, decode01, fld_ofNat, fldN_cat_hi, ofNat_cat, fldN_zero]⟩

theorem and (pg : BitVec 3) (d a b : BitVec 7) : Statement (.and pg d a b) := fun _ => ⟨_, rfl, by
  simp [decodeRow, decode02, fld_ofNat, fldN_cat_hi, ofNat_cat, fldN_zero]⟩

theorem or (pg : BitVec 3) (d a b : BitVec 7) : Statement (.or pg d a b) := fun _ => ⟨_, rfl, by
  simp [decodeRow, decode02, fld_ofNat, fldN_cat_hi, ofNat_cat, fldN_zero]⟩

theorem xor (pg : BitVec 3) (d a b : BitVec 7) : Statement (.xor pg d a b) := fun _ => ⟨_, rfl, by
  simp [decodeRow, decode02, fld_ofNat, fldN_cat_hi, ofNat_cat, fldN_zero]⟩

theorem andn (pg : BitVec 3) (d a b : BitVec 7) : Statement (.andn pg d a b) := fun _ => ⟨_, rfl, by
  simp [decodeRow, decode02, fld_ofNat, fldN_cat_hi, ofNat_cat, fldN_zero]⟩

theorem shl (pg : BitVec 3) (d a b : BitVec 7) : Statement (.shl pg d a b) := fun _ => ⟨_, rfl, by
  simp [decodeRow, decode03, fld_ofNat, fldN_cat_hi, ofNat_cat, fldN_zero]⟩

theorem shr (pg : BitVec 3) (d a b : BitVec 7) : Statement (.shr pg d a b) := fun _ => ⟨_, rfl, by
  simp [decodeRow, decode03, fld_ofNat, fldN_cat_hi, ofNat_cat, fldN_zero]⟩

theorem sar (pg : BitVec 3) (d a b : BitVec 7) : Statement (.sar pg d a b) := fun _ => ⟨_, rfl, by
  simp [decodeRow, decode03, fld_ofNat, fldN_cat_hi, ofNat_cat, fldN_zero]⟩

theorem rotr (pg : BitVec 3) (d a b : BitVec 7) : Statement (.rotr pg d a b) := fun _ => ⟨_, rfl, by
  simp [decodeRow, decode03, fld_ofNat, fldN_cat_hi, ofNat_cat, fldN_zero]⟩

theorem mul (pg : BitVec 3) (d a b : BitVec 7) : Statement (.mul pg d a b) := fun _ => ⟨_, rfl, by
  simp [decodeRow, decode04, fld_ofNat, fldN_cat_hi, ofNat_cat, fldN_zero]⟩

theorem mulhu (pg : BitVec 3) (d a b : BitVec 7) : Statement (.mulhu pg d a b) := fun _ => ⟨_, rfl, by
  simp [decodeRow, decode04, fld_ofNat, fldN_cat_hi, ofNat_cat, fldN_zero]⟩

theorem mulhs (pg : BitVec 3) (d a b : BitVec 7) : Statement (.mulhs pg d a b) := fun _ => ⟨_, rfl, by
  simp [decodeRow, decode04, fld_ofNat, fldN_cat_hi, ofNat_cat, fldN_zero]⟩

theorem mad (pg : BitVec 3) (d a b : BitVec 7) : Statement (.mad pg d a b) := fun _ => ⟨_, rfl, by
  simp [decodeRow, decode04, fld_ofNat, fldN_cat_hi, ofNat_cat, fldN_zero]⟩

theorem min (pg : BitVec 3) (d a b : BitVec 7) : Statement (.min pg d a b) := fun _ => ⟨_, rfl, by
  simp [decodeRow, decode05, fld_ofNat, fldN_cat_hi, ofNat_cat, fldN_zero]⟩

theorem max (pg : BitVec 3) (d a b : BitVec 7) : Statement (.max pg d a b) := fun _ => ⟨_, rfl, by
  simp [decodeRow, decode05, fld_ofNat, fldN_cat_hi, ofNat_cat, fldN_zero]⟩

theorem minu (pg : BitVec 3) (d a b : BitVec 7) : Statement (.minu pg d a b) := fun _ => ⟨_, rfl, by
  simp [decodeRow, decode05, fld_ofNat, fldN_cat_hi, ofNat_cat, fldN_zero]⟩

theorem maxu (pg : BitVec 3) (d a b : BitVec 7) : Statement (.maxu pg d a b) := fun _ => ⟨_, rfl, by
  simp [decodeRow, decode05, fld_ofNat, fldN_cat_hi, ofNat_cat, fldN_zero]⟩

theorem clz (pg : BitVec 3) (d a : BitVec 7) : Statement (.clz pg d a) := fun _ => ⟨_, rfl, by
  simp [decodeRow, decode06, fld_ofNat, fldN_cat_hi, ofNat_cat, fldN_zero]⟩

theorem popc (pg : BitVec 3) (d a : BitVec 7) : Statement (.popc pg d a) := fun _ => ⟨_, rfl, by
  simp [decodeRow, decode06, fld_ofNat, fldN_cat_hi, ofNat_cat, fldN_zero]⟩

theorem brev (pg : BitVec 3) (d a : BitVec 7) : Statement (.brev pg d a) := fun _ => ⟨_, rfl, by
  simp [decodeRow, decode06, fld_ofNat, fldN_cat_hi, ofNat_cat, fldN_zero]⟩

theorem abs (pg : BitVec 3) (d a : BitVec 7) : Statement (.abs pg d a) := fun _ => ⟨_, rfl, by
  simp [decodeRow, decode06, fld_ofNat, fldN_cat_hi, ofNat_cat, fldN_zero]⟩

theorem add64 (pg : BitVec 3) (d a b : BitVec 7) : Statement (.add64 pg d a b) := fun _ => ⟨_, rfl, by
  simp [decodeRow, decode07, fld_ofNat, fldN_cat_hi, ofNat_cat, fldN_zero]⟩

theorem sub64 (pg : BitVec 3) (d a b : BitVec 7) : Statement (.sub64 pg d a b) := fun _ => ⟨_, rfl, by
  simp [decodeRow, decode07, fld_ofNat, fldN_cat_hi, ofNat_cat, fldN_zero]⟩

theorem shl64 (pg : BitVec 3) (d a b : BitVec 7) : Statement (.shl64 pg d a b) := fun _ => ⟨_, rfl, by
  simp [decodeRow, decode07, fld_ofNat, fldN_cat_hi, ofNat_cat, fldN_zero]⟩

theorem shr64 (pg : BitVec 3) (d a b : BitVec 7) : Statement (.shr64 pg d a b) := fun _ => ⟨_, rfl, by
  simp [decodeRow, decode07, fld_ofNat, fldN_cat_hi, ofNat_cat, fldN_zero]⟩

theorem addi (pg : BitVec 3) (d a : BitVec 7) (i : BitVec 9) : Statement (.addi pg d a i) := fun _ => ⟨_, rfl, by
  simp [decodeRow, decode08, fld_ofNat, fldN_cat_hi, ofNat_cat, fldN_zero]⟩

theorem andi (pg : BitVec 3) (d a : BitVec 7) (i : BitVec 9) : Statement (.andi pg d a i) := fun _ => ⟨_, rfl, by
  simp [decodeRow, decode09, fld_ofNat, fldN_cat_hi, ofNat_cat, fldN_zero]⟩

theorem ori (pg : BitVec 3) (d a : BitVec 7) (i : BitVec 9) : Statement (.ori pg d a i) := fun _ => ⟨_, rfl, by
  simp [decodeRow, decode0A, fld_ofNat, fldN_cat_hi, ofNat_cat, fldN_zero]⟩

theorem xori (pg : BitVec 3) (d a : BitVec 7) (i : BitVec 9) : Statement (.xori pg d a i) := fun _ => ⟨_, rfl, by
  simp [decodeRow, decode0B, fld_ofNat, fldN_cat_hi, ofNat_cat, fldN_zero]⟩

theorem shli (pg : BitVec 3) (d a : BitVec 7) (n : BitVec 5) : Statement (.shli pg d a n) := fun _ => ⟨_, rfl, by
  simp [decodeRow, decode0C, fld_ofNat, fldN_cat_hi, ofNat_cat, fldN_zero]⟩

theorem shri (pg : BitVec 3) (d a : BitVec 7) (n : BitVec 5) : Statement (.shri pg d a n) := fun _ => ⟨_, rfl, by
  simp [decodeRow, decode0C, fld_ofNat, fldN_cat_hi, ofNat_cat, fldN_zero]⟩

theorem sari (pg : BitVec 3) (d a : BitVec 7) (n : BitVec 5) : Statement (.sari pg d a n) := fun _ => ⟨_, rfl, by
  simp [decodeRow, decode0C, fld_ofNat, fldN_cat_hi, ofNat_cat, fldN_zero]⟩

theorem rotri (pg : BitVec 3) (d a : BitVec 7) (n : BitVec 5) : Statement (.rotri pg d a n) := fun _ => ⟨_, rfl, by
  simp [decodeRow, decode0C, fld_ofNat, fldN_cat_hi, ofNat_cat, fldN_zero]⟩

theorem movi (pg : BitVec 3) (d : BitVec 7) (i : BitVec 16) : Statement (.movi pg d i) := fun _ => ⟨_, rfl, by
  simp [decodeRow, decode0D, fld_ofNat, fldN_cat_hi, ofNat_cat, fldN_zero]⟩

theorem bfe (pg : BitVec 3) (d a b : BitVec 7) : Statement (.bfe pg d a b) := fun _ => ⟨_, rfl, by
  simp [decodeRow, decode0E, fld_ofNat, fldN_cat_hi, ofNat_cat, fldN_zero]⟩

theorem bfeu (pg : BitVec 3) (d a b : BitVec 7) : Statement (.bfeu pg d a b) := fun _ => ⟨_, rfl, by
  simp [decodeRow, decode0E, fld_ofNat, fldN_cat_hi, ofNat_cat, fldN_zero]⟩

theorem bfi (pg : BitVec 3) (d a b : BitVec 7) : Statement (.bfi pg d a b) := fun _ => ⟨_, rfl, by
  simp [decodeRow, decode0E, fld_ofNat, fldN_cat_hi, ofNat_cat, fldN_zero]⟩

theorem prmt (pg : BitVec 3) (d a b : BitVec 7) : Statement (.prmt pg d a b) := fun _ => ⟨_, rfl, by
  simp [decodeRow, decode0E, fld_ofNat, fldN_cat_hi, ofNat_cat, fldN_zero]⟩

theorem setp (pg q : BitVec 3) (c : ICond) (a b : BitVec 7) : Statement (.setp pg q c a b) := fun _ => ⟨_, rfl, by
  simp [decodeRow, decode0F, fld_ofNat, fldN_cat_hi, ofNat_cat, fldN_zero]⟩

theorem setp64 (pg q : BitVec 3) (c : ICond) (a b : BitVec 7) : Statement (.setp64 pg q c a b) := fun _ => ⟨_, rfl, by
  simp [decodeRow, decode0F, fld_ofNat, fldN_cat_hi, ofNat_cat, fldN_zero]⟩

theorem setpImm (pg q : BitVec 3) (c : ICond) (a i : BitVec 7) : Statement (.setpImm pg q c a i) := fun _ => ⟨_, rfl, by
  simp [decodeRow, decode0F, fld_ofNat, fldN_cat_hi, ofNat_cat, fldN_zero]⟩

theorem plop (pg q a b : BitVec 3) (t : BitVec 4) : Statement (.plop pg q a b t) := fun _ => ⟨_, rfl, by
  simp [decodeRow, decode10, fld_ofNat, fldN_cat_hi, ofNat_cat, fldN_zero]⟩

theorem sel (pg : BitVec 3) (d a b : BitVec 7) (s : BitVec 2) : Statement (.sel pg d a b s) := fun _ => ⟨_, rfl, by
  simp [decodeRow, decode11, fld_ofNat, fldN_cat_hi, ofNat_cat, fldN_zero]⟩

theorem lda (pg x : BitVec 3) (g : BitVec 7) : Statement (.lda pg x g) := fun _ => ⟨_, rfl, by
  simp [decodeRow, decode12, fld_ofNat, fldN_cat_hi, ofNat_cat, fldN_zero]⟩

theorem sta (pg x : BitVec 3) (g : BitVec 7) : Statement (.sta pg x g) := fun _ => ⟨_, rfl, by
  simp [decodeRow, decode12, fld_ofNat, fldN_cat_hi, ofNat_cat, fldN_zero]⟩

theorem adda (pg x : BitVec 3) (g : BitVec 7) : Statement (.adda pg x g) := fun _ => ⟨_, rfl, by
  simp [decodeRow, decode12, fld_ofNat, fldN_cat_hi, ofNat_cat, fldN_zero]⟩

theorem addai (pg x : BitVec 3) (i : BitVec 10) : Statement (.addai pg x i) := fun _ => ⟨_, rfl, by
  simp [decodeRow, decode12, fld_ofNat, fldN_cat_hi, ofNat_cat, fldN_zero]⟩

theorem setm (pg x : BitVec 3) (g : BitVec 7) : Statement (.setm pg x g) := fun _ => ⟨_, rfl, by
  simp [decodeRow, decode12, fld_ofNat, fldN_cat_hi, ofNat_cat, fldN_zero]⟩

theorem clrm (pg x : BitVec 3) : Statement (.clrm pg x) := fun _ => ⟨_, rfl, by
  simp [decodeRow, decode12, fld_ofNat, fldN_cat_hi, ofNat_cat, fldN_zero]⟩

theorem csrr (pg : BitVec 3) (d : BitVec 7) (c : BitVec 12) : Statement (.csrr pg d c) := fun _ => ⟨_, rfl, by
  simp [decodeRow, decode13, fld_ofNat, fldN_cat_hi, ofNat_cat, fldN_zero]⟩

theorem csrw (pg : BitVec 3) (d : BitVec 7) (c : BitVec 12) : Statement (.csrw pg d c) := fun _ => ⟨_, rfl, by
  simp [decodeRow, decode13, fld_ofNat, fldN_cat_hi, ofNat_cat, fldN_zero]⟩

theorem csrs (pg : BitVec 3) (d : BitVec 7) (c : BitVec 12) : Statement (.csrs pg d c) := fun _ => ⟨_, rfl, by
  simp [decodeRow, decode13, fld_ofNat, fldN_cat_hi, ofNat_cat, fldN_zero]⟩

theorem csrc (pg : BitVec 3) (d : BitVec 7) (c : BitVec 12) : Statement (.csrc pg d c) := fun _ => ⟨_, rfl, by
  simp [decodeRow, decode13, fld_ofNat, fldN_cat_hi, ofNat_cat, fldN_zero]⟩

theorem fadd (pg : BitVec 3) (d a b : BitVec 7) : Statement (.fadd pg d a b) := fun _ => ⟨_, rfl, by
  simp [decodeRow, decode14, fld_ofNat, fldN_cat_hi, ofNat_cat, fldN_zero]⟩

theorem fsub (pg : BitVec 3) (d a b : BitVec 7) : Statement (.fsub pg d a b) := fun _ => ⟨_, rfl, by
  simp [decodeRow, decode14, fld_ofNat, fldN_cat_hi, ofNat_cat, fldN_zero]⟩

theorem fmul (pg : BitVec 3) (d a b : BitVec 7) : Statement (.fmul pg d a b) := fun _ => ⟨_, rfl, by
  simp [decodeRow, decode14, fld_ofNat, fldN_cat_hi, ofNat_cat, fldN_zero]⟩

theorem fmin (pg : BitVec 3) (d a b : BitVec 7) : Statement (.fmin pg d a b) := fun _ => ⟨_, rfl, by
  simp [decodeRow, decode14, fld_ofNat, fldN_cat_hi, ofNat_cat, fldN_zero]⟩

theorem ffma (pg : BitVec 3) (d a b : BitVec 7) : Statement (.ffma pg d a b) := fun _ => ⟨_, rfl, by
  simp [decodeRow, decode15, fld_ofNat, fldN_cat_hi, ofNat_cat, fldN_zero]⟩

theorem ffms (pg : BitVec 3) (d a b : BitVec 7) : Statement (.ffms pg d a b) := fun _ => ⟨_, rfl, by
  simp [decodeRow, decode15, fld_ofNat, fldN_cat_hi, ofNat_cat, fldN_zero]⟩

theorem fmax (pg : BitVec 3) (d a b : BitVec 7) : Statement (.fmax pg d a b) := fun _ => ⟨_, rfl, by
  simp [decodeRow, decode15, fld_ofNat, fldN_cat_hi, ofNat_cat, fldN_zero]⟩

theorem fcpys (pg : BitVec 3) (d a b : BitVec 7) : Statement (.fcpys pg d a b) := fun _ => ⟨_, rfl, by
  simp [decodeRow, decode15, fld_ofNat, fldN_cat_hi, ofNat_cat, fldN_zero]⟩

theorem fsetp (pg q : BitVec 3) (c : FCond) (a b : BitVec 7) (t : BitVec 1) : Statement (.fsetp pg q c a b t) := fun _ => ⟨_, rfl, by
  simp [decodeRow, decode16, fld_ofNat, fldN_cat_hi, ofNat_cat, fldN_zero]⟩

theorem frcp (pg : BitVec 3) (d a : BitVec 7) (t : FElt) : Statement (.frcp pg d a t) := fun _ => ⟨_, rfl, by
  simp [decodeRow, decode17, fld_ofNat, fldN_cat_hi, ofNat_cat, fldN_zero]⟩

theorem frsq (pg : BitVec 3) (d a : BitVec 7) (t : FElt) : Statement (.frsq pg d a t) := fun _ => ⟨_, rfl, by
  simp [decodeRow, decode17, fld_ofNat, fldN_cat_hi, ofNat_cat, fldN_zero]⟩

theorem fsqrt (pg : BitVec 3) (d a : BitVec 7) (t : FElt) : Statement (.fsqrt pg d a t) := fun _ => ⟨_, rfl, by
  simp [decodeRow, decode17, fld_ofNat, fldN_cat_hi, ofNat_cat, fldN_zero]⟩

theorem fexp2 (pg : BitVec 3) (d a : BitVec 7) (t : FElt) : Statement (.fexp2 pg d a t) := fun _ => ⟨_, rfl, by
  simp [decodeRow, decode17, fld_ofNat, fldN_cat_hi, ofNat_cat, fldN_zero]⟩

theorem flog2 (pg : BitVec 3) (d a : BitVec 7) (t : FElt) : Statement (.flog2 pg d a t) := fun _ => ⟨_, rfl, by
  simp [decodeRow, decode17, fld_ofNat, fldN_cat_hi, ofNat_cat, fldN_zero]⟩

theorem fsin (pg : BitVec 3) (d a : BitVec 7) (t : FElt) : Statement (.fsin pg d a t) := fun _ => ⟨_, rfl, by
  simp [decodeRow, decode17, fld_ofNat, fldN_cat_hi, ofNat_cat, fldN_zero]⟩

theorem fcos (pg : BitVec 3) (d a : BitVec 7) (t : FElt) : Statement (.fcos pg d a t) := fun _ => ⟨_, rfl, by
  simp [decodeRow, decode17, fld_ofNat, fldN_cat_hi, ofNat_cat, fldN_zero]⟩

theorem ftanh (pg : BitVec 3) (d a : BitVec 7) (t : FElt) : Statement (.ftanh pg d a t) := fun _ => ⟨_, rfl, by
  simp [decodeRow, decode17, fld_ofNat, fldN_cat_hi, ofNat_cat, fldN_zero]⟩

theorem fsigm (pg : BitVec 3) (d a : BitVec 7) (t : FElt) : Statement (.fsigm pg d a t) := fun _ => ⟨_, rfl, by
  simp [decodeRow, decode17, fld_ofNat, fldN_cat_hi, ofNat_cat, fldN_zero]⟩

theorem fabs (pg : BitVec 3) (d a : BitVec 7) (t : FElt) : Statement (.fabs pg d a t) := fun _ => ⟨_, rfl, by
  simp [decodeRow, decode17, fld_ofNat, fldN_cat_hi, ofNat_cat, fldN_zero]⟩

theorem fneg (pg : BitVec 3) (d a : BitVec 7) (t : FElt) : Statement (.fneg pg d a t) := fun _ => ⟨_, rfl, by
  simp [decodeRow, decode17, fld_ofNat, fldN_cat_hi, ofNat_cat, fldN_zero]⟩

theorem frnd (pg : BitVec 3) (d a : BitVec 7) (t : FElt) : Statement (.frnd pg d a t) := fun _ => ⟨_, rfl, by
  simp [decodeRow, decode17, fld_ofNat, fldN_cat_hi, ofNat_cat, fldN_zero]⟩

theorem fclass (pg : BitVec 3) (d a : BitVec 7) (t : FElt) : Statement (.fclass pg d a t) := fun _ => ⟨_, rfl, by
  simp [decodeRow, decode17, fld_ofNat, fldN_cat_hi, ofNat_cat, fldN_zero]⟩

theorem dadd (pg : BitVec 3) (d a b : BitVec 7) : Statement (.dadd pg d a b) := fun _ => ⟨_, rfl, by
  simp [decodeRow, decode18, fld_ofNat, fldN_cat_hi, ofNat_cat, fldN_zero]⟩

theorem dsub (pg : BitVec 3) (d a b : BitVec 7) : Statement (.dsub pg d a b) := fun _ => ⟨_, rfl, by
  simp [decodeRow, decode18, fld_ofNat, fldN_cat_hi, ofNat_cat, fldN_zero]⟩

theorem dmul (pg : BitVec 3) (d a b : BitVec 7) : Statement (.dmul pg d a b) := fun _ => ⟨_, rfl, by
  simp [decodeRow, decode18, fld_ofNat, fldN_cat_hi, ofNat_cat, fldN_zero]⟩

theorem dfma (pg : BitVec 3) (d a b : BitVec 7) : Statement (.dfma pg d a b) := fun _ => ⟨_, rfl, by
  simp [decodeRow, decode18, fld_ofNat, fldN_cat_hi, ofNat_cat, fldN_zero]⟩

theorem dmin (pg : BitVec 3) (d a b : BitVec 7) : Statement (.dmin pg d a b) := fun _ => ⟨_, rfl, by
  simp [decodeRow, decode19, fld_ofNat, fldN_cat_hi, ofNat_cat, fldN_zero]⟩

theorem dmax (pg : BitVec 3) (d a b : BitVec 7) : Statement (.dmax pg d a b) := fun _ => ⟨_, rfl, by
  simp [decodeRow, decode19, fld_ofNat, fldN_cat_hi, ofNat_cat, fldN_zero]⟩

theorem drcpa (pg : BitVec 3) (d a : BitVec 7) : Statement (.drcpa pg d a) := fun _ => ⟨_, rfl, by
  simp [decodeRow, decode19, fld_ofNat, fldN_cat_hi, ofNat_cat, fldN_zero, fldN_cat_in, ofNat_cat_in, ofNat_eq_low, low_cat]⟩

theorem drsqa (pg : BitVec 3) (d a : BitVec 7) : Statement (.drsqa pg d a) := fun _ => ⟨_, rfl, by
  simp [decodeRow, decode19, fld_ofNat, fldN_cat_hi, ofNat_cat, fldN_zero, fldN_cat_in, ofNat_cat_in, ofNat_eq_low, low_cat]⟩

theorem badd2 (pg : BitVec 3) (d a b : BitVec 7) : Statement (.badd2 pg d a b) := fun _ => ⟨_, rfl, by
  simp [decodeRow, decode1A, fld_ofNat, fldN_cat_hi, ofNat_cat, fldN_zero]⟩

theorem bmul2 (pg : BitVec 3) (d a b : BitVec 7) : Statement (.bmul2 pg d a b) := fun _ => ⟨_, rfl, by
  simp [decodeRow, decode1A, fld_ofNat, fldN_cat_hi, ofNat_cat, fldN_zero]⟩

theorem bfma2 (pg : BitVec 3) (d a b : BitVec 7) : Statement (.bfma2 pg d a b) := fun _ => ⟨_, rfl, by
  simp [decodeRow, decode1A, fld_ofNat, fldN_cat_hi, ofNat_cat, fldN_zero]⟩

theorem bmax2 (pg : BitVec 3) (d a b : BitVec 7) : Statement (.bmax2 pg d a b) := fun _ => ⟨_, rfl, by
  simp [decodeRow, decode1A, fld_ofNat, fldN_cat_hi, ofNat_cat, fldN_zero]⟩

theorem hadd2 (pg : BitVec 3) (d a b : BitVec 7) : Statement (.hadd2 pg d a b) := fun _ => ⟨_, rfl, by
  simp [decodeRow, decode1B, fld_ofNat, fldN_cat_hi, ofNat_cat, fldN_zero]⟩

theorem hmul2 (pg : BitVec 3) (d a b : BitVec 7) : Statement (.hmul2 pg d a b) := fun _ => ⟨_, rfl, by
  simp [decodeRow, decode1B, fld_ofNat, fldN_cat_hi, ofNat_cat, fldN_zero]⟩

theorem hfma2 (pg : BitVec 3) (d a b : BitVec 7) : Statement (.hfma2 pg d a b) := fun _ => ⟨_, rfl, by
  simp [decodeRow, decode1B, fld_ofNat, fldN_cat_hi, ofNat_cat, fldN_zero]⟩

theorem hmax2 (pg : BitVec 3) (d a b : BitVec 7) : Statement (.hmax2 pg d a b) := fun _ => ⟨_, rfl, by
  simp [decodeRow, decode1B, fld_ofNat, fldN_cat_hi, ofNat_cat, fldN_zero]⟩

theorem cvt (pg : BitVec 3) (d a : BitVec 7) (y : BitVec 1) (c : CvtCode) (f : BitVec 2) : Statement (.cvt pg d a y c f) := fun _ => ⟨_, rfl, by
  simp [decodeRow, decode1C, fld_ofNat, fldN_cat_hi, ofNat_cat, fldN_zero]⟩

theorem knext (pg : BitVec 3) (d : BitVec 7) (k : BitVec 3) (b : BitVec 7) : Statement (.knext pg d k b) := fun _ => ⟨_, rfl, by
  simp [decodeRow, decode1D, fld_ofNat, fldN_cat_hi, ofNat_cat, fldN_zero]⟩

theorem kpop (pg : BitVec 3) (d : BitVec 7) (k : BitVec 3) : Statement (.kpop pg d k) := fun _ => ⟨_, rfl, by
  simp [decodeRow, decode1D, fld_ofNat, fldN_cat_hi, ofNat_cat, fldN_zero, fldN_cat_in, ofNat_cat_in, ofNat_eq_low, low_cat]⟩

theorem kget (pg : BitVec 3) (d : BitVec 7) (k : BitVec 3) (b : BitVec 7) : Statement (.kget pg d k b) := fun _ => ⟨_, rfl, by
  simp [decodeRow, decode1D, fld_ofNat, fldN_cat_hi, ofNat_cat, fldN_zero, fldN_cat_in, ofNat_cat_in, ofNat_eq_low, low_cat]⟩

theorem kset (pg : BitVec 3) (s : BitVec 7) (k : BitVec 3) (b : BitVec 7) : Statement (.kset pg s k b) := fun _ => ⟨_, rfl, by
  simp [decodeRow, decode1D, fld_ofNat, fldN_cat_hi, ofNat_cat, fldN_zero, fldN_cat_in, ofNat_cat_in, ofNat_eq_low, low_cat]⟩

theorem trap (pg : BitVec 3) (c : BitVec 12) : Statement (.trap pg c) := fun _ => ⟨_, rfl, by
  simp [decodeRow, decode1F, fld_ofNat, fldN_cat_hi, ofNat_cat, fldN_zero]⟩

theorem bkpt (pg : BitVec 3) : Statement (.bkpt pg) := fun _ => ⟨_, rfl, by
  simp [decodeRow, decode1F, fld_ofNat, fldN_cat_hi, ofNat_cat, fldN_zero, fldN_cat_in, ofNat_cat_in, ofNat_eq_low, low_cat]⟩

theorem rte (pg : BitVec 3) : Statement (.rte pg) := fun _ => ⟨_, rfl, by
  simp [decodeRow, decode1F, fld_ofNat, fldN_cat_hi, ofNat_cat, fldN_zero, fldN_cat_in, ofNat_cat_in, ofNat_eq_low, low_cat]⟩

theorem wfi (pg : BitVec 3) : Statement (.wfi pg) := fun _ => ⟨_, rfl, by
  simp [decodeRow, decode1F, fld_ofNat, fldN_cat_hi, ofNat_cat, fldN_zero, fldN_cat_in, ofNat_cat_in, ofNat_eq_low, low_cat]⟩

theorem rdts (pg : BitVec 3) (d s : BitVec 7) : Statement (.rdts pg d s) := fun _ => ⟨_, rfl, by
  simp [decodeRow, decode1F, fld_ofNat, fldN_cat_hi, ofNat_cat, fldN_zero, fldN_cat_in, ofNat_cat_in, ofNat_eq_low, low_cat]⟩

theorem wrts (pg : BitVec 3) (d s : BitVec 7) : Statement (.wrts pg d s) := fun _ => ⟨_, rfl, by
  simp [decodeRow, decode1F, fld_ofNat, fldN_cat_hi, ofNat_cat, fldN_zero, fldN_cat_in, ofNat_cat_in, ofNat_eq_low, low_cat]⟩

theorem resume (pg : BitVec 3) (d : BitVec 7) (n : BitVec 3) : Statement (.resume pg d n) := fun _ => ⟨_, rfl, by
  simp [decodeRow, decode1F, fld_ofNat, fldN_cat_hi, ofNat_cat, fldN_zero, fldN_cat_in, ofNat_cat_in, ofNat_eq_low, low_cat]⟩

theorem bra (pg : BitVec 3) (o : BitVec 23) : Statement (.bra pg o) := fun _ => ⟨_, rfl, by
  simp [decodeRow, decode20, fld_ofNat, fldN_cat_hi, ofNat_cat, fldN_zero]⟩

theorem call (pg : BitVec 3) (o : BitVec 23) : Statement (.call pg o) := fun _ => ⟨_, rfl, by
  simp [decodeRow, decode21, fld_ofNat, fldN_cat_hi, ofNat_cat, fldN_zero]⟩

theorem brx (pg x : BitVec 3) : Statement (.brx pg x) := fun _ => ⟨_, rfl, by
  simp [decodeRow, decode22, fld_ofNat, fldN_cat_hi, ofNat_cat, fldN_zero]⟩

theorem callx (pg x : BitVec 3) : Statement (.callx pg x) := fun _ => ⟨_, rfl, by
  simp [decodeRow, decode22, fld_ofNat, fldN_cat_hi, ofNat_cat, fldN_zero]⟩

theorem ret (pg : BitVec 3) : Statement (.ret pg) := fun _ => ⟨_, rfl, by
  simp [decodeRow, decode22, fld_ofNat, fldN_cat_hi, ofNat_cat, fldN_zero, fldN_cat_in, ofNat_cat_in, ofNat_eq_low, low_cat]⟩

theorem exit (pg : BitVec 3) : Statement (.exit pg) := fun _ => ⟨_, rfl, by
  simp [decodeRow, decode22, fld_ofNat, fldN_cat_hi, ofNat_cat, fldN_zero, fldN_cat_in, ofNat_cat_in, ofNat_eq_low, low_cat]⟩

theorem jarm (pg : BitVec 3) (j : BitVec 4) : Statement (.jarm pg j) := fun _ => ⟨_, rfl, by
  simp [decodeRow, decode23, fld_ofNat, fldN_cat_hi, ofNat_cat, fldN_zero]⟩

theorem jdis (pg : BitVec 3) (j : BitVec 4) : Statement (.jdis pg j) := fun _ => ⟨_, rfl, by
  simp [decodeRow, decode23, fld_ofNat, fldN_cat_hi, ofNat_cat, fldN_zero]⟩

theorem join (pg : BitVec 3) (j : BitVec 4) : Statement (.join pg j) := fun _ => ⟨_, rfl, by
  simp [decodeRow, decode23, fld_ofNat, fldN_cat_hi, ofNat_cat, fldN_zero]⟩

theorem jtest (pg q : BitVec 3) (j : BitVec 4) : Statement (.jtest pg q j) := fun _ => ⟨_, rfl, by
  simp [decodeRow, decode23, fld_ofNat, fldN_cat_hi, ofNat_cat, fldN_zero]⟩

theorem shflIdx (pg : BitVec 3) (d a b : BitVec 7) : Statement (.shflIdx pg d a b) := fun _ => ⟨_, rfl, by
  simp [decodeRow, decode24, fld_ofNat, fldN_cat_hi, ofNat_cat, fldN_zero]⟩

theorem shflUp (pg : BitVec 3) (d a o : BitVec 7) : Statement (.shflUp pg d a o) := fun _ => ⟨_, rfl, by
  simp [decodeRow, decode24, fld_ofNat, fldN_cat_hi, ofNat_cat, fldN_zero]⟩

theorem shflDn (pg : BitVec 3) (d a o : BitVec 7) : Statement (.shflDn pg d a o) := fun _ => ⟨_, rfl, by
  simp [decodeRow, decode24, fld_ofNat, fldN_cat_hi, ofNat_cat, fldN_zero]⟩

theorem shflXor (pg : BitVec 3) (d a o : BitVec 7) : Statement (.shflXor pg d a o) := fun _ => ⟨_, rfl, by
  simp [decodeRow, decode24, fld_ofNat, fldN_cat_hi, ofNat_cat, fldN_zero]⟩

theorem voteAll (pg q s : BitVec 3) : Statement (.voteAll pg q s) := fun _ => ⟨_, rfl, by
  simp [decodeRow, decode25, fld_ofNat, fldN_cat_hi, ofNat_cat, fldN_zero]⟩

theorem voteAny (pg q s : BitVec 3) : Statement (.voteAny pg q s) := fun _ => ⟨_, rfl, by
  simp [decodeRow, decode25, fld_ofNat, fldN_cat_hi, ofNat_cat, fldN_zero]⟩

theorem ballot (pg : BitVec 3) (d : BitVec 7) (s : BitVec 3) : Statement (.ballot pg d s) := fun _ => ⟨_, rfl, by
  simp [decodeRow, decode25, fld_ofNat, fldN_cat_hi, ofNat_cat, fldN_zero]⟩

theorem matchg (pg : BitVec 3) (d a : BitVec 7) : Statement (.matchg pg d a) := fun _ => ⟨_, rfl, by
  simp [decodeRow, decode25, fld_ofNat, fldN_cat_hi, ofNat_cat, fldN_zero]⟩

theorem lred (pg : BitVec 3) (d a : BitVec 7) (o : TeamOp) : Statement (.lred pg d a o) := fun _ => ⟨_, rfl, by
  simp [decodeRow, decode26, fld_ofNat, fldN_cat_hi, ofNat_cat, fldN_zero]⟩

theorem lscan (pg : BitVec 3) (d a : BitVec 7) (e : BitVec 1) (o : TeamOp) : Statement (.lscan pg d a e o) := fun _ => ⟨_, rfl, by
  simp [decodeRow, decode26, fld_ofNat, fldN_cat_hi, ofNat_cat, fldN_zero]⟩

theorem lstep (pg : BitVec 3) (d a : BitVec 7) (h : BitVec 3) (o : TeamOp) : Statement (.lstep pg d a h o) := fun _ => ⟨_, rfl, by
  simp [decodeRow, decode26, fld_ofNat, fldN_cat_hi, ofNat_cat, fldN_zero]⟩

theorem lrank (pg : BitVec 3) (d a : BitVec 7) (m : BitVec 1) : Statement (.lrank pg d a m) := fun _ => ⟨_, rfl, by
  simp [decodeRow, decode26, fld_ofNat, fldN_cat_hi, ofNat_cat, fldN_zero]⟩

theorem keygrp (pg : BitVec 3) (a : BitVec 7) : Statement (.keygrp pg a) := fun _ => ⟨_, rfl, by
  simp [decodeRow, decode27, fld_ofNat, fldN_cat_hi, ofNat_cat, fldN_zero]⟩

theorem spawn (pg : BitVec 3) (d a b : BitVec 7) : Statement (.spawn pg d a b) := fun _ => ⟨_, rfl, by
  simp [decodeRow, decode27, fld_ofNat, fldN_cat_hi, ofNat_cat, fldN_zero, fldN_cat_in, ofNat_cat_in, ofNat_eq_low, low_cat]⟩

theorem yield (pg : BitVec 3) : Statement (.yield pg) := fun _ => ⟨_, rfl, by
  simp [decodeRow, decode27, fld_ofNat, fldN_cat_hi, ofNat_cat, fldN_zero, fldN_cat_in, ofNat_cat_in, ofNat_eq_low, low_cat]⟩

theorem sleep (pg : BitVec 3) (a : BitVec 7) : Statement (.sleep pg a) := fun _ => ⟨_, rfl, by
  simp [decodeRow, decode27, fld_ofNat, fldN_cat_hi, ofNat_cat, fldN_zero, fldN_cat_in, ofNat_cat_in, ofNat_eq_low, low_cat]⟩

theorem bar (pg : BitVec 3) (i : BitVec 4) (s : PScope) : Statement (.bar pg i s) := fun _ => ⟨_, rfl, by
  simp [decodeRow, decode28, fld_ofNat, fldN_cat_hi, ofNat_cat, fldN_zero]⟩

theorem barg (pg : BitVec 3) (s : PScope) (a : BitVec 7) : Statement (.barg pg s a) := fun _ => ⟨_, rfl, by
  simp [decodeRow, decode28, fld_ofNat, fldN_cat_hi, ofNat_cat, fldN_zero, fldN_cat_in, ofNat_cat_in, ofNat_eq_low, low_cat]⟩

theorem arrive (pg : BitVec 3) (i : BitVec 4) (s : PScope) : Statement (.arrive pg i s) := fun _ => ⟨_, rfl, by
  simp [decodeRow, decode28, fld_ofNat, fldN_cat_hi, ofNat_cat, fldN_zero, fldN_cat_in, ofNat_cat_in, ofNat_eq_low, low_cat]⟩

theorem await (pg : BitVec 3) (i : BitVec 4) : Statement (.await pg i) := fun _ => ⟨_, rfl, by
  simp [decodeRow, decode28, fld_ofNat, fldN_cat_hi, ofNat_cat, fldN_zero, fldN_cat_in, ofNat_cat_in, ofNat_eq_low, low_cat]⟩

theorem synct (pg : BitVec 3) (a : BitVec 7) : Statement (.synct pg a) := fun _ => ⟨_, rfl, by
  simp [decodeRow, decode29, fld_ofNat, fldN_cat_hi, ofNat_cat, fldN_zero]⟩

theorem ticket (pg : BitVec 3) (d : BitVec 7) (k : BitVec 4) : Statement (.ticket pg d k) := fun _ => ⟨_, rfl, by
  simp [decodeRow, decode29, fld_ofNat, fldN_cat_hi, ofNat_cat, fldN_zero]⟩

theorem evset (pg : BitVec 3) (d : BitVec 7) (n : BitVec 6) (r : BitVec 1) (k : BitVec 7) : Statement (.evset pg d n r k) := fun _ => ⟨_, rfl, by
  simp [decodeRow, decode2A, fld_ofNat, fldN_cat_hi, ofNat_cat, fldN_zero]⟩

theorem evsig (pg : BitVec 3) (d : BitVec 7) (n : BitVec 6) (r : BitVec 1) (k : BitVec 7) : Statement (.evsig pg d n r k) := fun _ => ⟨_, rfl, by
  simp [decodeRow, decode2A, fld_ofNat, fldN_cat_hi, ofNat_cat, fldN_zero]⟩

theorem evwait (pg : BitVec 3) (n : BitVec 6) : Statement (.evwait pg n) := fun _ => ⟨_, rfl, by
  simp [decodeRow, decode2A, fld_ofNat, fldN_cat_hi, ofNat_cat, fldN_zero, fldN_cat_in, ofNat_cat_in, ofNat_eq_low, low_cat]⟩

theorem evread (pg : BitVec 3) (d : BitVec 7) (n : BitVec 6) : Statement (.evread pg d n) := fun _ => ⟨_, rfl, by
  simp [decodeRow, decode2A, fld_ofNat, fldN_cat_hi, ofNat_cat, fldN_zero, fldN_cat_in, ofNat_cat_in, ofNat_eq_low, low_cat]⟩

theorem nrec (pg : BitVec 3) (d a b : BitVec 7) : Statement (.nrec pg d a b) := fun _ => ⟨_, rfl, by
  simp [decodeRow, decode2B, fld_ofNat, fldN_cat_hi, ofNat_cat, fldN_zero]⟩

theorem launch (pg : BitVec 3) (d a : BitVec 7) : Statement (.launch pg d a) := fun _ => ⟨_, rfl, by
  simp [decodeRow, decode2B, fld_ofNat, fldN_cat_hi, ofNat_cat, fldN_zero, fldN_cat_in, ofNat_cat_in, ofNat_eq_low, low_cat]⟩

theorem nflush (pg : BitVec 3) (d b : BitVec 7) : Statement (.nflush pg d b) := fun _ => ⟨_, rfl, by
  simp [decodeRow, decode2B, fld_ofNat, fldN_cat_hi, ofNat_cat, fldN_zero, fldN_cat_in, ofNat_cat_in, ofNat_eq_low, low_cat]⟩

theorem send (pg : BitVec 3) (d a b : BitVec 7) : Statement (.send pg d a b) := fun _ => ⟨_, rfl, by
  simp [decodeRow, decode2C, fld_ofNat, fldN_cat_hi, ofNat_cat, fldN_zero]⟩

theorem rpoll (pg : BitVec 3) (d a : BitVec 7) : Statement (.rpoll pg d a) := fun _ => ⟨_, rfl, by
  simp [decodeRow, decode2C, fld_ofNat, fldN_cat_hi, ofNat_cat, fldN_zero, fldN_cat_in, ofNat_cat_in, ofNat_eq_low, low_cat]⟩

theorem rwait (pg : BitVec 3) (d a : BitVec 7) : Statement (.rwait pg d a) := fun _ => ⟨_, rfl, by
  simp [decodeRow, decode2C, fld_ofNat, fldN_cat_hi, ofNat_cat, fldN_zero, fldN_cat_in, ofNat_cat_in, ofNat_eq_low, low_cat]⟩

theorem radv (pg : BitVec 3) (d a b : BitVec 7) : Statement (.radv pg d a b) := fun _ => ⟨_, rfl, by
  simp [decodeRow, decode2C, fld_ofNat, fldN_cat_hi, ofNat_cat, fldN_zero, fldN_cat_in, ofNat_cat_in, ofNat_eq_low, low_cat]⟩

theorem ld (pg : BitVec 3) (d : BitVec 7) (r : BitVec 3) (m : Am) (s : Sz) (o : BitVec 8) : Statement (.ld pg d r m s o) := fun _ => ⟨_, rfl, by
  simp [decodeRow, decode30, fld_ofNat, fldN_cat_hi, ofNat_cat, fldN_zero]⟩

theorem st (pg : BitVec 3) (d : BitVec 7) (r : BitVec 3) (m : Am) (s : Sz) (o : BitVec 8) : Statement (.st pg d r m s o) := fun _ => ⟨_, rfl, by
  simp [decodeRow, decode31, fld_ofNat, fldN_cat_hi, ofNat_cat, fldN_zero]⟩

theorem lds (pg : BitVec 3) (d : BitVec 7) (r : BitVec 3) (m : Am) (s : Sz) (o : BitVec 8) : Statement (.lds pg d r m s o) := fun _ => ⟨_, rfl, by
  simp [decodeRow, decode32, fld_ofNat, fldN_cat_hi, ofNat_cat, fldN_zero]⟩

theorem sts (pg : BitVec 3) (d : BitVec 7) (r : BitVec 3) (m : Am) (s : Sz) (o : BitVec 8) : Statement (.sts pg d r m s o) := fun _ => ⟨_, rfl, by
  simp [decodeRow, decode33, fld_ofNat, fldN_cat_hi, ofNat_cat, fldN_zero]⟩

theorem atom (pg : BitVec 3) (d : BitVec 7) (r : BitVec 3) (o : AtomOp) (b : BitVec 7) (s : AScope) : Statement (.atom pg d r o b s) := fun _ => ⟨_, rfl, by
  simp [decodeRow, decode34, fld_ofNat, fldN_cat_hi, ofNat_cat, fldN_zero]⟩

theorem atoms (pg : BitVec 3) (d : BitVec 7) (r : BitVec 3) (o : AtomOp) (b : BitVec 7) : Statement (.atoms pg d r o b) := fun _ => ⟨_, rfl, by
  simp [decodeRow, decode35, fld_ofNat, fldN_cat_hi, ofNat_cat, fldN_zero]⟩

theorem fence (pg : BitVec 3) (s : Scope) : Statement (.fence pg s) := fun _ => ⟨_, rfl, by
  simp [decodeRow, decode36, fld_ofNat, fldN_cat_hi, ofNat_cat, fldN_zero]⟩

theorem acq (pg : BitVec 3) (g : BitVec 7) (e : BitVec 6) (s : Scope) : Statement (.acq pg g e s) := fun _ => ⟨_, rfl, by
  simp [decodeRow, decode36, fld_ofNat, fldN_cat_hi, ofNat_cat, fldN_zero, fldN_cat_in, ofNat_cat_in, ofNat_eq_low, low_cat]⟩

theorem rel (pg : BitVec 3) (g : BitVec 7) (e : BitVec 6) (s : Scope) : Statement (.rel pg g e s) := fun _ => ⟨_, rfl, by
  simp [decodeRow, decode36, fld_ofNat, fldN_cat_hi, ofNat_cat, fldN_zero, fldN_cat_in, ofNat_cat_in, ofNat_eq_low, low_cat]⟩

theorem bind (pg : BitVec 3) (g : BitVec 7) (r : BitVec 3) (e : BitVec 6) : Statement (.bind pg g r e) := fun _ => ⟨_, rfl, by
  simp [decodeRow, decode36, fld_ofNat, fldN_cat_hi, ofNat_cat, fldN_zero, fldN_cat_in, ofNat_cat_in, ofNat_eq_low, low_cat]⟩

theorem unbind (pg : BitVec 3) (e : BitVec 6) : Statement (.unbind pg e) := fun _ => ⟨_, rfl, by
  simp [decodeRow, decode36, fld_ofNat, fldN_cat_hi, ofNat_cat, fldN_zero, fldN_cat_in, ofNat_cat_in, ofNat_eq_low, low_cat]⟩

theorem pref (pg r : BitVec 3) (m : Am) (o : BitVec 8) : Statement (.pref pg r m o) := fun _ => ⟨_, rfl, by
  simp [decodeRow, decode37, fld_ofNat, fldN_cat_hi, ofNat_cat, fldN_zero]⟩

theorem cinv (pg r : BitVec 3) (m : Am) (o : BitVec 8) : Statement (.cinv pg r m o) := fun _ => ⟨_, rfl, by
  simp [decodeRow, decode37, fld_ofNat, fldN_cat_hi, ofNat_cat, fldN_zero]⟩

theorem cwb (pg r : BitVec 3) (m : Am) (o : BitVec 8) : Statement (.cwb pg r m o) := fun _ => ⟨_, rfl, by
  simp [decodeRow, decode37, fld_ofNat, fldN_cat_hi, ofNat_cat, fldN_zero]⟩

theorem tdset (pg : BitVec 3) (h : BitVec 8) (g : BitVec 7) (w : BitVec 4) : Statement (.tdset pg h g w) := fun _ => ⟨_, rfl, by
  simp [decodeRow, decode38, fld_ofNat, fldN_cat_hi, ofNat_cat, fldN_zero]⟩

theorem tdget (pg : BitVec 3) (h : BitVec 8) (g : BitVec 7) (w : BitVec 4) : Statement (.tdget pg h g w) := fun _ => ⟨_, rfl, by
  simp [decodeRow, decode38, fld_ofNat, fldN_cat_hi, ofNat_cat, fldN_zero]⟩

theorem tdld (pg : BitVec 3) (h : BitVec 8) (g : BitVec 7) : Statement (.tdld pg h g) := fun _ => ⟨_, rfl, by
  simp [decodeRow, decode38, fld_ofNat, fldN_cat_hi, ofNat_cat, fldN_zero, fldN_cat_in, ofNat_cat_in, ofNat_eq_low, low_cat]⟩

theorem tdinv (pg : BitVec 3) (h : BitVec 8) : Statement (.tdinv pg h) := fun _ => ⟨_, rfl, by
  simp [decodeRow, decode38, fld_ofNat, fldN_cat_hi, ofNat_cat, fldN_zero, fldN_cat_in, ofNat_cat_in, ofNat_eq_low, low_cat]⟩

theorem cp (pg : BitVec 3) (d s : BitVec 8) : Statement (.cp pg d s) := fun _ => ⟨_, rfl, by
  simp [decodeRow, decode39, fld_ofNat, fldN_cat_hi, ofNat_cat, fldN_zero]⟩

theorem cpc (pg : BitVec 3) (d s : BitVec 8) : Statement (.cpc pg d s) := fun _ => ⟨_, rfl, by
  simp [decodeRow, decode39, fld_ofNat, fldN_cat_hi, ofNat_cat, fldN_zero]⟩

theorem cpz (pg : BitVec 3) (d : BitVec 8) : Statement (.cpz pg d) := fun _ => ⟨_, rfl, by
  simp [decodeRow, decode39, fld_ofNat, fldN_cat_hi, ofNat_cat, fldN_zero, fldN_cat_in, ofNat_cat_in, ofNat_eq_low, low_cat]⟩

theorem cpseal (pg : BitVec 3) (d : BitVec 7) : Statement (.cpseal pg d) := fun _ => ⟨_, rfl, by
  simp [decodeRow, decode3A, fld_ofNat, fldN_cat_hi, ofNat_cat, fldN_zero]⟩

theorem cpwait (pg : BitVec 3) (s : BitVec 7) : Statement (.cpwait pg s) := fun _ => ⟨_, rfl, by
  simp [decodeRow, decode3A, fld_ofNat, fldN_cat_hi, ofNat_cat, fldN_zero]⟩

theorem cptest (pg : BitVec 3) (d : BitVec 7) : Statement (.cptest pg d) := fun _ => ⟨_, rfl, by
  simp [decodeRow, decode3A, fld_ofNat, fldN_cat_hi, ofNat_cat, fldN_zero]⟩

theorem mma (pg : BitVec 3) (a b : BitVec 8) (n : BitVec 4) : Statement (.mma pg a b n) := fun _ => ⟨_, rfl, by
  simp [decodeRow, decode3B, fld_ofNat, fldN_cat_hi, ofNat_cat, fldN_zero]⟩

theorem mmas (pg : BitVec 3) (a b : BitVec 8) (n : BitVec 4) : Statement (.mmas pg a b n) := fun _ => ⟨_, rfl, by
  simp [decodeRow, decode3B, fld_ofNat, fldN_cat_hi, ofNat_cat, fldN_zero]⟩

theorem mmab (pg : BitVec 3) (a b : BitVec 8) (n : BitVec 4) : Statement (.mmab pg a b n) := fun _ => ⟨_, rfl, by
  simp [decodeRow, decode3B, fld_ofNat, fldN_cat_hi, ofNat_cat, fldN_zero]⟩

theorem mmam (pg : BitVec 3) (a b : BitVec 8) (n : BitVec 4) : Statement (.mmam pg a b n) := fun _ => ⟨_, rfl, by
  simp [decodeRow, decode3B, fld_ofNat, fldN_cat_hi, ofNat_cat, fldN_zero]⟩

theorem mmaz (pg : BitVec 3) (a b : BitVec 8) (n : BitVec 4) : Statement (.mmaz pg a b n) := fun _ => ⟨_, rfl, by
  simp [decodeRow, decode3B, fld_ofNat, fldN_cat_hi, ofNat_cat, fldN_zero]⟩

theorem dmma (pg : BitVec 3) (a b : BitVec 8) (n : BitVec 4) : Statement (.dmma pg a b n) := fun _ => ⟨_, rfl, by
  simp [decodeRow, decode3B, fld_ofNat, fldN_cat_hi, ofNat_cat, fldN_zero]⟩

theorem accz (pg : BitVec 3) (n : BitVec 4) : Statement (.accz pg n) := fun _ => ⟨_, rfl, by
  simp [decodeRow, decode3C, fld_ofNat, fldN_cat_hi, ofNat_cat, fldN_zero]⟩

theorem accld (pg : BitVec 3) (s : BitVec 8) (n : BitVec 4) : Statement (.accld pg s n) := fun _ => ⟨_, rfl, by
  simp [decodeRow, decode3C, fld_ofNat, fldN_cat_hi, ofNat_cat, fldN_zero]⟩

theorem accst (pg : BitVec 3) (d : BitVec 8) (n : BitVec 4) : Statement (.accst pg d n) := fun _ => ⟨_, rfl, by
  simp [decodeRow, decode3C, fld_ofNat, fldN_cat_hi, ofNat_cat, fldN_zero]⟩

theorem accrd (pg : BitVec 3) (d c : BitVec 7) (n : BitVec 4) : Statement (.accrd pg d c n) := fun _ => ⟨_, rfl, by
  simp [decodeRow, decode3C, fld_ofNat, fldN_cat_hi, ofNat_cat, fldN_zero]⟩

theorem accwr (pg : BitVec 3) (s c : BitVec 7) (n : BitVec 4) : Statement (.accwr pg s c n) := fun _ => ⟨_, rfl, by
  simp [decodeRow, decode3C, fld_ofNat, fldN_cat_hi, ofNat_cat, fldN_zero]⟩

theorem ownv (pg : BitVec 3) (n : BitVec 4) : Statement (.ownv pg n) := fun _ => ⟨_, rfl, by
  simp [decodeRow, decode3C, fld_ofNat, fldN_cat_hi, ofNat_cat, fldN_zero]⟩

theorem ownm (pg : BitVec 3) (n : BitVec 4) : Statement (.ownm pg n) := fun _ => ⟨_, rfl, by
  simp [decodeRow, decode3C, fld_ofNat, fldN_cat_hi, ofNat_cat, fldN_zero]⟩

theorem accpsn (pg : BitVec 3) (s c : BitVec 7) (n : BitVec 4) : Statement (.accpsn pg s c n) := fun _ => ⟨_, rfl, by
  simp [decodeRow, decode3C, fld_ofNat, fldN_cat_hi, ofNat_cat, fldN_zero]⟩

theorem scout (pg : BitVec 3) (s q : BitVec 8) : Statement (.scout pg s q) := fun _ => ⟨_, rfl, by
  simp [decodeRow, decode3D, fld_ofNat, fldN_cat_hi, ofNat_cat, fldN_zero]⟩

theorem dodge (pg : BitVec 3) (s : BitVec 8) (t : BitVec 7) (k : BitVec 3) : Statement (.dodge pg s t k) := fun _ => ⟨_, rfl, by
  simp [decodeRow, decode3D, fld_ofNat, fldN_cat_hi, ofNat_cat, fldN_zero, fldN_cat_in, ofNat_cat_in, ofNat_eq_low, low_cat]⟩

theorem chset (pg : BitVec 3) (h : BitVec 8) : Statement (.chset pg h) := fun _ => ⟨_, rfl, by
  simp [decodeRow, decode3E, fld_ofNat, fldN_cat_hi, ofNat_cat, fldN_zero]⟩

theorem chain (pg : BitVec 3) (d s : BitVec 8) : Statement (.chain pg d s) := fun _ => ⟨_, rfl, by
  simp [decodeRow, decode3E, fld_ofNat, fldN_cat_hi, ofNat_cat, fldN_zero, fldN_cat_in, ofNat_cat_in, ofNat_eq_low, low_cat]⟩

theorem chain2 (pg : BitVec 3) (d s : BitVec 8) : Statement (.chain2 pg d s) := fun _ => ⟨_, rfl, by
  simp [decodeRow, decode3E, fld_ofNat, fldN_cat_hi, ofNat_cat, fldN_zero, fldN_cat_in, ofNat_cat_in, ofNat_eq_low, low_cat]⟩

theorem hx (e : BitVec 23) : Statement (.hx e) := fun _ => ⟨_, rfl, by
  simp [decodeRow, decode3F, fld_ofNat, fldN_cat_hi, ofNat_cat, fldN_zero]⟩

theorem hm (n s : BitVec 1) (r : BitVec 3) (c : BitVec 2) : Statement (.hm n s r c) := fun _ => ⟨_, rfl, by
  simp [decodeRow, decode3F, fld_ofNat, fldN_cat_hi, ofNat_cat, fldN_zero]⟩

theorem he (g : BitVec 1) (k : BitVec 3) (m v : BitVec 1) (e : BitVec 6) (t : BitVec 8) : Statement (.he g k m v e t) := fun _ => ⟨_, rfl, by
  simp [decodeRow, decode3F, fld_ofNat, fldN_cat_hi, ofNat_cat, fldN_zero]⟩

theorem hs (h : BitVec 7) (r k : BitVec 1) : Statement (.hs h r k) := fun _ => ⟨_, rfl, by
  simp [decodeRow, decode3F, fld_ofNat, fldN_cat_hi, ofNat_cat, fldN_zero]⟩

theorem interrupt (n src : Nat) : Statement (.interrupt n src) := by intro h; cases h

theorem partitionStopped (p : Nat) : Statement (.partitionStopped p) := by intro h; cases h

theorem formationCycle (x c : Nat) : Statement (.formationCycle x c) := by intro h; cases h

theorem threadSplit (t : Tid) : Statement (.threadSplit t) := by intro h; cases h

theorem teamInstanceExecute (x c blk team : Nat) : Statement (.teamInstanceExecute x c blk team) := by intro h; cases h

theorem sleepExpiry (t : Tid) : Statement (.sleepExpiry t) := by intro h; cases h

theorem loadReturn (x id : Nat) : Statement (.loadReturn x id) := by intro h; cases h

theorem storeAcknowledge (x id : Nat) : Statement (.storeAcknowledge x id) := by intro h; cases h

theorem logicalTimeTick (core : Nat) : Statement (.logicalTimeTick core) := by intro h; cases h

theorem logicalTimeRaise (die : Nat) : Statement (.logicalTimeRaise die) := by intro h; cases h

theorem l1Sweep (core : Nat) : Statement (.l1Sweep core) := by intro h; cases h

theorem l2Sweep (die slice : Nat) : Statement (.l2Sweep die slice) := by intro h; cases h

theorem memoryFill (line : Nat) (victim : Option Nat) (req : Nat) (ac : Bool) : Statement (.memoryFill line victim req ac) := by intro h; cases h

theorem reads (line r : Nat) : Statement (.reads line r) := by intro h; cases h

theorem readown (line r : Nat) : Statement (.readown line r) := by intro h; cases h

theorem upgrade (line r : Nat) : Statement (.upgrade line r) := by intro h; cases h

theorem evictc (line r : Nat) : Statement (.evictc line r) := by intro h; cases h

theorem writeback (line r : Nat) : Statement (.writeback line r) := by intro h; cases h

theorem fwds (line r : Nat) : Statement (.fwds line r) := by intro h; cases h

theorem fwdown (line r : Nat) : Statement (.fwdown line r) := by intro h; cases h

theorem inv (line r : Nat) : Statement (.inv line r) := by intro h; cases h

theorem grantm (line r : Nat) : Statement (.grantm line r) := by intro h; cases h

theorem flitReplay (a b : Nat) : Statement (.flitReplay a b) := by intro h; cases h

theorem linkDown (a b via : Nat) : Statement (.linkDown a b via) := by intro h; cases h

theorem hostSnoop (line : Nat) : Statement (.hostSnoop line) := by intro h; cases h

theorem hostMemoryAccess (addr n : Nat) (wr : Option (List Byte)) : Statement (.hostMemoryAccess addr n wr) := by intro h; cases h

theorem ringAppend (id : Nat) : Statement (.ringAppend id) := by intro h; cases h

theorem pageWalk (die sid : Nat) (va : BitVec 64) (acc : Acc) : Statement (.pageWalk die sid va acc) := by intro h; cases h

theorem faultRecordWrite (p : Nat) : Statement (.faultRecordWrite p) := by intro h; cases h

theorem operandLogReplay (x id : Nat) : Statement (.operandLogReplay x id) := by intro h; cases h

theorem scratchpadPageFault (x c bs vpn : Nat) : Statement (.scratchpadPageFault x c bs vpn) := by intro h; cases h

theorem pageFillComplete (x c bs vpn : Nat) : Statement (.pageFillComplete x c bs vpn) := by intro h; cases h

theorem writeOutAck (x c bs vpn : Nat) : Statement (.writeOutAck x c bs vpn) := by intro h; cases h

theorem blockMigrate (x c bs dst : Nat) : Statement (.blockMigrate x c bs dst) := by intro h; cases h

theorem engineStep (x c : Nat) (q : EngQ) : Statement (.engineStep x c q) := by intro h; cases h

theorem stepRetire (x c : Nat) (q : EngQ) : Statement (.stepRetire x c q) := by intro h; cases h

theorem copyBatchComplete (t : Tid) : Statement (.copyBatchComplete t) := by intro h; cases h

theorem gangArrival (x c : Nat) : Statement (.gangArrival x c) := by intro h; cases h

theorem launchRecordRead (x q : Nat) : Statement (.launchRecordRead x q) := by intro h; cases h

theorem blockPlace (p : Nat) : Statement (.blockPlace p) := by intro h; cases h

theorem priorityWaitExpiry (p q : Nat) : Statement (.priorityWaitExpiry p q) := by intro h; cases h

theorem blockRetire (x c bs : Nat) : Statement (.blockRetire x c bs) := by intro h; cases h

theorem launchComplete (x l : Nat) : Statement (.launchComplete x l) := by intro h; cases h

theorem binTimerExpiry (x bin : Nat) : Statement (.binTimerExpiry x bin) := by intro h; cases h

theorem doorbell (x q : Nat) (addr : BitVec 64) : Statement (.doorbell x q addr) := by intro h; cases h

theorem ctxrootWrite (die off : Nat) (v : BitVec 64) : Statement (.ctxrootWrite die off v) := by intro h; cases h

theorem shoot (die : Nat) (v : BitVec 64) : Statement (.shoot die v) := by intro h; cases h

theorem shootdownComplete (die : Nat) : Statement (.shootdownComplete die) := by intro h; cases h

theorem frespRetry (p tag : Nat) : Statement (.frespRetry p tag) := by intro h; cases h

theorem frespError (p tag : Nat) : Statement (.frespError p tag) := by intro h; cases h

theorem bootstatWrite (die : Nat) (v : BitVec 64) : Statement (.bootstatWrite die v) := by intro h; cases h

theorem configWindowWrite (die off : Nat) (v : BitVec 64) : Statement (.configWindowWrite die off v) := by intro h; cases h

theorem swap (p : Nat) (abandon : Bool) : Statement (.swap p abandon) := by intro h; cases h

theorem saveComplete (p : Nat) : Statement (.saveComplete p) := by intro h; cases h

theorem fillComplete (p : Nat) : Statement (.fillComplete p) := by intro h; cases h

theorem checkpointIntervalExpiry (p : Nat) : Statement (.checkpointIntervalExpiry p) := by intro h; cases h

theorem snapshotSwap (p : Nat) : Statement (.snapshotSwap p) := by intro h; cases h

theorem checkpointCommit (p : Nat) : Statement (.checkpointCommit p) := by intro h; cases h

theorem uncorrectableError (e : ErrSite) : Statement (.uncorrectableError e) := by intro h; cases h

theorem kernelLineRestore (die line : Nat) : Statement (.kernelLineRestore die line) := by intro h; cases h

theorem selfTest (die : Nat) (f : TestOutcome) : Statement (.selfTest die f) := by intro h; cases h

theorem fatalStop : Statement (.fatalStop) := by intro h; cases h

theorem powerOn : Statement (.powerOn) := by intro h; cases h

theorem powerOff : Statement (.powerOff) := by intro h; cases h

theorem warmBoot : Statement (.warmBoot) := by intro h; cases h

theorem romBoot : Statement (.romBoot) := by intro h; cases h

theorem firmwareBringup : Statement (.firmwareBringup) := by intro h; cases h

theorem startCores : Statement (.startCores) := by intro h; cases h

theorem kernelLoad (img : Image) (loc : Nat) : Statement (.kernelLoad img loc) := by intro h; cases h

theorem mailboxStatus : Statement (.mailboxStatus) := by intro h; cases h

theorem mailboxLoad (img : Image) : Statement (.mailboxLoad img) := by intro h; cases h

theorem mailboxDump (off n : Nat) : Statement (.mailboxDump off n) := by intro h; cases h

theorem mailboxClear : Statement (.mailboxClear) := by intro h; cases h

theorem mailboxAttest (nonce : List Byte) : Statement (.mailboxAttest nonce) := by intro h; cases h

theorem powerEpoch (outside : Nat) (demand temp : List Nat) : Statement (.powerEpoch outside demand temp) := by intro h; cases h

theorem currentSurge (die : Nat) : Statement (.currentSurge die) := by intro h; cases h

theorem thermalLimit (temp : Nat) : Statement (.thermalLimit temp) := by intro h; cases h

theorem thermalShutdown (temp : Nat) : Statement (.thermalShutdown temp) := by intro h; cases h

theorem contextFill (p area : Nat) : Statement (.contextFill p area) := by intro h; cases h

theorem sendAcknowledgement (id : Nat) : Statement (.sendAcknowledgement id) := by intro h; cases h

theorem dataMessage (line r : Nat) : Statement (.dataMessage line r) := by intro h; cases h

theorem backInvalidationResponse (line : Nat) : Statement (.backInvalidationResponse line) := by intro h; cases h

theorem hdmbaseWrite (v : Nat) : Statement (.hdmbaseWrite v) := by intro h; cases h

theorem versionCounterRaise (v : Nat) : Statement (.versionCounterRaise v) := by intro h; cases h

theorem thermalRecovery (temps : List Nat) : Statement (.thermalRecovery temps) := by intro h; cases h

theorem partitionConfiguration (p : Nat) (cfg : PartCfg) : Statement (.partitionConfiguration p cfg) := by intro h; cases h

theorem queueConfiguration (x q prio : Nat) : Statement (.queueConfiguration x q prio) := by intro h; cases h

theorem checkpointEnable (p us areaA areaB : Nat) : Statement (.checkpointEnable p us areaA areaB) := by intro h; cases h

theorem accessCounterRearm (region : Nat) : Statement (.accessCounterRearm region) := by intro h; cases h

end Sys2Proof.Laws.RoundTrip
end

