-- ==== Sys2Proof/Tests/Slice0.lean ====
section
/-! SUPPORT. Sys2Proof/Tests/Slice0.lean: the model's own tests: ill-formed words, words written out from the encoding tables,
single steps, and for every obligation a state and operands that meet its hypotheses. -/

set_option maxRecDepth 20000
set_option exponentiation.threshold 1100

namespace Sys2Proof.Tests

open Sys2Proof.Machine Sys2Proof.Claims

/-! ## States -/

/-- A compute thread: slot 0 of core 0, alone in its block, in a bundle. -/
def thr : Thread :=
  { pc := 0x1000, g := [(1, 5), (2, 0xFFFFFFFF), (3, 7)], a := [(1, 0x2000)], par := { place := .bundle 0 } }

/-- Its core. -/
def core0 : CtxCore :=
  { threads := [(0, thr)], blocks := [(0, { nthr := 1, spq := 1 })], bundles := [(0, { lanes := [(0, 0)] })] }

/-- Its bank. -/
def bank0 : Ctx := { st := .active, root := { sid := 1 }, cores := [(0, core0)], nextId := 9 }

/-- A part with one partition of 64 cores that runs the bank. -/
def cpu : State :=
  { cur := .cmp 0 0 0, clock := 200, parts := [(0, { cfg := some { first := 0, count := 64, s := 0 }, active := some 0 })],
    ctxs := [(0, bank0)], boot := { stage := .run } }

/-- A control core at monitor level. -/
def ctl : State :=
  { cur := .ctl 0, clock := 200, ctl := [(0, { t := { pc := 0x1000, g := [(1, 5), (2, 7)] }, running := true })],
    parts := [(0, { cfg := some { first := 0, count := 64, s := 0 }, active := some 0 })], ctxs := [(0, bank0)],
    boot := { stage := .run } }

/-- `cpu` with its bank changed. -/
def cpuX (f : Ctx → Ctx) : State := { cpu with ctxs := [(0, f bank0)] }

/-- `cpu` with its core changed. -/
def cpuC (f : CtxCore → CtxCore) : State := cpuX fun k => { k with cores := [(0, f core0)] }

/-- `cpu` with its thread changed. -/
def cpuT (f : Thread → Thread) : State := cpuC fun k => { k with threads := [(0, f thr)] }

/-- `ctl` with its control core changed. -/
def ctlC (f : Ctl → Ctl) : State := { ctl with ctl := [(0, f (ctl.ctlAt 0))] }

/-! ## Conditions of a word -/

/-- The conditions of Runs, decided. -/
def runsB (s : State) (i : Instr) (pg : BitVec 3) (gs : List Nat) (_rs : List PReg) (hu : HintUse) (need : Level)
    (onCtl acts : Bool) : Bool :=
  i.wf && (onCtl || !isCtl s.cur) && gs.all (fun n => decide (n < s.me.alloc)) && hu.ok (pg == 7) s.me.hints &&
  decide (need.num ≤ (s.level s.cur).num) && s.me.pend.isEmpty && (acts || s.me.guard pg)

/-- Reaches from the decided conditions. -/
theorem reaches_of {s : State} {i : Instr} {pg : BitVec 3} {gs : List Nat} {rs : List PReg} {hu : HintUse} {need : Level}
    {onCtl acts : Bool} (h : runsB s i pg gs rs hu need onCtl acts = true) : s.Reaches i pg gs rs hu need onCtl := by
  simp only [runsB, Bool.and_eq_true, Bool.or_eq_true, Bool.not_eq_true', List.all_eq_true, decide_eq_true_eq,
    List.isEmpty_iff] at h
  obtain ⟨⟨⟨⟨⟨⟨a, b⟩, c⟩, d⟩, e⟩, f⟩, -⟩ := h
  exact ⟨a, b, c, d, e, by simp [f]⟩

/-- Runs from the decided conditions. -/
theorem runs_of {s : State} {i : Instr} {pg : BitVec 3} {gs : List Nat} {rs : List PReg} {hu : HintUse} {need : Level}
    {onCtl : Bool} (h : runsB s i pg gs rs hu need onCtl false = true) : s.Runs i pg gs rs hu need onCtl := by
  refine ⟨reaches_of h, ?_⟩
  simp only [runsB, Bool.and_eq_true, Bool.or_eq_true] at h
  simpa using h.2

/-- What a word names, for a list of words of one hint use. -/
abbrev Named := Instr × List Nat × List PReg

/-- Every word of a list runs in `s` under guard 7. -/
def AllRun (s : State) (hu : HintUse) (onCtl : Bool) (l : List Named) : Prop :=
  ∀ e ∈ l, s.Runs e.1 7 e.2.1 e.2.2 hu .user onCtl

/-- AllRun, decided. -/
theorem allRun_of {s : State} {hu : HintUse} {onCtl : Bool} {l : List Named}
    (h : l.all (fun e => runsB s e.1 7 e.2.1 e.2.2 hu .user onCtl false) = true) : AllRun s hu onCtl l :=
  fun e he => runs_of (by simpa using List.all_eq_true.mp h e he)

/-! ## Ill-formed words (R58, R61 to R69): one for each check of WellFormed -/

/-- Every word of the list is ill formed. -/
theorem test_ill_formed : ([.add64 7 1 2 4, .add64 7 2 1 4, .add64 7 2 4 1, .sub64 7 1 2 4, .shl64 7 1 2 3, .shr64 7 2 1 3,
    .setp64 7 0 .eq 1 2, .setp64 7 0 .eq 2 1, .lda 7 0 1, .sta 7 0 1, .setm 7 0 1, .fsetp 7 0 .eq 1 2 1, .frcp 7 1 2 .f64,
    .frsq 7 1 2 .f64, .fexp2 7 1 2 .f64, .flog2 7 1 2 .f64, .fsin 7 1 2 .f64, .fcos 7 1 2 .f64, .ftanh 7 1 2 .f64,
    .fsigm 7 1 2 .f64, .fsqrt 7 1 2 .f64, .fabs 7 2 1 .f64, .fneg 7 1 2 .f64, .frnd 7 1 2 .f64, .fclass 7 1 1 .f64,
    .dadd 7 1 2 4, .dsub 7 2 1 4, .dmul 7 2 4 1, .dfma 7 1 2 4, .dmin 7 1 2 4, .dmax 7 2 1 4, .drcpa 7 1 2, .drsqa 7 2 1,
    .cvt 7 1 2 0 .f64OfF32 0, .cvt 7 1 2 1 .f32OfI32 1, .cvt 7 1 2 0 .bxbandOfF32 1, .cvt 7 1 4 0 .e2m1x8OfF32 0,
    .rdts 7 1 2, .wrts 7 2 1, .spawn 7 1 4 2, .spawn 7 1 8 1, .barg 7 .blk 1, .evset 7 1 0 0 0, .evsig 7 0 0 1 1, .nrec 7 1 4 2,
    .launch 7 1 1, .send 7 1 2 2, .send 7 1 4 1, .ld 7 1 0 .offset .w64 0, .st 7 2 0 .offset .w128 0, .st 7 2 0 .offset .s8 0,
    .lds 7 2 0 .offset .w128 0, .sts 7 2 0 .offset .s16 0, .atom 7 1 0 .add64 2 .die, .atoms 7 2 0 .cas32 1, .atom 7 2 0 .cas64 2 .die,
    .acq 7 1 0 .die, .rel 7 1 0 .die, .bind 7 1 0 0, .tdld 7 0 1, .mma 7 0 0 8, .mmas 7 0 0 8, .mmab 7 0 0 8, .mmam 7 0 0 8,
    .mmaz 7 0 0 8, .dmma 7 0 0 8, .accz 7 8, .accld 7 0 8, .accst 7 0 8, .accrd 7 0 0 8, .accwr 7 0 0 8, .accpsn 7 0 0 8,
    .ownv 7 8, .ownm 7 8, .hm 0 0 6 0, .he 0 0 0 0 1 0] : List Instr).all (fun i => !i.wf) = true := by decide

/-- An ill-formed word does not decode (R69). -/
theorem test_ill_formed_words : ([.add64 7 1 2 4, .cvt 7 1 2 0 .f64OfF32 0, .spawn 7 1 4 2, .accz 7 8, .hm 0 0 6 0,
    .evset 7 1 0 0 0, .st 7 2 0 .offset .s8 0, .atom 7 2 0 .cas64 2 .die] : List Instr).all (fun i =>
      ((encode i).bind decode).isNone) = true := by decide

/-! ## Words of the manual (R60, R68, and the examples of the instruction chapters) -/

/-- The words of R93's, R113's and R107's example tables. -/
theorem test_words_integer_float : ([(0x33850C83, .shri 7 5 6 3), (0x3787FFFE, .movi 7 7 0xFFFE), (0x3F910C02, .setpImm 7 1 .ne 6 0),
    (0x4BB00040, .addai 7 0 64), (0x4F891010, .csrw 7 9 0x010), (0x8B800002, .ret 7), (0x8B800003, .exit 7), (0x7F80002A, .trap 7 0x2A),
    (0x7F802000, .rte 7), (0x57840A18, .ffma 7 4 5 6), (0x5BA20208, .fsetp 7 2 .lt 1 2 0), (0x5F8A1420, .fsigm 7 10 10 .f32),
    (0x5F82080A, .fsqrt 7 2 4 .f64), (0x63881433, .dfma 7 8 10 12), (0x67820002, .drcpa 7 2 0), (0x6F83020A, .hfma2 7 3 1 2),
    (0x73941044, .cvt 7 20 8 0 .bx4blkOfF32 0), (0x278E16FF, .andi 7 14 11 0xFF), (0x2389_13FF, .addi 7 9 9 0x1FF)] :
    List (BitVec 32 × Instr)).all (fun e => decide (decode e.1 = some e.2)) = true := by decide

/-- The words of the example tables of R237, R243, R249, R250 and R251. -/
theorem test_words_memory : ([(0xC3840A01, .ld 7 4 0 .postInc .w32 1), (0xC7864302, .st 7 6 2 .offset .w64 2),
    (0xCB887A12, .lds 7 8 3 .indexed .w32 0x12), (0xCF827301, .sts 7 2 3 .modulo .w64 1), (0xD3852018, .atom 7 5 1 .add32 6 .die),
    (0xD3829621, .atom 7 2 4 .cas64 8 .pkg), (0xD7875C24, .atoms 7 7 2 .incw 9), (0xDB800004, .fence 7 .die),
    (0xDB8C0426, .acq 7 12 2 .pkg), (0xDB8A0826, .rel 7 10 2 .pkg), (0xDB8A8C20, .bind 7 10 4 2), (0xDB801020, .unbind 7 2),
    (0xDF800040, .pref 7 0 .offset 64), (0xDFA0A000, .cinv 7 5 .offset 0), (0xDFC02000, .cwb 7 1 .offset 0)] :
    List (BitVec 32 × Instr)).all (fun e => decide (decode e.1 = some e.2)) = true := by decide

/-- The words of the examples of R144, R158, R146, R149, R318 and the engine chapter. -/
theorem test_words_parallel_engine : ([(0x93850923, .shflXor 7 5 4 0x48), (0xA9001404, .evset 2 0 5 0 1), (0x97870202, .ballot 7 7 1),
    (0x9F801203, .sleep 7 9), (0xA3890000, .bar 7 1 .blk), (0x7F824080, .rdts 7 2 4), (0x7F825080, .wrts 7 2 4),
    (0x7F866000, .resume 7 6 0), (0xE38483F0, .tdset 7 9 3 15), (0xE3848301, .tdget 7 9 3 0), (0xE3848602, .tdld 7 9 6),
    (0xE3848003, .tdinv 7 9), (0xE5018200, .cp 2 3 4), (0xEB940000, .cpseal 7 20), (0xEB940001, .cpwait 7 20),
    (0xEF808112, .mmab 7 1 2 2), (0xEF850583, .mmam 7 10 11 0), (0xEF8101A5, .dmma 7 2 3 4), (0xF3800018, .accz 7 3),
    (0xF383800A, .accst 7 7 1), (0xF384050B, .accrd 7 4 5 1), (0xF380000D, .ownv 7 1), (0xF78A0A80, .scout 7 20 21),
    (0xF78A0911, .dodge 7 20 9 2), (0xFB878000, .chset 7 15), (0xFB860682, .chain2 7 12 13), (0xED000084, .mmaz 2 0 1 0),
    (0xFC000001, .hx 1), (0xFCC00000, .hm 1 0 0 0), (0xFD022800, .he 0 0 0 1 5 0)] :
    List (BitVec 32 × Instr)).all (fun e => decide (decode e.1 = some e.2)) = true := by decide

/-- The words of major 0x01, 0x02, 0x03 and 0x04, bit by bit from R58 and R64: MAJOR PG D A B F. -/
theorem test_words_format_a :
    decode 0b000001_111_0000011_0000001_0000010_00#32 = some (.add 7 3 1 2) ∧
    decode 0b000010_010_0000011_0000001_0000010_11#32 = some (.andn 2 3 1 2) ∧
    decode 0b000011_111_0000011_0000001_0000010_10#32 = some (.sar 7 3 1 2) ∧
    decode 0b000100_111_0000011_0000001_0000010_11#32 = some (.mad 7 3 1 2) := by decide

/-- Reserved majors (R69). -/
theorem test_reserved_majors : ([0x00000000, 0x7B800000, 0xB7800000, 0xBB800000, 0xBF800000] : List (BitVec 32)).all
    (fun w => (decode w).isNone) = true := by decide

/-- LD's word as its four bytes, lowest address first (R57). -/
theorem test_bytes : decodeBytes [0x00, 0x22, 0x04, 0xC1] = some (.ld 2 4 1 .offset .w32 0) := by decide

/-- A table word is laid out and decoded (R57). -/
theorem test_table_word : decodeTableWord 32 0x33850C83 = some (.shri 7 5 6 3) := by decide

/-! ## Witnesses of the obligations about words on registers -/

/-- Obligations.IntegerArithmetic. -/
theorem test_witness_IntegerArithmetic :
    AllRun cpu { sat := true } true [(.add 7 3 1 2, [3, 1, 2], []), (.sub 7 3 1 2, [3, 1, 2], []), (.mul 7 3 1 2, [3, 1, 2], []),
      (.mad 7 3 1 2, [3, 1, 2], [])] ∧
    AllRun cpu { sat := false } true [(.addc 7 3 1 2, [3, 1, 2], []), (.subb 7 3 1 2, [3, 1, 2], []), (.mulhu 7 3 1 2, [3, 1, 2], []),
      (.mulhs 7 3 1 2, [3, 1, 2], []), (.min 7 3 1 2, [3, 1, 2], []), (.max 7 3 1 2, [3, 1, 2], []), (.minu 7 3 1 2, [3, 1, 2], []),
      (.maxu 7 3 1 2, [3, 1, 2], [])] ∧
    (cpuT fun t => { t with hints := { hm := some 0x200000 } }).Runs (.add 7 127 127 0) 7 [127, 127, 0] [] { sat := true } ∧
    cpu.me.hints.sat = false :=
  ⟨allRun_of (by decide), allRun_of (by decide), runs_of (by decide), by decide⟩

/-- Obligations.BitCounts, with the greatest register. -/
theorem test_witness_BitCounts : AllRun cpu {} true [(.clz 7 127 0, [127, 0], []), (.popc 7 0 127, [0, 127], []),
    (.brev 7 127 1, [127, 1], []), (.abs 7 0 2, [0, 2], [])] ∧
    (cpuT fun t => { t with hints := { hm := some 0x200000 } }).me.hints.sat = true := ⟨allRun_of (by decide), by decide⟩

/-- Obligations.PairArithmetic. -/
theorem test_witness_PairArithmetic : AllRun cpu {} true [(.add64 7 4 6 8, [4, 5, 6, 7, 8, 9], []),
    (.sub64 7 126 0 2, [126, 127, 0, 1, 2, 3], []), (.shl64 7 4 6 1, [4, 5, 6, 7, 1], []), (.shr64 7 4 6 1, [4, 5, 6, 7, 1], [])] ∧
    (1 : BitVec 7).toNat % 2 = 1 := ⟨allRun_of (by decide), by decide⟩

/-- Obligations.LogicAndShifts. -/
theorem test_witness_LogicAndShifts : AllRun cpu {} true [(.and 7 3 1 2, [3, 1, 2], []), (.or 7 3 1 2, [3, 1, 2], []),
    (.xor 7 3 1 2, [3, 1, 2], []), (.andn 7 3 1 2, [3, 1, 2], []), (.shl 7 3 1 2, [3, 1, 2], []), (.shr 7 3 1 2, [3, 1, 2], []),
    (.sar 7 3 1 2, [3, 1, 2], []), (.rotr 7 3 1 2, [3, 1, 2], []), (.shli 7 3 1 31, [3, 1], []), (.shri 7 3 1 0, [3, 1], []),
    (.sari 7 3 1 31, [3, 1], []), (.rotri 7 3 1 31, [3, 1], [])] ∧
    (cpuT fun t => { t with hints := { hx := some 1 } }).me.hints.hx ≠ none := ⟨allRun_of (by decide), by decide⟩

/-- Obligations.Immediates, with a pending HX too. -/
theorem test_witness_Immediates :
    AllRun cpu { hx := true, sat := true } true [(.addi 7 3 1 0x1FF, [3, 1], [])] ∧
    AllRun (cpuT fun t => { t with hints := { hx := some 1 } }) { hx := true, sat := false } true [(.andi 7 3 1 0, [3, 1], []),
      (.ori 7 3 1 0x100, [3, 1], []), (.xori 7 3 1 1, [3, 1], [])] ∧
    AllRun cpu { hx := true } true [(.movi 7 3 0xFFFE, [3], [])] :=
  ⟨allRun_of (by decide), allRun_of (by decide), allRun_of (by decide)⟩

/-- Obligations.BitFieldsAndBytes. -/
theorem test_witness_BitFieldsAndBytes : AllRun cpu {} true [(.bfeu 7 3 1 2, [3, 1, 2], []), (.bfe 7 3 1 2, [3, 1, 2], []),
    (.bfi 7 3 1 2, [3, 1, 2], []), (.prmt 7 3 1 2, [3, 1, 2], [])] := allRun_of (by decide)

/-- Obligations.PredicatesAndSelect, with the predicate that discards. -/
theorem test_witness_PredicatesAndSelect : AllRun cpu {} true [(.setp 7 7 .ltu 1 2, [1, 2], [.p 7]),
    (.setp64 7 0 .ge 2 4, [2, 3, 4, 5], [.p 0]), (.setpImm 7 6 .eq 1 127, [1], [.p 6]), (.plop 7 1 2 7 0xF, [], [.p 1, .p 2, .p 7]),
    (.sel 7 3 1 2 3, [3, 1, 2], [.p 3])] := allRun_of (by decide)

/-- Obligations.TileMasks. -/
theorem test_witness_TileMasks : AllRun cpu {} true [(.knext 7 3 7 1, [3, 1], [.k 7]), (.kpop 7 3 0, [3], [.k 0]),
    (.kget 7 3 1 1, [3, 1], [.k 1]), (.kset 7 3 1 1, [3, 1], [.k 1])] := allRun_of (by decide)

/-- Obligations.AddressRegisters. -/
theorem test_witness_AddressRegisters : AllRun cpu {} true [(.lda 7 7 126, [126, 127], [.a 7]), (.sta 7 1 4, [4, 5], [.a 1]),
    (.adda 7 1 2, [2], [.a 1]), (.setm 7 1 4, [4, 5], [.m 1]), (.clrm 7 0, [], [.m 0])] ∧
    AllRun cpu { hx := true } true [(.addai 7 0 0x200, [], [.a 0])] := ⟨allRun_of (by decide), allRun_of (by decide)⟩

/-- Obligations.BranchesAndCalls: a canonical target, one that is not, one that is misaligned. -/
theorem test_witness_BranchesAndCalls : AllRun cpu { hx := true } true [(.bra 7 1, [], []), (.call 7 0x7FFFFF, [], [.a 7])] ∧
    AllRun cpu {} true [(.brx 7 1, [], [.a 1]), (.callx 7 1, [], [.a 1, .a 7]), (.ret 7, [], [.a 7])] ∧
    cpu.me.ar 1 = ((cpu.me.ar 1).setWidth 57).signExtend 64 ∧ (cpu.me.ar 1).extractLsb' 0 2 = 0#2 ∧
    (2 ^ 60 : Dword) ≠ ((2 ^ 60 : Dword).setWidth 57).signExtend 64 ∧ (1 : Dword) = ((1 : Dword).setWidth 57).signExtend 64 ∧
    (1 : Dword).extractLsb' 0 2 ≠ 0#2 := ⟨allRun_of (by decide), allRun_of (by decide), by decide⟩

/-- Obligations.HintWords: an empty and a full slot of each kind. -/
theorem test_witness_HintWords :
    cpu.me.hints.hx = none ∧ cpu.me.hints.hm = none ∧ (5 : BitVec 3).toNat < 6 ∧ 6 ≤ (6 : BitVec 3).toNat ∧ cpu.me.hints.he = none ∧
    cpu.me.hints.hs = none ∧ (let h := (cpuT fun t => { t with hints := { hx := some 0, hm := some 0, he := some 0, hs := some 0 } }).me.hints
      h.hx ≠ none ∧ h.hm ≠ none ∧ h.he ≠ none ∧ h.hs ≠ none) ∧ ((0 : BitVec 1) = 0 ∧ (1 : BitVec 6) ≠ 0) := by decide

/-- Obligations.CsrWords: a user CSR, a kernel CSR, a value that is refused, an unassigned number, a read-only one. -/
theorem test_witness_CsrWords :
    cpu.Runs (.csrr 7 3 0x010) 7 [3] [] {} (csrLevel 0x010) ∧ csrAssigned 0x010 = true ∧
    ctl.Runs (.csrw 7 2 0x100) 7 [2] [] {} (csrLevel 0x100) ∧ csrAssigned 0x100 = true ∧ csrUserRo 0x100 = false ∧
    (ctl.csrWrite ctl.cur 0x100 7 = none ∨ (ctl.csrWrite ctl.cur 0x100 7).isSome = true) ∧
    (cpu.csrWrite cpu.cur 0x010 5).isNone = true ∧ (cpu.csrWrite cpu.cur 0x010 4).isSome = true ∧
    csrAssigned 0x0FF = false ∧ csrUserRo 0x000 = true :=
  ⟨runs_of (by decide), by decide, runs_of (by decide), by decide, by decide, by decide, by decide, by decide, by decide, by decide⟩

/-- Obligations.UserCsrValues and Obligations.TrapCsrs: accepted writes. -/
theorem test_witness_UserCsrValues_TrapCsrs :
    ([0x010, 0x011, 0x012, 0x029].all fun n => (cpu.csrWrite cpu.cur n 1).isSome) = true ∧
    ([0x018, 0x019, 0x020].all fun n => (cpu.csrWrite cpu.cur n 1).isSome) = true ∧
    ([0x100, 0x180].all fun b => (List.range 12).all fun r => ((ctl.ctlAt 0).setCsr (b + r) 0x40).isSome) = true := by decide

/-! ## Traps, interrupts, return -/

/-- Obligations.OrderOfChecks: a register beyond the allocation, hints that do not apply, a false guard. -/
theorem test_witness_OrderOfChecks :
    (let s := cpuT fun t => { t with alloc := 16 }
     s.me.alloc ≤ (16 : BitVec 7).toNat) ∧
    (let h := (cpuT fun t => { t with hints := { hx := some 0, he := some 0, hm := some 0x600000 } }).me.hints
     h.hx ≠ none ∧ h.he ≠ none ∧ h.sat = true ∧ h.neg = true) ∧
    (3 : BitVec 7).toNat < cpu.me.alloc ∧ cpu.me.hints = {} ∧ cpu.me.pend = [] ∧ cpu.me.guard 0 = false := by decide

/-- Obligations.PrivilegedWords: a compute thread, and a control core at user level. -/
theorem test_witness_PrivilegedWords : (2 : BitVec 7).toNat % 2 = 0 ∧ (2 : BitVec 7).toNat + 4 ≤ cpu.me.alloc ∧ cpu.me.hints = {} ∧
    cpu.level cpu.cur = .user ∧ (let s := ctlC fun c => { c with pl := .user }
      s.level s.cur = .user ∧ (2 : BitVec 7).toNat + 4 ≤ s.me.alloc) := by decide

/-- Obligations.TrapEntry: every case of the entry level. -/
theorem test_witness_TrapEntry : (ctl.ctlAt 0).pl = .monitor ∧ (ctl.ctlAt 0).mset.intrap = false ∧
    (let c := (ctlC fun c => { c with pl := .kernel }).ctlAt 0
     c.pl = .kernel ∧ c.kset.intrap = false) ∧
    (let c := (ctlC fun c => { c with pl := .kernel, kset := { c.kset with intrap := true } }).ctlAt 0
     c.pl = .kernel ∧ c.kset.intrap = true) ∧
    (let c := (ctlC fun c => { c with pl := .user }).ctlAt 0
     c.pl = .user) ∧
    (let c := (ctlC fun c => { c with mset := { c.mset with intrap := true } }).ctlAt 0
     c.pl = .monitor ∧ c.mset.intrap = true) ∧ Tid.cmp 0 0 0 ≠ .ctl 0 := by decide

/-- Obligations.TrapBreakpointAndReturn. -/
theorem test_witness_TrapBreakpointAndReturn : AllRun cpu {} true [(.trap 7 0xFFF, [], []), (.bkpt 7, [], [])] ∧
    ctl.cur = .ctl 0 ∧ ctl.Runs (.rte 7) 7 [] [] {} .kernel ∧ (ctlC fun c => { c with pl := .kernel }).Runs (.rte 7) 7 [] [] {} .kernel :=
  ⟨allRun_of (by decide), by decide, runs_of (by decide), runs_of (by decide)⟩

/-- Obligations.InterruptsAndWfi: a core that takes the interrupt, one that does not, one that an interrupt wakes. -/
theorem test_witness_InterruptsAndWfi :
    (let c := (ctlC fun c => { c with pl := .kernel, kset := { c.kset with ie := true } }).ctlAt 0
     c.irqs = [] ∧ c.kset.ie = true ∧ c.t.hints = {} ∧ c.pl ≠ .monitor) ∧
    ¬((ctl.ctlAt 0).kset.ie = true ∧ (ctl.ctlAt 0).t.hints = {} ∧ (ctl.ctlAt 0).pl ≠ .monitor) ∧
    ctl.Runs (.wfi 7) 7 [] [] {} .kernel ∧ ¬((ctl.ctlAt 0).irqs ≠ [] ∧ (ctl.ctlAt 0).pl ≠ .monitor) ∧
    (let s := ctlC fun c => { c with pl := .kernel, irqs := [14] }
     s.Runs (.wfi 7) 7 [] [] {} .kernel ∧ ((s.ctlAt 0).irqs ≠ [] ∧ (s.ctlAt 0).pl ≠ .monitor)) :=
  ⟨by decide, by decide, runs_of (by decide), by decide, runs_of (by decide), by decide⟩

/-- Obligations.ComputeTrapHalts: no halt, and a halt whose units have not stopped. -/
theorem test_witness_ComputeTrapHalts : (cpu.ctxAt 0).halt = none ∧
    (let h : Halt := { start := 0, trap := { cause := 0, tval := 0, pc := 0, unit := 0, core := 0, slot := 0, clk := 0 } }
     ((cpuX fun k => { k with halt := some h }).ctxAt 0).halt = some h ∧ h.stopped = false) := by decide

/-! ## Floating point -/

/-- Obligations.Fp32Arithmetic, Fp64Arithmetic, PackedArithmetic, SelectAndCompare. -/
theorem test_witness_Arithmetic :
    AllRun cpu { sat := true, rnd := true } true [(.fadd 7 3 1 2, [3, 1, 2], []), (.fsub 7 3 1 2, [3, 1, 2], []),
      (.fmul 7 3 1 2, [3, 1, 2], []), (.ffma 7 3 1 2, [3, 1, 2], []), (.ffms 7 3 1 2, [3, 1, 2], []),
      (.dadd 7 4 6 8, [4, 5, 6, 7, 8, 9], []), (.dsub 7 4 6 8, [4, 5, 6, 7, 8, 9], []), (.dmul 7 4 6 8, [4, 5, 6, 7, 8, 9], []),
      (.dfma 7 4 6 8, [4, 5, 6, 7, 8, 9], []), (.badd2 7 3 1 2, [3, 1, 2], []), (.bmul2 7 3 1 2, [3, 1, 2], []),
      (.bfma2 7 3 1 2, [3, 1, 2], []), (.hadd2 7 3 1 2, [3, 1, 2], []), (.hmul2 7 3 1 2, [3, 1, 2], []), (.hfma2 7 3 1 2, [3, 1, 2], [])] ∧
    AllRun cpu {} true [(.drcpa 7 4 6, [4, 5, 6, 7], []), (.drsqa 7 4 6, [4, 5, 6, 7], []), (.bmax2 7 3 1 2, [3, 1, 2], []),
      (.hmax2 7 3 1 2, [3, 1, 2], []), (.fmin 7 3 1 2, [3, 1, 2], []), (.fmax 7 3 1 2, [3, 1, 2], []),
      (.dmin 7 4 6 8, [4, 5, 6, 7, 8, 9], []), (.dmax 7 4 6 8, [4, 5, 6, 7, 8, 9], []), (.fcpys 7 3 1 2, [3, 1, 2], []),
      (.fsetp 7 7 .lt 1 2 0, [1, 2], [.p 7]), (.fsetp 7 0 .eq 2 4 1, [2, 3, 4, 5], [.p 0])] ∧
    (source cpu fp32 0x7F800001).isNan = true ∧ (source cpu fp32 0x3F800000).isNan = false ∧ cpu.me.fpmode.getLsbD 3 = false :=
  ⟨allRun_of (by decide), allRun_of (by decide), by decide, by decide, by decide⟩

/-- Obligations.SpecialFunctions: both rounding shapes, every element type. -/
theorem test_witness_SpecialFunctions :
    AllRun cpu {} true [(.frcp 7 3 1 .f32, [3, 1], []), (.frsq 7 3 1 .bf16x2, [3, 1], []), (.fexp2 7 3 1 .f32, [3, 1], []),
      (.flog2 7 3 1 .f32, [3, 1], []), (.fsin 7 3 1 .f32, [3, 1], []), (.fcos 7 3 1 .bf16x2, [3, 1], []), (.ftanh 7 3 1 .f32, [3, 1], []),
      (.fsigm 7 3 1 .f32, [3, 1], []), (.fclass 7 3 1 .f32, [3, 1], []), (.fclass 7 3 1 .bf16x2, [3, 1], []),
      (.fclass 7 3 4 .f64, [3, 4, 5], [])] ∧
    AllRun cpu { rnd := true } true [(.fsqrt 7 3 1 .f32, [3, 1], []), (.frnd 7 3 1 .bf16x2, [3, 1], []),
      (.fsqrt 7 4 6 .f64, [4, 5, 6, 7], []), (.frnd 7 4 6 .f64, [4, 5, 6, 7], [])] ∧
    AllRun cpu { rnd := false } true [(.fabs 7 3 1 .f32, [3, 1], []), (.fneg 7 4 6 .f64, [4, 5, 6, 7], []),
      (.fabs 7 3 1 .bf16x2, [3, 1], [])] := ⟨allRun_of (by decide), allRun_of (by decide), allRun_of (by decide)⟩

/-- Obligations.SpecialCases and Obligations.ExactValuesRoundToThemselves: a NaN, a negative value, the greatest finite. -/
theorem test_witness_SpecialCases : fp32.dec 0x7FC00000 = .nan false ∧ fp32.dec 0x7F800001 = .nan true ∧
    (∃ n e, fp32.dec 0xBF800000 = .fin true (n + 1) e) ∧ (∃ g n e, fp32.dec 0x7F7FFFFF = .fin g n e) ∧ 0x7F7FFFFF < 2 ^ fp32.w := by
  refine ⟨by decide, by decide, ⟨2 ^ 23 - 1, -23, by decide⟩, ⟨false, 0xFFFFFF, 104, by decide⟩, by decide⟩

/-- Obligations.Conversions: one register to one, eight to two, under SR. -/
theorem test_witness_Conversions :
    (cpu.Runs (.cvt 7 3 1 0 .f32OfI32 0) 7 [1, 3] [] { sat := true, rnd := true, rnd5 := cvtSr .f32OfI32 }) ∧
    (cpu.Runs (.cvt 7 20 8 0 .bx4blkOfF32 0) 7 ([8, 9, 10, 11, 12, 13, 14, 15] ++ [20, 21]) []
      { sat := true, rnd := true, rnd5 := cvtSr .bx4blkOfF32 }) ∧
    (List.range (cvtRegs .bx4blkOfF32).1).map (8 + ·) ++ (List.range (cvtRegs .bx4blkOfF32).2).map (20 + ·) =
      [8, 9, 10, 11, 12, 13, 14, 15] ++ [20, 21] := ⟨runs_of (by decide), runs_of (by decide), by decide⟩

/-! ## Threads, teams, barriers -/

/-- `cpu` with a second thread of the block in slot 1. -/
def two (f g : Thread → Thread) : State :=
  cpuC fun k => { k with threads := [(0, f thr), (1, g { thr with par := { tidx := 1, place := .pond 0 0 false } })] }

/-- The thread with the parallel part changed. -/
def par (f : Par → Par) (t : Thread) : Thread := { t with par := f t.par }

/-- Obligations.JoinSlots: slots armed and not, the last arrival and one before it. -/
theorem test_witness_JoinSlots :
    AllRun cpu {} false [(.jarm 7 15, [], []), (.jtest 7 7 15, [], [.p 7]), (.jdis 7 0, [], [])] ∧
    cpu.Reaches (.join 7 0) 7 [] [] {} .user false ∧ cpu.Reaches (.join 0 0) 0 [] [] {} .user false ∧
    (let s := two (par fun p => { p with armed := 1 }) (par fun p => { p with armed := 1 })
     (s.me.par.armed.getLsbD 0 = true ∧ s.me.guard 7 = true) ∧ ((((s.ctxAt 0).coreAt 0).threads.map Prod.fst).Nodup) ∧
     (∃ e ∈ ((s.ctxAt 0).coreAt 0).threads, e.1 ≠ 0 ∧ e.2.live = true ∧ e.2.par.blk = s.me.par.blk ∧
      e.2.par.armed.getLsbD 0 = true ∧ e.2.par.arrived.getLsbD 0 = false)) ∧
    (let s := two (par fun p => { p with armed := 1 }) (par fun p => { p with armed := 1, arrived := 1, place := .parked (.join 0) })
     ∀ e ∈ ((s.ctxAt 0).coreAt 0).threads, e.1 ≠ 0 → e.2.live = true → e.2.par.blk = s.me.par.blk →
      e.2.par.armed.getLsbD 0 = true → e.2.par.arrived.getLsbD 0 = true) :=
  ⟨allRun_of (by decide), reaches_of (acts := false) (by decide), reaches_of (acts := true) (by decide), by decide, by decide⟩

/-- Obligations.ExitEndsTheThread. -/
theorem test_witness_ExitEndsTheThread : cpu.Runs (.exit 7) 7 [] [] {} .user false ∧ cpu.unfinished 0 0 0 = false :=
  ⟨runs_of (by decide), by decide⟩

/-- Obligations.TeamInstructionsArrive: no mate, and a mate at another word. -/
theorem test_witness_TeamInstructionsArrive :
    AllRun cpu {} false [(.shflIdx 7 3 1 2, [3, 1, 2], []), (.shflUp 7 3 1 63, [3, 1], []), (.shflDn 7 3 1 0, [3, 1], []),
      (.shflXor 7 3 1 0x48, [3, 1], []), (.voteAll 7 7 0, [], [.p 7, .p 0]), (.voteAny 7 1 0, [], [.p 1, .p 0]), (.ballot 7 3 0, [3], [.p 0]),
      (.matchg 7 3 1, [3, 1], []), (.lred 7 3 1 .add, [3, 1], []), (.lscan 7 3 1 0 .fadd, [3, 1], []), (.lstep 7 3 1 0 .maxs, [3, 1], [.p 0]),
      (.lrank 7 3 1 1, [3, 1], [])] ∧
    cpu.Reaches (.ballot 0 3 0) 0 [3] [.p 0] {} .user false ∧
    (∀ u ∈ (((cpu.ctxAt 0).coreAt 0).teamLive 0 0).filter fun u => u.2.parkedAt .team, u.2.pc = cpu.me.pc) ∧
    (let s := two id fun t => { par (fun p => { p with place := .parked .team }) t with pc := 0x2000 }
     ∃ u ∈ (((s.ctxAt 0).coreAt 0).teamLive 0 0).filter fun u => u.2.parkedAt .team, u.2.pc ≠ s.me.pc) :=
  ⟨allRun_of (by decide), reaches_of (acts := true) (by decide), by decide, by decide⟩

/-- Both threads parked at BALLOT, the first with a true guard. -/
def balloting : State :=
  two (par fun p => { p with place := .parked .team, team := some { op := .ballot 7 3 0, guard := true, fpmode := 0 } })
    (par fun p => { p with place := .parked .team, team := some { op := .ballot 7 3 0, guard := false, fpmode := 0 } })

/-- Obligations.TeamInstanceExecutes. -/
theorem test_witness_TeamInstanceExecutes :
    let k := (balloting.ctxAt 0).coreAt 0
    balloting.going 0 = true ∧ k.teamLive 0 0 ≠ [] ∧ (∀ e ∈ k.teamLive 0 0, e.2.parkedAt .team = true) ∧
      (k.threads.map Prod.fst).Nodup ∧
      (∀ e ∈ k.teamLive 0 0, (teamResult (.ballot 7 3 0) 0 [(0, thr)] 0 e.2).fl % 32 &&& 0 = 0) := by decide

/-- TEAM_INSTANCE_EXECUTE writes BALLOT's result to the thread with a true guard and leaves the other's registers (R136, R146). -/
theorem test_ballot : (match exec (.teamInstanceExecute 0 0 0 0) balloting with
    | .next t => decide ((t.thr (.cmp 0 0 0)).gr 3 = 0 ∧ (t.thr (.cmp 0 0 1)).gr 3 = 7 ∧ (t.thr (.cmp 0 0 1)).pc = 0x1004)
    | _ => false) = true := by decide

/-- Obligations.TeamResults: the greatest offset. -/
theorem test_witness_TeamResults : (63 : BitVec 7).toNat < 64 := by decide

/-- Obligations.KeysAndSpawn: every status of SPAWN. -/
theorem test_witness_KeysAndSpawn :
    AllRun cpu {} false [(.keygrp 7 1, [1], [])] ∧ AllRun cpu {} true [(.yield 7, [], []), (.sleep 7 1, [1], [])] ∧
    AllRun ctl {} true [(.yield 7, [], []), (.sleep 7 1, [1], [])] ∧ isCtl cpu.cur = false ∧ isCtl ctl.cur = true ∧
    (min (cpu.me.gr 1).toNat (2 ^ 20) ≠ 0 ∧ min (cpu.me.gr 4).toNat (2 ^ 20) = 0 ∧ min (ctl.me.gr 4).toNat (2 ^ 20) = 0) ∧
    (let w := Instr.spawn 7 3 8 4
     let regs := [3, 4, 5] ++ (List.range 8).map (8 + ·)
     let n := fun (s : State) => (s.me.gr 3).toNat % 2048
     let live := cpuT fun t => t.setG 3 32
     let bad := cpuT fun t => (t.setG 3 1).setG 4 1
     AllRun live {} false [(w, regs, [])] ∧ live.released live.cur 1 = true ∧ n live = 32 ∧
     live.me.pair 4 = ((live.me.pair 4).setWidth 57).signExtend 64 ∧ (live.me.pair 4).extractLsb' 0 2 = 0#2 ∧
     ((live.ctxAt 0).coreAt 0).blocks.length < 64 ∧ ((live.ctxAt 0).coreAt 0).threads.length + 32 ≤ 1024 ∧
     ((live.ctxAt 0).coreAt 0).regsFit 32 (((live.ctxAt 0).coreAt 0).blkAt 0).regs = true ∧
     n cpu = 7 ∧ n (cpuT fun t => t.setG 3 0) = 0 ∧ n (cpuT fun t => t.setG 3 33) = 33 ∧ n bad = 1 ∧ (bad.me.pair 4).extractLsb' 0 2 ≠ 0#2 ∧
     (List.replicate 64 ((0 : Nat), ({} : Block))).length = 64 ∧ 1024 < (List.replicate 1024 ((0 : Nat), thr)).length + 1) :=
  ⟨allRun_of (by decide), allRun_of (by decide), allRun_of (by decide), by decide, by decide, by decide,
   allRun_of (by decide), by decide, by decide, by decide, by decide, by decide, by decide, by decide, by decide, by decide, by decide, by decide,
   by decide, by decide, by decide⟩

/-- Obligations.Barriers: a first and a second arrival, with a thread still to come; AWAIT in a phase that has and has not
ended. -/
theorem test_witness_Barriers :
    AllRun cpu {} false [(.bar 7 0 .none, [], []), (.arrive 7 15 .blk, [], []), (.await 7 0, [], [])] ∧
    (let s := two id id
     s.me.par.barArr.getLsbD 0 = false ∧ s.released s.cur (pubNum .blk) = true ∧
     (∃ e ∈ ((s.ctxAt 0).coreAt 0).threads, e.1 ≠ 0 ∧ e.2.live = true ∧ e.2.par.blk = s.me.par.blk ∧ e.2.par.barArr.getLsbD 0 = false) ∧
     s.me.par.barEver.getLsbD 0 = false) ∧
    (let s := two (par fun p => { p with barArr := 1, barEver := 1 }) id
     s.me.par.barArr.getLsbD 0 = true ∧ s.me.par.barEver.getLsbD 0 = true ∧ s.me.par.barPh.getLsbD 0 = (s.blkOf s.cur).phase.getLsbD 0) :=
  ⟨allRun_of (by decide), by decide, by decide⟩

/-! ## Tickets, counters, device-side work, messages -/

/-- `cpu` with its block in a launch that group entry 0 (a barrier of blocks 0 and 1) names. -/
def grouped (joined : Option Nat) : State :=
  let e : BitVec 128 := (1 <<< 124) ||| (2 <<< 64) ||| (1 <<< 32)
  let s := cpuT (par fun p => { p with barg := joined })
  let k := s.ctxAt 0
  let c := { k.coreAt 0 with blocks := [(0, { nthr := 1, spq := 1, groups := [0] })] }
  { s with ctxs := [(0, { k with cores := [(0, c)], launches := [(0, { grp := [(0, e)], next := 1, live := 1 })] })] }

/-- Obligations.TicketsAndCounters: SYNCT foul, incomplete and complete; BARG wrong and right. -/
theorem test_witness_TicketsAndCounters :
    AllRun (grouped none) {} false [(.barg 7 .none 5, [5], [])] ∧
    (let s := grouped none
     let la := (s.ctxAt 0).launchAt (s.blkOf s.cur).launch
     ¬(grpKind (tget 0 la.grp 0) = 0 ∨ 0 ∉ (s.blkOf s.cur).groups ∨ s.me.par.barg ≠ none) ∧
     la.next ≤ grpLast (tget 0 la.grp 0) (tget [] la.lists 0) ∧ (grouped (some 0)).me.par.barg ≠ none) ∧
    AllRun cpu {} false [(.synct 7 5, [5], []), (.ticket 7 3 15, [3], [])] ∧ cpu.matesFirst = true ∧
    ((cpu.me.gr 5).getLsbD (cpu.me.par.tidx % 32) = false) ∧
    (let s := two (fun t => t.setG 5 3) id
     (s.me.gr 5).getLsbD 0 = true ∧ s.released s.cur 1 = true ∧
     ¬(∀ u ∈ ((s.ctxAt 0).coreAt 0).threads, u.1 ≠ 0 → u.2.live = true → u.2.par.blk = s.me.par.blk → u.2.par.tidx / 32 = 0 →
      (s.me.gr 5).getLsbD (u.2.par.tidx % 32) = true → u.2.parkedAt .synct = true)) ∧
    (let s := cpuT fun t => t.setG 5 1
     (s.me.gr 5).getLsbD 0 = true ∧ (((s.ctxAt 0).coreAt 0).threads.map Prod.fst).Nodup ∧
     (∀ u ∈ ((s.ctxAt 0).coreAt 0).threads, u.1 = 0)) ∧
    cpu.workBank = some 0 ∧
    AllRun cpu {} true [(.evset 7 3 5 1 0, [3], []), (.evsig 7 3 5 1 0, [3], []), (.evset 7 0 5 0 127, [], []), (.evsig 7 0 5 0 1, [], []),
      (.evwait 7 63, [], []), (.evread 7 3 0, [3], [])] ∧
    ((cpu.ctxAt 0).evAt 5 = 0 ∧ tfind (cpu.ctxAt 0).evT 5 = none ∧ (cpu.ctxAt 0).bins = []) ∧
    (let s := cpuX fun k => { k with ev := [(5, 1)] }
     (s.ctxAt 0).evAt 5 ≠ 0 ∧ ((s.ctxAt 0).evAt 5).toNat ≤ (1 : Word).toNat) ∧
    (let s := cpuX fun k => { k with evT := [(5, 1)] }
     tfind (s.ctxAt 0).evT 5 = some 1 ∧ s.jumpOk (s.phys s.cur) 1 = true) ∧
    (cpuT (par fun p => { p with place := .parked (.evwait 5) })).me.parkedAt (.evwait 5) = true ∧
    ({ ctl with parts := [] } : State).workBank = none :=
  ⟨allRun_of (by decide), by decide, allRun_of (by decide), by decide, by decide, by decide, by decide, by decide, allRun_of (by decide),
   by decide, by decide, by decide, by decide, by decide⟩

/-- A bin entry: valid, records of one word, COUNT 2, timer of 1 µs, template at 0x3000. -/
def binEntry : BitVec 128 := (1 <<< 127) ||| (2 <<< 108) ||| (1 <<< 92) ||| 0x3000

/-- `cpu` with bin 0 holding `n` records. -/
def binned (n : Nat) : State := cpuX fun k => { k with bins := [(0, { entry := binEntry, recs := List.replicate n [1], timer := some 0 })] }

/-- `ctl` with KCTX naming bank 0. -/
def ctlK : State := ctlC fun c => { c with kctxV := true }

/-- Obligations.DeviceSideWork: a bin that is not configured, an empty, a part full and a full one; addresses; a plain LAUNCH. -/
theorem test_witness_DeviceSideWork :
    AllRun cpu {} true [(.nrec 7 3 8 4, [3, 4] ++ (List.range 8).map (8 + ·), []), (.nflush 7 3 4, [3, 4], []), (.launch 7 3 4, [3, 4, 5], [])] ∧
    binOk ((cpu.ctxAt 0).binAt 0).entry = false ∧ binOk binEntry = true ∧
    (let u := fun (n : Nat) => ((binned n).ctxAt 0).binAt 0
     (u 0).recs = [] ∧ (u 0).recs.length + 1 < binCount binEntry ∧ (u 0).retry = false ∧ (u 3).recs.length < 2 * binCount binEntry ∧
     (u 3).recs ≠ [] ∧ 2 * binCount binEntry ≤ (u 4).recs.length ∧ (binned 0).released (binned 0).cur 3 = true) ∧
    (cpu.me.pair 4 = ((cpu.me.pair 4).setWidth 57).signExtend 64 ∧ (cpu.me.pair 4).extractLsb' 0 6 = 0#6 ∧
      (cpu.me.pair 1).extractLsb' 0 6 ≠ 0#6) ∧
    AllRun ctlK {} true [(.launch 7 3 4, [3, 4, 5], [])] ∧ ctlK.released ctlK.cur 3 = true ∧ ctlK.workBank = some 0 ∧
    (∃ s1 pa cc ac, ctlK.xThread ctlK.cur { die := 0, root := {}, user := true, rd := true } (ctlK.me.pair 4 + 16) =
      (.ok s1 pa cc ac, none) ∧ ∃ s2 b, s1.ctlRead 0 (ctlK.me.pair 4 + 16) pa cc none ac 0 8 = (s2, some b)) :=
  ⟨allRun_of (by decide), by decide, by decide, by decide, by decide, allRun_of (by decide), by decide, by decide,
   ⟨_, _, _, _, rfl, _, _, rfl⟩⟩

/-- `cpu` with ring 0 at the start of a resident page, of four slots, and a message to it. -/
def ringed (tail : Word) (m : RMsg) : State :=
  cpuX fun k => { k with msgs := [(3, m)], cores := [(0, { core0 with
    blocks := [(0, { nthr := 1, spq := 1, rings := [(0, { h := 0, l := 2, tail := tail })] })], stt := [((0, 0), { res := true })] })] }

/-- A message to ring 0 of block 0 of this package. -/
def msg (st : Option Nat) : RMsg := { core := 0, slot := 0, gd := 3, launch := 0, dst := (Config.pkg.zeroExtend 64) <<< 56, words := [1, 2, 3, 4], status := st }

/-- The message's endpoint is of this package. -/
theorem dstPkg_msg (st : Option Nat) : dstPkg (msg st).dst = Config.pkg := by
  apply BitVec.eq_of_toNat_eq
  have := Config.pkg.isLt
  simp only [dstPkg, msg, BitVec.extractLsb'_toNat, BitVec.toNat_shiftLeft, BitVec.toNat_setWidth, Nat.shiftLeft_eq,
    Nat.shiftRight_eq_div_pow]
  omega

/-- Obligations.Messages: an empty and a filled ring, an unconfigured one, a full one; a message on its way and one with a
status. -/
theorem test_witness_Messages :
    AllRun cpu {} false [(.send 7 3 8 4, [3, 4, 5] ++ (List.range 4).map (8 + ·), []), (.rpoll 7 3 4, [3, 4], []), (.rwait 7 3 4, [3, 4], []),
      (.radv 7 3 4 5, [3, 4, 5], [])] ∧
    cpu.Inv ∧ tfind (cpu.blkOf cpu.cur).rings 0 = none ∧
    (let s := ringed 0 (msg none)
     (tfind (s.blkOf s.cur).rings 0 = some { h := 0, l := 2 }) ∧ s.spHere 0 0 0 0 16 = true ∧ s.ringFill 0 0 0 0 = 0 ∧
     s.spHere 0 0 0 16 16 = true ∧ ((0 : Word) - BitVec.ofNat 32 (leVal (s.spRead 0 0 0 4 4))).toNat < 2 ^ 2 ∧
     (s.ctxs.map Prod.fst).Nodup ∧ (s.ctxAt 0).halt = none ∧
     (s.ctxAt 0).blockOf 0 0 = some (0, 0) ∧ ((s.ctxAt 0).coreAt 0).liveOf 0 ≠ []) ∧
    2 ^ 2 ≤ ((4 : Word) - BitVec.ofNat 32 (leVal ((ringed 4 (msg none)).spRead 0 0 0 4 4))).toNat ∧
    (let f := { ringed 0 (msg none) with cores := [(0, { frames := [(0, 2)] })] }
     f.ringFill 0 0 0 0 = 2) ∧
    ((2 ^ 40 : Dword).extractLsb' 34 22 ≠ 0#22) ∧
    (tfind ((ringed 0 (msg none)).ctxAt 0).msgs 3 = some (msg none) ∧ dstPkg (msg none).dst = Config.pkg ∧ (msg none).status = none) :=
  ⟨allRun_of (by decide), by simp [State.Inv, cpu, Memory.wf], by decide, by decide, by decide, by decide, by decide,
   rfl, dstPkg_msg none, rfl⟩

/-! ## Accesses, ordering -/

/-- `cpu` with its root enabled and the page at 0x2000, of class package, in the TLB; `e` is the rest of its leaf. -/
def mappedAs (e : BitVec 64) : State :=
  { cpuX fun k => { k with root := { sid := 1, en := true } } with
    tr := { tlb := [{ own := .die 0, sid := 1, base := 0x2000, size := 4096, leaf := 0x2200 ||| e }] } }

/-- As mappedAs, readable, writable, executable and of user level. -/
def mapped : State := mappedAs 0xFF

/-- A thread with a wrong window in m2 and addresses that are not canonical (a3) and not aligned (a4), and g4 = 1. -/
def oddRegs (t : Thread) : Thread :=
  { t with g := [(4, 1), (8, 64)], a := [(1, 0x2000), (2, 0x2000), (3, 1 <<< 60), (4, 0x2001), (5, 1 <<< 62)], m := [(1, 16 <<< 32), (2, 15 <<< 32)] }

/-- Obligations.GlobalAccesses: every check at its edge; a translation that traps and one that does not; a control core's
plain access and time. -/
theorem test_witness_GlobalAccesses :
    AllRun mapped { hx := true, cache := true } true [(.ld 7 3 1 .offset .w32 0, [3], [.a 1]), (.st 7 4 1 .postInc .w64 1, [4, 5], [.a 1]),
      (.ld 7 4 1 .modulo .w128 255, [4, 5, 6, 7], [.a 1, .m 1])] ∧
    AllRun mapped { cache := true } true [(.ld 7 3 1 .indexed .u8 3, [3, 1], [.a 1]), (.atom 7 3 1 .add32 5 .die, [3, 5], [.a 1])] ∧
    AllRun ctl { hx := true, cache := true } true [(.ld 7 3 1 .offset .w32 0, [3], [.a 1]), (.st 7 4 1 .offset .w32 0, [4], [.a 1])] ∧
    AllRun ctl { cache := true } true [(.atom 7 3 1 .add32 5 .die, [3, 5], [.a 1])] ∧
    (let t := oddRegs thr
     winOk (t.mr 1) 16 = true ∧ winOk (t.mr 2) 2 = false ∧
     ¬(t.ar 3 = ((t.ar 3).setWidth 57).signExtend 64) ∧ (t.ar 4 = ((t.ar 4).setWidth 57).signExtend 64 ∧ (t.ar 4).toNat % 2 ≠ 0)) ∧
    mapped.acqPending mapped.cur = false ∧ mapped.roomToWrite = true ∧ (mapped.ctxAt 0).logUsed 0 < 256 ∧
    (match mapped.xThread mapped.cur (xreqOf (.st 7 4 1 .offset .w32 0)) 0x2000 with
     | (.ok _ pa cc _, _) => pa == 0x2000 && cc == 1
     | _ => false) = true ∧
    (match (mappedAs 0xFB).xThread mapped.cur (xreqOf (.ld 7 4 1 .offset .w32 0)) 0x2000 with
     | (.trap n, _) => n == 8
     | _ => false) = true ∧
    PlainAt ctl 0 (effAddr ctl.me 1 .offset 0 4) ∧ TimeFor ctl 0 0 false ∧ TimeFor ctl 0 0 true ∧ ctl.Inv :=
  ⟨allRun_of (by decide), allRun_of (by decide), allRun_of (by decide), allRun_of (by decide), by decide, by decide, by decide, by decide,
   by decide, by decide, by unfold PlainAt; decide, by unfold TimeFor; decide, by unfold TimeFor; decide,
   by simp [State.Inv, ctl, Memory.wf]⟩

/-- `cpu` with page 0 of the block resident, and a0 at `a`. -/
def paged (a : Dword) : State :=
  cpuC fun k => { k with threads := [(0, { thr with a := [(0, a)] })], stt := [((0, 0), { res := true })] }

/-- Obligations.ScratchpadAccesses: the page resident and not; the last byte below the limit and the limit. -/
theorem test_witness_ScratchpadAccesses :
    AllRun cpu { hx := true } false [(.lds 7 3 1 .offset .w32 0, [3], [.a 1]), (.sts 7 4 1 .postInc .w64 1, [4, 5], [.a 1])] ∧
    AllRun cpu {} false [(.lds 7 3 1 .indexed .u8 3, [3, 1], [.a 1]), (.atoms 7 4 1 .cas64 8, [4, 5, 8, 9, 10, 11], [.a 1])] ∧
    cpu.Inv ∧ (paged 0).acqPending (paged 0).cur = false ∧ (paged 0).Inv ∧
    (let lim := ((paged 0).blkOf (paged 0).cur).spq * 2048
     (effAddr (paged 2047).me 0 .offset 0 1).toNat < lim ∧ lim ≤ (effAddr (paged 2048).me 0 .offset 0 1).toNat ∧
     ((paged 2046).me.ar 0).toNat < lim ∧ ((paged 2046).me.ar 0).toNat % 4 ≠ 0 ∧ ((paged 2040).me.ar 0).toNat % 8 = 0) ∧
    ((((paged 0).ctxAt 0).coreAt 0).page 0 0).res = true ∧ (((cpu.ctxAt 0).coreAt 0).page 0 0).res = false ∧
    (∀ v, v ≠ 0 → ((((paged 0).ctxAt 0).coreAt 0).page 0 v).res = false) := by
  refine ⟨allRun_of (by decide), allRun_of (by decide), by simp [State.Inv, cpu, Memory.wf], by decide,
    by simp [State.Inv, paged, cpuC, cpuX, cpu, Memory.wf], by decide, by decide, by decide, ?_⟩
  intro v hv
  simp [paged, cpuC, cpuX, cpu, State.ctxAt, Ctx.coreAt, CtxCore.page, tget, Ne.symm hv]

/-- `mapped` with binding 3 at object 0x2008 and region 0x2000 to 0x20FF. -/
def bound : State :=
  let k := mapped.ctxAt 0
  { mapped with ctxs := [(0, { k with bind := [(3, (0x2000 <<< 128) ||| (2 <<< 64) ||| 0x2008 ||| 1)] })] }

/-- `mapped` with a load of the thread in flight. -/
def loading : State :=
  let k := mapped.ctxAt 0
  { mapped with ctxs := [(0, { k with infl := [(2, { op := .ld 7 3 1 .offset .w32 0, pc := 0x1000, core := 0, slot := 0, ea := 0x2000, size := 4 })] })] }

/-- Obligations.OrderingAndCaches: FENCE with and without a load out; a bound and an unbound entry; BIND's operands; an
address that translates and one that does not. -/
theorem test_witness_OrderingAndCaches :
    AllRun mapped {} true [(.fence 7 .sys, [], [])] ∧ AllRun ctl {} true [(.fence 7 .dom, [], [])] ∧ ctl.released ctl.cur 4 = true ∧
    (∃ f ∈ (loading.ctxAt 0).infl, f.2.ofThread 0 0 = true ∧ f.2.loads = true) ∧ (mapped.ctxAt 0).infl = [] ∧
    mapped.writesReached 0 (mapped.ofBlock 0 0 0) 4 = true ∧
    AllRun bound {} false [(.acq 7 4 3 .blk, [4, 5], []), (.rel 7 4 3 .blk, [4, 5], []), (.bind 7 4 1 3, [4, 5, 6], [.a 1]), (.unbind 7 63, [], [])] ∧
    (tget 0 (bound.ctxAt 0).bind 3).getLsbD 0 = true ∧ (tget 0 (mapped.ctxAt 0).bind 3).getLsbD 0 = false ∧ (bound.blkOf bound.cur).unack = 0 ∧
    (match bound.xThread bound.cur (xreqOf (.acq 7 4 3 .blk)) (bindObj (tget 0 (bound.ctxAt 0).bind 3)) with
     | (.ok s1 pa _ _, _) => (s1.acqNow (bound.physOf 0 0) pa bound.me.lease.toNat (tget 0 (bound.ctxAt 0).bind 3) 0 false).2.isSome
     | _ => false) = true ∧
    ((thr.ar 1).extractLsb' 0 3 = 0#3 ∧ thr.pair 4 = ((thr.pair 4).setWidth 57).signExtend 64 ∧ (thr.pair 4).extractLsb' 0 7 = 0#7 ∧
      (oddRegs thr).pair 4 = (((oddRegs thr).pair 4).setWidth 57).signExtend 64 ∧ ((oddRegs thr).pair 4).extractLsb' 0 7 ≠ 0#7 ∧
      ((oddRegs thr).ar 4).extractLsb' 0 3 ≠ 0#3 ∧ (oddRegs thr).ar 3 ≠ (((oddRegs thr).ar 3).setWidth 57).signExtend 64) ∧
    AllRun ctl { hx := true, cache := true } true [(.pref 7 1 .offset 0, [], [.a 1])] ∧
    AllRun mapped { hx := true } true [(.cinv 7 1 .postInc 1, [], [.a 1]), (.cwb 7 1 .modulo 1, [], [.a 1, .m 1])] ∧
    (mapped.probe mapped.cur 0x2000 = some (0x2000, 1, none) ∧ mapped.probe mapped.cur 0x8000 = none) ∧ mapped.wcb (mapped.phys mapped.cur) = [] :=
  ⟨allRun_of (by decide), allRun_of (by decide), by decide, by decide, by decide, by decide, allRun_of (by decide), by decide, by decide,
   by decide, by decide, by decide, allRun_of (by decide), allRun_of (by decide), by decide, by decide⟩

/-! ## Tensors -/

/-- A descriptor of one dimension of `n` elements in the scratchpad (R257). -/
def row (fmt base n : BitVec 512) : BitVec 512 :=
  (1 <<< 499) ||| (1 <<< 498) ||| (1 <<< 495) ||| (fmt <<< 491) ||| (base <<< 434) ||| (n <<< 160)

/-- `cpu` with descriptors 1 and 2 (eight INT32 elements at 0 and at 64), 3 (not valid) and 4 (past the block's page), tile 2 of
the block and tile 3 of another, `l` as the thread's open batches, and its registers. -/
def tensors (l : List Batch) (f : Thread → Thread) : State :=
  cpuX fun k => { k with td := [(1, row 3 0 8), (2, row 3 64 8), (4, row 3 2044 8)], cores := [(0, { core0 with
    threads := [(0, par (fun p => { p with batches := l }) (f { thr with cpopen := 5 }))],
    tiles := [(2, { owner := some 0 }), (3, { owner := some 7 })] })] }

/-- An open batch of number 5. -/
def batch (left : Nat) : Batch := { num := 5, left := left, sealed := false, token := none, event := none }

/-- Obligations.DescriptorsAndBatches: an address that passes and fails each check; a batch with and without commands; a
number that is older by one, by 2^31, and not older. -/
theorem test_witness_DescriptorsAndBatches :
    AllRun (tensors [] id) {} false [(.tdset 7 9 3 15, [3], []), (.tdget 7 9 3 0, [3], []), (.tdinv 7 255, [], []), (.cpwait 7 3, [3], []),
      (.cptest 7 3, [3], [])] ∧
    AllRun mapped { cache := true } false [(.tdld 7 9 4, [4, 5], [])] ∧ AllRun (tensors [] id) { even := true } false [(.cpseal 7 3, [3], [])] ∧
    (let c := fun (a : Dword) => a = (a.setWidth 57).signExtend 64
     c (thr.pair 4) ∧ (thr.pair 4).toNat % 64 = 0 ∧ c ((thr.setG 4 32).pair 4) ∧ ((thr.setG 4 32).pair 4).toNat % 64 ≠ 0 ∧
     ¬c ((thr.setG 5 0x01000000).pair 4)) ∧
    mapped.tdPending mapped.cur [9] = false ∧ (tensors [] id).me.par.batches = [] ∧
    (tensors [batch 1] id).me.par.batches = [batch 1] ∧ (batch 1).num = (tensors [batch 1] id).me.cpopen.toNat ∧
    (let older := fun (o b : Word) => 1 ≤ (o - b).toNat ∧ (o - b).toNat ≤ 2 ^ 31
     older 5 4 ∧ older 5 (5 - 0x80000000) ∧ ¬older 5 (5 - 0x80000001) ∧ ¬older 5 5) ∧
    (∃ u ∈ (tensors [{ batch 1 with num := 4, sealed := true }] id).me.par.batches, u.num = 4) :=
  ⟨allRun_of (by decide), allRun_of (by decide), allRun_of (by decide), by decide, by decide, by decide, by decide, by decide, by decide,
   by decide⟩

/-- The first failing check of a command of `tensors` and the handle charged. -/
def faultOf (i : Instr) (hs : List Nat) : Option (Nat × Nat) := ((tensors [] id).newCmd 0 0 i hs 0 0).operandFault hs 1

/-- Obligations.EngineCommands: checks that fail and pass, tiles, an open queue; hints that each form needs. -/
theorem test_witness_EngineCommands :
    AllRun (tensors [] id) { cache := true } false [(.cp 7 1 2, [], []), (.cpz 7 1, [], []), (.accld 7 1 2, [], [])] ∧
    AllRun (tensors [] id) { cache := true, rnd := true } false [(.cpc 7 1 2, [], []), (.accst 7 1 2, [], [])] ∧
    AllRun (tensors [] id) { gang := true, even := true } false [(.mma 7 1 2 0, [], []), (.mmab 7 1 2 0, [], []), (.mmaz 7 1 2 0, [], [])] ∧
    AllRun (tensors [] id) { gang := true, even := true, rnd := true } false [(.dmma 7 1 2 0, [], [])] ∧
    AllRun (tensors [] id) { even := true, rnd := true } false [(.chain 7 1 2, [], [])] ∧
    AllRun (tensors [] id) {} false [(.accz 7 0, [], []), (.chset 7 1, [], [])] ∧
    AllRun (tensors [] id) { kreg := 2 } false [(.dodge 7 1 3 2, [3], [.k 2])] ∧
    (let s := tensors [] fun t => { t with hints := { he := some 0 } }
     AllRun s { gang := true, even := true, tn3 := true } false [(.mmas 7 1 2 0, [], [])] ∧
     AllRun s { gang := true, even := true, kreg := 1 } false [(.mmam 7 1 2 0, [], [.k 0])] ∧
     AllRun s { even := true, tn3 := true } false [(.scout 7 1 2, [], [])] ∧
     AllRun s { even := true, tn3 := true, rnd := true } false [(.chain2 7 1 2, [], [])]) ∧
    AllRun ctl {} true [(.accz 7 0, [], [])] ∧
    faultOf (.cp 7 1 2) [1, 2] = none ∧ faultOf (.cp 7 3 2) [3, 2] = some (1, 3) ∧ faultOf (.cp 7 1 4) [1, 4] = some (2, 4) ∧
    (let m := (tensors [] id).newCmd 0 0 (.accz 7 0) [] 0 0
     let k := ((tensors [] id).ctxAt 0).coreAt 0
     m.tiles = [0] ∧ ownsTile (tget {} k.tiles 0) none = true ∧ ownsTile (tget {} k.tiles 2) none = false) ∧
    (tensors [] id).matesFirst = true ∧ (((tensors [] id).ctxAt 0).coreAt 0).q .copy = [] :=
  ⟨allRun_of (by decide), allRun_of (by decide), allRun_of (by decide), allRun_of (by decide), allRun_of (by decide), allRun_of (by decide),
   allRun_of (by decide), ⟨allRun_of (by decide), allRun_of (by decide), allRun_of (by decide), allRun_of (by decide)⟩, allRun_of (by decide),
   by decide, by decide, by decide, by decide, by decide, by decide⟩

/-- Obligations.AccumulatorTiles: a tile of the block, of another and of none; coordinate words at the edges. -/
theorem test_witness_AccumulatorTiles :
    let s := tensors [] id
    let k := (s.ctxAt 0).coreAt 0
    AllRun s {} false [(.accrd 7 3 4 2, [3, 4], []), (.accwr 7 3 4 2, [3, 4], []), (.accpsn 7 3 4 2, [3, 4], []), (.ownv 7 2, [], []),
      (.ownm 7 2, [], [])] ∧
    ((k.tileAt 2).owner = some 0 ∧ (k.tileAt 3).owner = some 7 ∧ (k.tileAt 4).owner = none) ∧
    (let ok := fun (g : Word) => g &&& 0xFFF08080 = 0
     ok 0x00017F7F ∧ ¬ok 0x00010080 ∧ ok 0x00040003 ∧ ((0x00040004 : Word).extractLsb' 0 7).toNat = 4 ∧ ok 0x000F7F00) ∧
    ((0x00FFFFFF : Word).extractLsb' 24 8 = 0#8 ∧ (0x01000000 : Word).extractLsb' 24 8 ≠ 0#8) ∧
    k.storing 0 2 = false ∧ k.usesTile 4 = false ∧ (k.tileAt 4).queue = [] ∧ (∀ p, s.me.par.place ≠ .parked p) :=
  ⟨allRun_of (by decide), by decide, by decide, by decide, by decide, by decide, by decide, fun _ h => nomatch h⟩

/-! ## Events -/

/-- `cpu` with line 64 in L2 as `l`, messages about it, and replicas of it. -/
def line64 (l : L2Line) (ms : List CMsg) (rs : List (Nat × Replica)) : State :=
  { cpu with coh := { l2 := [(64, l)], msgs := ms, reps := rs.map fun e => ((64, e.1), e.2) } }

/-- A message about line 64 of die 1. -/
def m64 (k : MKind) : CMsg := { kind := k, line := 64, r := 1 }

/-- A replica in a state. -/
def rep (st : Moes) : Replica := { st := st, data := [], wts := 0, rts := 0 }

/-- Obligations.FabricEvents: requests with no holder, an owner, sharers and the requester among them; a replica in each
state; a grant and data on their way; a line not in L2; a link with 64 replays. -/
theorem test_witness_FabricEvents :
    ([MKind.readS, .readOwn, .upgrade, .evictC, .writeBack, .fwdS, .fwdOwn, .inv, .grantM, .data].all fun k =>
      (line64 {} [m64 k] []).msgOf k 64 1 == some (m64 k)) = true ∧
    tfind (line64 { owner := some 2, sharers := 5 } [] []).coh.l2 64 = some { owner := some 2, sharers := 5 } ∧
    (([0, 1, 2, 3].filter fun d => (5 : BitVec 4).getLsbD d && d != 1) = [0, 2] ∧
      ([0, 1, 2, 3].filter fun d => (2 : BitVec 4).getLsbD d && d != 1) = []) ∧
    ([Moes.m, .o, .e, .s].all fun st => (line64 {} [] [(1, rep st)]).repAt 64 1 == some (rep st) &&
      !(line64 {} [] [(1, rep st)]).asking 64 1 && !(line64 {} [m64 .fwdS] [(1, rep st)]).awaits 64 1) = true ∧
    (∀ e ∈ (line64 {} [m64 .grantM] [(1, rep .s)]).ctxs, ∀ f ∈ e.2.infl, f.2.phase ≠ .own) ∧
    tfind (line64 {} [] []).coh.l2 65 = none ∧
    (∀ d ∈ (line64 {} [] []).coh.down, ¬(d.1 = 0 ∧ d.2.1 = 1)) ∧ tget 0 [(((0 : Nat), (1 : Nat)), 64)] (0, 1) = 64 := by decide

/-- `cpu` with one access in flight, number 2. -/
def flying (f : InFlight) : State := cpuX fun k => { k with infl := [(2, f)] }

/-- A load and a store of slot 0 of core 0 at 0x2000, translated. -/
def flight (ph : Phase) : InFlight :=
  { op := .ld 7 3 1 .offset .w32 0, pc := 0x1000, core := 0, slot := 0, ea := 0x2000, size := 4, pa := some (0x2000, 0),
    got := some [1, 2, 3, 4], phase := ph }

/-- As flight, a store. -/
def stFlight (ph : Phase) : InFlight := { flight ph with op := .st 7 3 1 .offset .w32 0, data := [1, 2, 3, 4], got := none }

/-- `mapped` with a faulted load answered with RETRY. -/
def replaying : State :=
  let k := mapped.ctxAt 0
  { mapped with ctxs := [(0, { k with infl := [(2, { flight .replay with pa := none })] })] }

/-- Obligations.TimeAndReturns: a core behind the clock; a lagging core; an access in each phase; a root whose walk stops. -/
theorem test_witness_TimeAndReturns :
    (cpu.coreAt 0).ticked < cpu.clock / 64 ∧ ({ cpu with clock := 1024 } : State).clock % 1024 = 0 ∧
    (tle (0 : BitVec 24) (2 ^ 20 + 1) = true ∧ 2 ^ 20 < ((2 ^ 20 + 1 : BitVec 24) - 0).toNat ∧ ¬2 ^ 20 < ((2 ^ 20 : BitVec 24) - 0).toNat) ∧
    (tle (0 : BitVec 24) (2 ^ 21) = true ∧ 2 ^ 21 ≤ ((2 ^ 21 : BitVec 24) - 0).toNat) ∧
    (tfind ((flying (flight .issued)).ctxAt 0).infl 2 = some (flight .issued) ∧
      ((flying (flight .issued)).ctxAt 0).olderMeets 2 (flight .issued) InFlight.blocksLoad = false) ∧
    ((stFlight (.applied 0)).counted = true ∧ (flying (stFlight (.applied 0))).jumpOk 0 0 = true) ∧
    (let s := flying (stFlight .issued)
     (s.ctxAt 0).infl = [(2, stFlight .issued)] ∧ 0x2000 < 0x00C000000000 ∧ homeDie 0x2000 = dieOfPhys (s.physOf 0 0) ∧ s.coh.reps = [] ∧
     s.coh.msgs = [] ∧ 0x2000 / 128 ∉ s.hst.held ∧ (s.l2At (0x2000 / 128)).busy = false ∧ (s.l2At (0x2000 / 128)).owner = none ∧
     (s.ctxAt 0).ckpt.on = false) ∧ (flying (stFlight .issued)).Inv ∧
    (let f := { flight .replay with pa := none }
     tfind (replaying.ctxAt 0).infl 2 = some f ∧ replaying.runs 0 = true ∧ (replaying.ctxAt 0).olderLogged 2 f = false ∧
     (match replaying.xThread (.cmp 0 0 0) (xreqOf f.op) f.ea with
      | (.ok _ _ _ _, _) => true
      | _ => false) = true) ∧
    (let r : Root := { sid := 1, en := true }
     mapped.rootOf 1 = some r ∧ mapped.rootOf 2 = none ∧
     (match mapped.walk 0x2000 5 0 with
      | .stop _ _ => true
      | .leaf _ => false) = true) ∧
    (let s := { mapped with mem := memWrite 0 (leBytes 0xE7 8) [] }
     (match s.walk 0 1 0 with
      | .stop _ _ => false
      | .leaf l => l.size == 4096 && (leafCheck { die := 0, root := {}, user := false, rd := true } l.e 0).isNone) = true) := by
  refine ⟨by decide, by decide, by decide, by decide, by decide, by decide, by decide, by simp [State.Inv, flying, cpuX, cpu, Memory.wf],
    by decide, by decide, by decide⟩

/-- An asked fault record of partition 0 with tag 4, written or not. -/
def rec4 (w : Bool) : FRec :=
  { tag := 4, p := 0, sid := 1, kind := 0, acc := 0, waiters := 1, level := 0, addr := 0x2000, die := 0, core := 0, written := w }

/-- `cpu` with that record, and the ring of partition 0 of one record at `base`, with HEAD at 0 and TAIL at `tail`. -/
def faulted (w : Bool) (base tail : BitVec 64) : State :=
  let k : Ctx := { bank0 with cores := [], infl := [(2, { flight (.logged 4) with pa := none })] }
  { cpu with tr := { recs := [rec4 w] }, win := [(0, { fqbase := [(0, base)], fqtail := [(0, tail)] })], ctxs := [(0, k)] }

/-- Obligations.FaultsWindowAndHost: a ring with room and a full one; a record to answer; a window value with a reserved bit
and without; a running shootdown; lines of the host; a SID that has a root, and translations of each outcome. -/
theorem test_witness_FaultsWindowAndHost :
    (let s := faulted false 0x4000 0
     (s.tr.recs.find? fun r => r.p == 0 && !r.written) = some (rec4 false) ∧
     ¬(tget 0 (s.winAt 0).fqbase 0 = 0 ∨ 2 ^ ((tget 0 (s.winAt 0).fqsize 0).toNat % 32) ≤ (tget 0 (s.winAt 0).fqtail 0 - tget 0 (s.winAt 0).fqhead 0).toNat) ∧
     s.coh.reps = [] ∧ s.coh.msgs = []) ∧
    (let s := faulted false 0x4000 1
     2 ^ ((tget 0 (s.winAt 0).fqsize 0).toNat % 32) ≤ (tget 0 (s.winAt 0).fqtail 0 - tget 0 (s.winAt 0).fqhead 0).toNat) ∧
    (let s := faulted true 0x4000 1
     (s.tr.recs.find? fun r => !r.notice && r.written && r.tag == 4) = some (rec4 true) ∧ s.runs 0 = true ∧
     (s.ctxAt 0).infl = [(2, { flight (.logged 4) with pa := none })] ∧ (s.ctxAt 0).queues = [] ∧ (s.ctxAt 0).cores = [] ∧ s.hst.waits = []) ∧
    (cpu.tr.recs.find? fun r => !r.notice && r.written && r.tag == 4) = none ∧ (cpu.winAt 0).shoot = none ∧
    (({ cpu with win := [(0, { shoot := some (0, 1) })] } : State).winAt 0).shoot = some (0, 1) ∧
    ((1#64 <<< 41).extractLsb' 41 7 ≠ 0#7 ∧ (1#64 <<< 40).extractLsb' 41 7 = 0#7) ∧
    ({ cpu with boot := { stage := .kernel } } : State).boot.stage = .kernel ∧
    (regionOf (128 * (0x8000000000000 / 128)) = some .host ∧ cpu.storesTo (0x8000000000000 / 128) = false ∧
      (flying { stFlight .issued with pa := some (0x8000000000000, 2) }).storesTo (0x8000000000000 / 128) = true) ∧
    (cpu.filterFull 0 = false ∧ cpu.boot.stage = .run ∧ 0 ∉ cpu.hst.held ∧ 127 % 128 + 1 ≤ 128) ∧
    (mapped.rootOf 1 = some { sid := 1, en := true } ∧ (0x2000 : BitVec 64) = ((0x2000 : BitVec 64).setWidth 57).signExtend 64 ∧
     (let x := fun (s : State) (v : Dword) => match s.translate { die := 0, root := { sid := 1, en := true }, user := true, rd := true } v with
        | .ok _ pa _ _ => if regionOf pa = some .herbor then 0 else 1
        | .flt _ _ _ => 2
        | .wait _ => 9
        | .trap _ => 3
      x mapped 0x2000 = 1 ∧ x mapped 0x8000 = 2 ∧ x (mappedAs 0xFB) 0x2000 = 3)) := by decide

/-! ## Bundles, launches, blocks -/

/-- Obligations.BundlesAndSleep: a thread in the pond alone on its core, one a bundle has waited for, one asleep. -/
theorem test_witness_BundlesAndSleep :
    (let s := cpuC fun k => { k with threads := [(0, par (fun p => { p with place := .pond 0 100 false }) thr)], bundles := [] }
     let k := (s.ctxAt 0).coreAt 0
     s.clock % 2 = 0 ∧ s.going 0 = true ∧ k.threads = [(0, k.thrAt 0)] ∧ k.bundles = [] ∧ (k.thrAt 0).par.place = .pond 0 100 false ∧
     0 < s.clock ∧ 100 ≤ s.clock) ∧
    (let s := cpuC fun k => { k with threads := [(0, thr)], bundles := [(0, { lanes := [(0, 0)], waits := [(0, 136)] })] }
     let k := (s.ctxAt 0).coreAt 0
     (k.thrAt 0).par.place = .bundle 0 ∧ tfind (k.bundleAt 0).waits 0 = some 136 ∧ 0 ∉ (k.bundleAt 0).did.map Prod.fst ∧ 136 + 64 ≤ s.clock) ∧
    tfind ((((cpu.ctxAt 0).coreAt 0).bundleAt 0).waits) 0 = none ∧
    ((((cpuT (par fun p => { p with place := .parked (.sleep 200) })).ctxAt 0).coreAt 0).thrAt 0).par.place = .parked (.sleep 200) ∧
    ((ctlC fun c => { c with sleep := some 200 }).ctlAt 0).sleep = some 200 := by decide

/-- A launch record of one block of one thread of 16 registers at 0x1000, OVERLAP, in queue 0 (R167). -/
def record : BitVec 1024 :=
  0x1000#1024 ||| (1#1024 <<< 64) ||| (1#1024 <<< 96) ||| (1#1024 <<< 160) ||| (1#1024 <<< 128) ||| (2#1024 <<< 139) ||| (1#1024 <<< 159)

/-- `mapped` with queue 0 holding one record, and the launches `l`. -/
def queued (h : QRec) (l : Tab Nat Launch) (lines : Bool) : State :=
  let k := mapped.ctxAt 0
  let mem := if lines then memWrite 0x2000 (leBytes record.toNat 128) [] else []
  { mapped with mem := mem, ctxs := [(0, { k with queues := [(0, { cfg := true, recs := [h] })], launches := l })] }

/-- A launch of that record, bound and listed. -/
def launch1 : Launch := { r := { LRec.ofBits record with argw := [9] }, listed := true }

/-- What the distributor reads at an address. -/
def distOf (s : State) (a : Dword) : Nat :=
  match s.distBytes 0 a 128 with
  | .ok _ _ => 0
  | .flt _ _ _ _ => 1
  | .wait _ => 9
  | .bad => 2

/-- Obligations.LaunchesAndBlocks, the queue: a record that is read, misaligned, not canonical, absent and denied; the record's
own checks. -/
theorem test_witness_LaunchRecords :
    (let s := queued { addr := 0x2000 } [] true
     s.boot.stage = .run ∧ (s.ctxAt 0).queueAt 0 = { cfg := true, recs := [{ addr := 0x2000 }] } ∧ s.runs 0 = true ∧ distOf s 0x2000 = 0) ∧
    distOf (queued { addr := 0x8000 } [] false) 0x8000 = 1 ∧ distOf { queued { addr := 0x2000 } [] false with tr := (mappedAs 0xFB).tr } 0x2000 = 2 ∧
    (let ok := fun (a : Dword) => a = (a.setWidth 57).signExtend 64 ∧ a.extractLsb' 0 6 = 0#6
     ok 0x2000 ∧ ok 0x2040 ∧ ¬ok 0x2020 ∧ ¬ok 0x0100000000000000) ∧
    (let r := LRec.ofBits record
     recZero record = true ∧ r.ok = true ∧ r.cohort = false ∧ r.narg = 0 ∧ r.gn = 0 ∧ r.overlap = true) := by decide

/-- Obligations.LaunchesAndBlocks, the rest: a block that can be placed, waits, is done, moves; a launch that is complete; a bin
whose timer has run out. -/
theorem test_witness_LaunchesAndBlocks :
    (let h : QRec := { addr := 0x2000, launch := some 3 }
     let s := queued h [(3, launch1)] false
     let k := s.ctxAt 0
     let r := launch1.r
     (s.partAt 0).active = some 0 ∧ (s.partAt 0).placed ≠ some s.clock ∧ (k.queueAt 0).recs = [h] ∧ k.launchAt 3 = launch1 ∧
     launch1.bound = true ∧ r.overlap = true ∧ r.cohort = false ∧ launch1.listed = true ∧ launch1.grp = [] ∧ launch1.recs = [] ∧
     (ringFrom (s.coreCount 0) 0).find? (fun c => (k.coreAt c).fits r.nthr (8 * r.regn) r.spq) = some 0 ∧
     s.jumpOk (s.physOf 0 0) (launch1.time.getD (s.coreAt (s.physOf 0 0)).lt) = true) ∧
    (let s := queued { addr := 0x2000, launch := some 3 } [(3, { launch1 with since := some 0 })] false
     ((s.ctxAt 0).launchAt 3).since = some 0 ∧ ((s.ctxAt 0).launchAt 3).starved = false ∧ s.clock < 0 + 14400 ∧
     0 + 14400 ≤ ({ s with clock := 14400 } : State).clock) ∧
    (tfind ((cpu.ctxAt 0).coreAt 0).blocks 0 ≠ none ∧ cpu.blockDone 0 0 0 = false ∧
     (cpuT (par fun p => { p with place := .exited })).blockDone 0 0 0 = true ∧ cpu.migrateRefused 0 0 0 1 = false ∧
     cpu.migrateRefused 0 0 0 0 = true ∧ cpu.settled 0 0 0 = true ∧ (((cpu.ctxAt 0).coreAt 0).ofBlk 0).length ≤ 1) ∧
    (let a : Launch := { r := {}, next := 1 }
     a.next = a.r.blocks ∧ a.live = 0 ∧ ({} : Launch).next ≠ ({} : Launch).r.blocks) ∧
    (let s := { binned 1 with clock := 1800 }
     let v := (s.ctxAt 0).binAt 0
     v.timer = some 0 ∧ 0 + 1800 * (v.entry.extractLsb' 92 16).toNat ≤ s.clock ∧ (s.ctxAt 0).halt = none ∧ v.recs ≠ []) ∧
    (State.reset.idle 0 = true ∧ cpu.idle 0 = false ∧ (∀ e ∈ State.reset.parts, e.1 ≠ 0 → ∀ h, e.2.cfg = some h → False)) := by
  refine ⟨by decide, by decide, by decide, by decide, by decide, by decide, by decide, ?_⟩
  simp [State.reset]

/-! ## Scratchpad, engines -/

/-- `mapped` with one wanted page, a transfer, an entry. -/
def swapping (want : List (Nat × Nat)) (x : List Xfer) (e : Tab (Nat × Nat) SttE) : State :=
  let k := mapped.ctxAt 0
  { mapped with ctxs := [(0, { k with cores := [(0, { core0 with want := want, xfers := x, stt := e })] })] }

/-- Every frame of a core with 64 holds a page. -/
def fullFrames : Tab (Nat × Nat) SttE := (List.range 64).map fun f => ((0, f + 1), { res := true, frame := f })

/-- Obligations.ScratchpadPages: a free frame and none, a victim; transfers of a first touch, of a page in memory, of one the
translation refuses, and out of a frame. -/
theorem test_witness_ScratchpadPages :
    (let s := swapping [(0, 0)] [] []
     let k := (s.ctxAt 0).coreAt 0
     (s.ctxAt 0).halt = none ∧ (k.want.filter (s.unserved 0 0)).head? = some (0, 0) ∧ s.xferCount 0 0 < 16 ∧ 0 < s.frameCount 0 ∧
     s.frameFree 0 0 0 = true ∧ ((0, 0) ∈ k.want)) ∧
    (let s := swapping [(0, 0)] [] fullFrames
     let u := ((s.ctxAt 0).coreAt 0).page 0 1
     s.frameCount 0 = 64 ∧ (List.range 64).all (fun g => !s.frameFree 0 0 g) = true ∧ s.pageIn 0 0 (s.coreAt 0).hand = some (0, 0, 0, 1) ∧
     u.pin = 0 ∧ u.infl = false ∧ u.fix = false ∧ u.ref = false) ∧
    (let x : Xfer := { bs := 0, vpn := 0, out := false, frame := 2 }
     let s := swapping [(0, 0)] [x] []
     let k := (s.ctxAt 0).coreAt 0
     k.xfers = [x] ∧ (k.page 0 0).zero = true ∧ (k.blkAt 0).rings = [] ∧ (s.ctxAt 0).infl = []) ∧
    (swapping [] [] []).Inv ∧
    (let at_ := fun (s : State) (b : BitVec 46) (wr : Bool) => match s.xFixer 0 0 b wr with
       | (.ok t pa _ _, _) => if pa % 2048 = 0 ∧ t.coh.reps = [] ∧ t.coh.msgs = [] then 0 else 1
       | (.flt _ _ _, _) => 2
       | (.wait _, _) => 9
       | (.trap _, _) => 3
     let s := swapping [] [] []
     at_ s 4 false = 0 ∧ at_ s 4 true = 0 ∧ at_ s 9 false = 2 ∧ at_ { s with tr := (mappedAs 0xFB).tr } 4 false = 3) := by
  refine ⟨by decide, by decide, by decide, by simp [State.Inv, swapping, mapped, mappedAs, cpuX, cpu, Memory.wf], by decide⟩

/-- `cpu` with commands at its matrix engine. -/
def commands (f : CtxCore → CtxCore) (l : List Cmd) : State := cpuC fun k => { f k with matrix := l }

/-- A command of ACCZ of tile 1, one of a gang, one of MMA on the descriptors of `tensors`. -/
def clears : Cmd := { op := .accz 7 1, hints := {}, fpmode := 0, slot := 0, blk := 0 }

/-- A copy of a page that is not resident. -/
def copies : Cmd := { op := .cp 7 1 2, hints := {}, fpmode := 0, slot := 0, blk := 0, descs := [row 3 0 8, row 3 64 8] }

/-- Obligations.EngineSteps: an empty queue, a command to begin, one with a step to retire, the first and the last; a batch; gang
arrivals before the last, and the last. -/
theorem test_witness_EngineSteps :
    ((cpu.ctxAt 0).coreAt 0).q .matrix = [] ∧
    (let s := commands id [clears]
     s.engineFree 0 0 .matrix = true ∧ clears.busy = none ∧ clears.tags = [] ∧ chainBad ((s.ctxAt 0).coreAt 0) clears = false ∧
     clears.gang = none ∧ clears.hints.event = none ∧ clears.step + 1 = clears.steps.length ∧ clears.nextStep.isSome = true ∧
     ({ clears with step := 1 } : Cmd).nextStep.isNone = true) ∧
    (match copies.nextStep with
     | some f => f.pages == [0]
     | none => false) = true ∧ copies.steps.length = 1 ∧ (((cpu.ctxAt 0).coreAt 0).page 0 0).res = false ∧
    (∃ m : Cmd, m.step + 1 < m.steps.length) ∧
    (cpuT (par fun p => { p with batches := [{ num := 4, left := 0, sealed := true, token := some 3, event := none }] })).me.par.batches =
      [{ num := 4, left := 0, sealed := true, token := some 3, event := none }] ∧
    (let g : Cmd := { clears with gang := some 0 }
     let e : BitVec 128 := (2#128 <<< 124) ||| (2#128 <<< 64) ||| (1#128 <<< 32)
     let la : Launch := { grp := [(0, e)] }
     let s := commands id [g]
     g.inst = none ∧ s.engineFree 0 0 .matrix = true ∧ grpCount e = 2 ∧ 0 + 1 < grpCount (tget 0 la.grp 0) ∧ 2 ≤ 1 + 1 ∧
     (∀ n ∈ s.party 0 0 .matrix { g with inst := some 0 }, n.2.sig = g.sig)) := by
  refine ⟨by decide, by decide, by decide, by decide, by decide, ⟨{ copies with op := .cp 7 1 2, descs := [row 3 0 800, row 3 0 800] }, ?_⟩, by decide, by decide⟩
  decide

/-! ## Halts, contexts, boot -/

/-- A halt of bank 0 by cause 3. -/
def halted (stopped : Bool) : Halt :=
  { start := 0, trap := { cause := 3, tval := 0, pc := 0x1000, unit := 0, core := 0, slot := 0, clk := 0 }, stopped := stopped }

/-- `ctl` at monitor level with `bank0` halted, its stop-record area at `a`. -/
def stopping (stopped : Bool) (a : BitVec 64) (f : Ctx → Ctx) : State :=
  let c := ctl.ctlAt 0
  let k := f { bank0 with halt := some (halted stopped) }
  { ctl with ctl := [(0, { c with t := { c.t with g := [(4, 0), (5, 0x00000001), (6, 1)] } })], ctxs := [(0, k)], win := [(0, { srarea := [(0, a)] })] }

/-- Obligations.HaltsAndThreadItems: a partition that stops with no area, one in memory and one elsewhere; items that exist,
that do not, that are read-only; RESUME of a halted partition and of one whose header has changed. -/
theorem test_witness_HaltsAndThreadItems :
    (let s := stopping false 0 fun k => { k with cores := [] }
     (s.partAt 0).active = some 0 ∧ (s.ctxAt 0).halt = some (halted false) ∧ (s.ctxAt 0).stepping = false ∧ s.areaBase 0 = none ∧
     s.coh.reps = [] ∧ s.coh.msgs = []) ∧ (stopping false 0x100000 id).Inv ∧
    ((stopping false 0x100000 id).areaBase 0 = some 0x100000 ∧ areaThere 0x100000 = true ∧ areaThere 0x00C000000000 = false) ∧
    (let s := stopping true 0 id
     runsB s (.rdts 7 2 4) 7 [2, 3, 4, 5] [] {} .kernel true false = true ∧ runsB s (.wrts 7 2 4) 7 [2, 3, 4, 5] [] {} .kernel true false = true ∧
     runsB s (.resume 7 2 0) 7 [2] [] {} .kernel true false = true ∧ s.haltedBank 0 = some 0 ∧ s.haltedBank 1 = none ∧
     tfind ((s.ctxAt 0).coreAt 0).threads 0 = some thr ∧ 0 < s.coreCount 0 ∧ ((s.me.gr 5).extractLsb' 24 8).toNat = 0 ∧
     ((s.me.gr 5).extractLsb' 0 24).toNat < thr.alloc ∧ (s.ctxAt 0).infl = [] ∧ (s.ctxAt 0).msgs = [] ∧ (s.ctxAt 0).area = [] ∧ s.tr.late = []) ∧
    ([0x00000080, 0x0200000F, 0x0300000F, 0x0400003F, 0x05000001, 0x09000000, 0x0A000000].map fun (v : Word) =>
      ((v.extractLsb' 24 8).toNat, (v.extractLsb' 0 24).toNat)) = [(0, 128), (2, 15), (3, 15), (4, 63), (5, 1), (9, 0), (10, 0)] ∧
    (let s := stopping true 0x100000 fun k => { k with area := [(0, List.replicate 32 1)] }
     (s.ctxAt 0).area = [(0, List.replicate 32 1)] ∧ (List.replicate 32 (1 : Byte)).length = 32 ∧ s.curRead 0x100000 32 ≠ List.replicate 32 1) := by
  refine ⟨by decide, by simp [State.Inv, stopping, ctl, Memory.wf], by decide, by decide, by decide, by decide⟩

/-- `cpu` with bank 1 at `st`, and bank 0 changed. -/
def banks (st : BankState) (f : Ctx → Ctx) : State :=
  { cpu with ctxs := [(0, f bank0), (1, { st := st, root := { sid := 2 } })] }

/-- A checkpoint configuration with a committed checkpoint in area A. -/
def kept : Ckpt := { on := true, us := 1000, areaA := 0x100000, areaB := 0x200000, last := some false, due := true, intv := 2, done := 2 }

/-- Obligations.ContextsAndCheckpoints: the shadow bank in each state, a settled bank, areas, an interval that has run out, a
write before the cut, a committed checkpoint with its image. -/
theorem test_witness_ContextsAndCheckpoints :
    ([BankState.free, .ready, .fill, .spill, .snap].all fun b => ((banks b id).ctxAt 1).st == b) = true ∧
    ((banks .free id).partAt 0).active = some 0 ∧ ((banks .free id).partAt 0).cfg ≠ none ∧ ((banks .free id).ctxAt 1).root.sid ≠ 0 ∧
    areaThere 0x100000 = true ∧ areaThere 0x00C000000000 = false ∧ tfind (banks .free id).images 0x100000 = none ∧
    (let s := { banks .spill id with parts := [(0, { cfg := some { first := 0, count := 64, s := 0 }, active := some 0 })] }
     (s.partAt 0).active = some (1 - 1) ∧ (s.partAt 0).swap = none ∧ (s.ctxAt 1).st = .spill ∧ (s.ctxAt 0).st = .active ∧
     (s.ctxAt 1).settled = true) ∧
    (let s := { banks .snap (fun k => { k with ckpt := kept, infl := [(2, stFlight .issued)] }) with clock := 1800000 }
     (s.ctxAt 0).ckpt.on = true ∧ (s.ctxAt 0).ckpt.start + 1800 * (s.ctxAt 0).ckpt.us ≤ s.clock ∧ (s.ctxAt 0).ckpt.due = true ∧
     (∃ e ∈ (s.ctxAt 0).infl, e.2.unapplied = true ∧ e.2.phase ≠ .held ∧ e.2.epoch < (s.ctxAt 0).ckpt.intv)) ∧
    (let i : Ctx := { st := .active }
     let s := { banks .free (fun k => { k with ckpt := { kept with log := [{ line := 3, old := List.replicate 64 7, intv := 2 }] } }) with images := [(0x100000, i)] }
     let c := (s.ctxAt 0).ckpt
     c.last = some false ∧ tfind s.images (if false then c.areaB else c.areaA) = some i ∧ i.area = [] ∧ (s.ctxAt 0).infl = [] ∧ s.tr.late = [] ∧
     (∀ r ∈ c.log, c.done ≤ r.intv ∧ r.old.length = 64 ∧ 64 * r.line < 0x00C000000000 ∧ r.intv = c.intv) ∧ s.coh.reps = [] ∧ s.coh.msgs = []) ∧
    (let c : Ckpt := {}
     ¬(c.on = true ∧ c.last ≠ none)) ∧ (banks .free id).Inv := by
  refine ⟨by decide, by decide, by decide, by decide, by decide, by decide, by decide, by decide, by decide, by decide, by decide,
    by simp [State.Inv, banks, cpu, Memory.wf]⟩

/-- An image. -/
def image : Image := { body := [1], key := [2], sig := [3], version := 0 }

/-- Obligations.BootAndPower: each stage; slots that are empty; demands that fit; temperatures at the limits. That an image is
accepted depends on the open functions of log 11: both cases are hypotheses, and one of them holds. -/
theorem test_witness_BootAndPower :
    ([Stage.off, .rom, .firmware, .cores, .started, .kernel, .run, .stopped].all fun g =>
      ({ State.reset with boot := { stage := g, slotA := some image, booted := some false } } : State).boot.stage == g) = true ∧
    State.reset.boot.slotA = none ∧ (State.reset.winAt 0).telem = 0 ∧ State.reset.power.halved = false ∧ [1000, 1000, 1000, 1000].length = 4 ∧
    [1000, 1000, 1000, 1000].sum ≤ 4200 - 200 ∧ 100 * 16 ≤ 1600 ∧ 1599 < 100 * 16 ∧ (∀ t ∈ [1519], t < 95 * 16) ∧ 95 * 16 ≤ 1520 ∧
    110 * 16 ≤ 1760 ∧ 1759 < 110 * 16 ∧ (List.replicate 32 (0 : Byte)).length = 32 ∧ 0 + 8 ≤ 2 ^ 36 := by decide

/-! ## Decoding, fetching, the invariant -/

/-- Obligations.DecodeOfEncode and Obligations.EncodeOfDecode. -/
theorem test_witness_RoundTrip : (Instr.exit 7).isWord = true ∧ (Instr.exit 7).wf = true ∧ decode 0x8B800003 = some (.exit 7) := by decide

/-- A control core with the word at its program counter, and a compute thread with one at 0x2000 in its L1's line. -/
def fetching (t : Tid) : State :=
  let m := memWrite 0x2000 (leBytes 0x8B800003 4) []
  let k := mapped.ctxAt 0
  let th : Thread := { thr with pc := 0x2000 }
  let c : CtxCore := { core0 with threads := [(0, th)] }
  let q : Ctl := { t := { pc := 0x2000 }, running := true }
  { mapped with cur := t, mem := m, ctxs := [(0, { k with cores := [(0, c)] })], ctl := [(0, q)] }

/-- The word a fetch reads. -/
def fetched (s : State) : Option (BitVec 32) :=
  match s.fetch s.cur with
  | .word _ w => some w
  | _ => none

/-- Obligations.StepRunsDecoded: a control core and a compute thread that fetch a word; one that takes an interrupt. -/
theorem test_witness_StepRunsDecoded :
    (let s := fetching (.ctl 0)
     s.agenda = [] ∧ s.boot.stage = .run ∧ (s.ctlAt 0).running = true ∧ (s.ctlAt 0).stopped = false ∧ (s.ctlAt 0).takes = none ∧
     (s.ctlAt 0).wfi = false ∧ (s.ctlAt 0).sleep = none ∧ fetched s = some 0x8B800003 ∧ 0x2000 % 4 = 0) ∧
    (PlainAt (fetching (.ctl 0)) 0 0x2000 ∧ TimeFor (fetching (.ctl 0)) 0 0x2000 false) ∧
    (let s := fetching (.cmp 0 0 0)
     let k := (s.ctxAt 0).coreAt 0
     s.going 0 = true ∧ tfind k.threads 0 = some (k.thrAt 0) ∧ (s.ctxAt 0).hitBy 0 0 = false ∧ (s.ctxAt 0).fetching 0 0 = false ∧
     (k.thrAt 0).par.place = .bundle 0 ∧ 0 ∉ (k.bundleAt 0).did.map Prod.fst ∧ fetched s = some 0x8B800003) ∧
    ((ctlC fun c => { c with irqs := [3], pl := .kernel, running := true, kset := { c.kset with ie := true } }).ctlAt 0).takes = some 3 := by
  refine ⟨by decide, ⟨by unfold PlainAt; decide, by unfold TimeFor; decide⟩, by decide, by decide⟩

/-- Obligations.StepKeepsInv. -/
theorem test_witness_StepKeepsInv : State.reset.Inv := by simp [State.Inv, State.reset, Memory.wf]

/-! ## Further witnesses: cases that the statements above name beside the plain ones -/

/-- Obligations.CsrWords, TrapCsrs, TrapEntry: a CSR above the level; KCTX with and without a reserved bit; a core that stops. -/
theorem test_witness_more_csrs :
    ((cpu.level cpu.cur).num < (csrLevel 0x100).num ∧ csrAssigned 0x100 = true ∧ (3 : BitVec 7).toNat < cpu.me.alloc ∧
      ({} : HintUse).ok true cpu.me.hints = true) ∧
    (((ctl.ctlAt 0).setCsr 0x10C 0x1F).isSome = true ∧ ((ctl.ctlAt 0).setCsr 0x10C 0x20).isSome = false) ∧
    (0 % 5 ≠ 4 ∧ (ctl.ctlAt 0).stopped = false) := by decide

/-- Obligations.InterruptsAndWfi: a core between two words, one that sleeps, one whose EVWAIT and one whose load waits. -/
theorem test_witness_more_interrupts :
    (let c := ctl.ctlAt 0
     c.sleep = none ∧ c.t.iss = none) ∧
    (ctlC fun c => { c with sleep := some 300 }).ctlAt 0 ≠ ctl.ctlAt 0 ∧ ((ctlC fun c => { c with sleep := some 300 }).ctlAt 0).sleep ≠ none ∧
    ((ctlC fun c => { c with t := { c.t with iss := some (.evwait 7 3) } }).ctlAt 0).t.iss = some (.evwait 7 3) ∧
    ((ctlC fun c => { c with t := { c.t with iss := some (.exit 7) } }).ctlAt 0).t.iss ≠ none := by decide

/-- Obligations.Fp64Arithmetic, SpecialFunctions, Conversions: values of each kind, a result out of range on either side, modes. -/
theorem test_witness_more_floats :
    (fp64.dec 0x7FF8000000000000 = .nan false ∧ fp64.dec 0x7FF0000000000001 = .nan true ∧ fp64.dec 0xBFF0000000000000 = .fin true (2 ^ 52 - 1 + 1) (-52) ∧
      fp64.dec 0x3FF0000000000000 = .fin false (2 ^ 52 - 1 + 1) (-52) ∧ fp64.dec 1 = .fin false (0 + 1) (-1074) ∧
      (∃ n, fp64.dec 0x7FEFFFFFFFFFFFFF = .fin false (n + 1) 971)) ∧
    (fp32.dec 0x3F800000 = .fin false (2 ^ 23 - 1 + 1) (-23) ∧ fp32.dec 0xBF800000 = .fin true (2 ^ 23 - 1 + 1) (-23) ∧ bf16.dec 0x3F80 = .fin false 128 (-7) ∧
      fp32.dec 0xFF800000 = .inf true ∧ fp32.dec 0 = .fin false 0 (-149)) ∧
    (cpu.me.fpmode.extractLsb' 8 5 = 0 ∧ ({} : Deliver).rm ≠ .sr ∧ e2m1.dec 7 = .fin false 3 1 ∧ bf16.dec 0x7F80 = .inf false) := by
  refine ⟨⟨by decide, by decide, by decide, by decide, by decide, ⟨2 ^ 53 - 2, by decide⟩⟩, by decide, by decide⟩

/-- Obligations.TeamResults: a NaN, infinities of both signs, finite values, and no value at all. -/
theorem test_witness_more_teams :
    (fp32.decDaz false 0x7FC00000).isNan = true ∧ fp32.decDaz false 0x7F800000 = .inf false ∧ fp32.decDaz false 0xFF800000 = .inf true ∧
    (fp32.decDaz false 0x3F800000).isNan = false ∧ ([] : List Word) = [] ∧ ([0x3F800000] : List Word) ≠ [] := by decide

/-- Obligations.KeysAndSpawn and Barriers: the parent is listed; the last of two threads arrives, the other waiting at BAR. -/
theorem test_witness_more_barriers :
    (0 ∈ ((cpu.ctxAt 0).coreAt 0).threads.map Prod.fst) ∧
    (let s := two id (par fun p => { p with barArr := 1, place := .parked (.bar 0) })
     s.me.par.barArr.getLsbD 0 = false ∧ (((s.ctxAt 0).coreAt 0).threads.map Prod.fst).Nodup ∧ s.me.live = true ∧
     (∀ e ∈ ((s.ctxAt 0).coreAt 0).threads, e.1 ≠ 0 → e.2.live = true → e.2.par.blk = s.me.par.blk → e.2.par.barArr.getLsbD 0 = true) ∧
     (((s.ctxAt 0).coreAt 0).thrAt 1).parkedAt (.bar 0) = true) ∧ (∀ w, cpu.me.par.place ≠ .parked w) :=
  ⟨by decide, by decide, fun _ h => nomatch h⟩

/-- The last arrival at a barrier inverts its phase and frees the thread that waits (R152). -/
theorem test_last_arrival :
    (match exec (.bar 7 0 .none) (two id (par fun p => { p with barArr := 1, place := .parked (.bar 0) })) with
     | .next t => decide ((t.blkOf t.cur).phase.getLsbD 0 = true ∧ t.me.pc = 0x1004 ∧ (t.thr (.cmp 0 0 1)).pc = 0x1004 ∧
        (t.thr (.cmp 0 0 1)).par.place = .pond 200 200 false ∧ (t.thr (.cmp 0 0 1)).par.barArr = 0)
     | _ => false) = true := by decide

/-- `grouped` with every block of the launch placed. -/
def placed : State :=
  let s := grouped none
  s.modCtx 0 fun k => { k with launches := k.launches.map fun e => (e.1, { e.2 with next := 2 }) }

/-- Obligations.TicketsAndCounters: the last arrival at BARG; SYNCT that is complete; a counter with a time; a word that has waited;
a bin that waits for no event. -/
theorem test_witness_more_counters :
    (let la := (placed.ctxAt 0).launchAt (placed.blkOf placed.cur).launch
     grpLast (tget 0 la.grp 0) (tget [] la.lists 0) < la.next ∧ (((placed.ctxAt 0).coreAt 0).threads.map Prod.fst).Nodup ∧
     (((placed.ctxAt 0).members 0).filter fun m => (((placed.ctxAt 0).coreAt m.1).blkAt m.2).launch == 0) = [(0, 0)] ∧
     (∀ u ∈ ((placed.ctxAt 0).coreAt 0).liveOf 0, ((0 : Nat), u.1) ≠ (0, 0) → u.2.par.barg = some 0)) ∧
    (({ mask := 1 } : Synct).broken = false) ∧
    (let s := cpuX fun k => { k with evT := [(3, 7)], evE := [((3, 0, 0), 9)] }
     laterOpt (tfind (s.ctxAt 0).evT 3) (tfind (s.ctxAt 0).evE (3, 0, 0)) = some 9 ∧ s.jumpOk (s.phys s.cur) 9 = true ∧ (s.ctxAt 0).evAt 3 = 0) ∧
    ((cpuT (par fun p => { p with place := .parked (.evwait 3) })).me.parkedAt (.evwait 3) = true) ∧
    (∀ b ∈ (cpu.ctxAt 0).bins, binEvent b.2.entry ≠ some 3) ∧ BankHolds cpu 0 ∧ BankHolds ctl 0 ∧
    BankHolds (ctlC fun c => { c with t := { c.t with iss := some (.evwait 7 3) } }) 0 := by
  refine ⟨by decide, by decide, by decide, by decide, by decide, ?_, ?_, ?_⟩ <;> (unfold BankHolds; decide)

/-- Obligations.Messages: an endpoint of the package that is a live block's ring; a message of another package; times of a ring. -/
theorem test_witness_more_messages :
    (let s := ringed 0 (msg none)
     (∀ e ∈ (s.ctxAt 0).msgs, e.1 < 3 → e.2.status ≠ none) ∧ (s.ctxAt 0).blockOf 0 0 = some (0, 0)) ∧
    ({ msg (some 1) with src := some 1 } : RMsg).src ≠ none ∧ (msg (some 1)).src = none ∧
    (({ h := 0, l := 2, time := some 5 } : Ring).time = some 5 ∧ cpu.jumpOk (cpu.phys cpu.cur) 5 = true) := by decide

/-- Obligations.OrderingAndCaches: what FENCE, ACQ and REL wait for, present, absent and past; a control core with a store on its
way; a line that another store of the core is to reach. -/
theorem test_witness_more_ordering :
    (ctl.ctlAt 0).wb = [] ∧ cpu.me.met = false ∧ (cpuT fun t => { t with met := true }).me.met = true ∧
    (cpuC fun k => { k with blocks := [(0, { nthr := 1, spq := 1, unack := 1 })] }).blkOf cpu.cur ≠ cpu.blkOf cpu.cur ∧
    ((cpuC fun k => { k with blocks := [(0, { nthr := 1, spq := 1, unack := 1 })] }).blkOf cpu.cur).unack ≠ 0 ∧
    (∀ f ∈ (bound.ctxAt 0).infl, f.2.ofThread 0 0 = false ∧ (bound.ctxAt 0).beforeOf (bound.ctxAt 0).nextId 0 0 f = false) ∧
    (bound.blkOf bound.cur).unack = 0 ∧ (cpuT fun t => { t with entry := some 1 }).me.entry.getD 0 = 1 := by decide

/-- Obligations.AccumulatorTiles: cells and values of mode 0 on both sides of its bounds. -/
theorem test_witness_more_tiles :
    (fa56.dec 0 = .fin false 0 979 ∨ ∃ e, fa56.dec 0 = .fin false 0 e) ∧ (∃ n e, fa56.dec 0x7FFFFFFFFFFFFF = .fin false n e) ∧
    (∃ n e, fp32.dec 0x3F800000 = .fin false n e) ∧ (fp32.dec 0x7F800000 = .inf false) ∧ ((0x00007F7F : Word) &&& 0xFFF08080 = 0) := by
  refine ⟨.inr ⟨_, rfl⟩, ⟨_, _, rfl⟩, ⟨_, _, rfl⟩, by decide, by decide⟩

/-- Obligations.FabricEvents: a message of every kind has arrived; L2 has room; a link is up. -/
theorem test_witness_more_fabric :
    ([MKind.readS, .readOwn, .upgrade, .evictC, .writeBack, .fwdS, .fwdOwn, .inv, .grantM, .data].all fun k =>
      (line64 {} [m64 k] []).arrived k 64 1 == some (m64 k)) = true ∧ (line64 {} [] []).coh.l2.length ≤ 16384 ∧
    (line64 {} [] []).linkUp 0 2 = true ∧ (line64 {} [] []).boot.stage ≠ .off ∧ (line64 {} [] []).quiet 64 = true ∧
    sliceKey 64 = sliceKey 64 ∧ (line64 {} [m64 .writeBack] []).msgOf .evictC 64 1 = none := by decide

/-- Obligations.TimeAndReturns: power; a store of 16 bytes whose first word is still to come. -/
theorem test_witness_more_time :
    cpu.boot.stage ≠ .off ∧ ({ stFlight .issued with size := 16 } : InFlight).half = false ∧
    ({ stFlight .issued with size := 16 } : InFlight).size = 16 := by decide

/-- Obligations.FaultsWindowAndHost: a filter that is full. -/
theorem test_witness_full_filter :
    ({ cpu with hst := { held := List.replicate (2 ^ 20) 0 } } : State).filterFull (lineHome 0) = true := by
  have h : ∀ n, ((List.replicate n 0).filter fun l => lineHome l == lineHome 0).length = n := fun n => by
    rw [List.filter_replicate]; simp only [beq_self_eq_true, if_true, List.length_replicate]
  simp only [State.filterFull, h, le_refl, decide_true]

/-- Obligations.FaultsWindowAndHost: a write and an atomic from outside, to memory that nothing else holds; a host line past the
floor. -/
theorem test_witness_more_window :
    (let x := fun (rd : Bool) => match mapped.translate { die := 0, root := { sid := 1, en := true }, user := true, rd := rd, wr := true } 0x2000 with
        | .ok s pa _ _ => regionOf pa != some .herbor && s.coh.reps.isEmpty && s.coh.msgs.isEmpty && s.hst.held.isEmpty && s.mem.isEmpty &&
            s.cores.all fun e => e.2.frames.isEmpty
        | _ => false
     x false = true ∧ x true = true ∧ (0x2000 : BitVec 64).toNat % atomSize .add64 = 0) ∧
    (tle (5 : BitVec 24) 7 = true ∧ (5 : BitVec 24) ≠ 7) ∧ 0x310 < 0x400 := by decide

/-- Obligations.BundlesAndSleep: a cycle already done in this clock, and not. -/
theorem test_witness_more_bundles :
    ((cpuC fun k => { k with formed := some 200 }).ctxAt 0).coreAt 0 ≠ (cpu.ctxAt 0).coreAt 0 ∧
    (((cpuC fun k => { k with formed := some 200 }).ctxAt 0).coreAt 0).formed = some cpu.clock ∧
    ((cpu.ctxAt 0).coreAt 0).formed ≠ some cpu.clock := by decide

/-- Obligations.LaunchesAndBlocks: the counters at the head of a queue; cores that are not excluded; counts of partitions; a spawned
block. -/
theorem test_witness_more_launches :
    (∀ n, n < 64 → (({ addr := 0, fired := 2 ^ 64 - 1 } : QRec).fired.getLsbD n = true ↔ (cpu.ctxAt 0).evAt n = 0)) ∧
    (let s := queued { addr := 0x2000, launch := some 3 } [(3, launch1)] false
     (ringFrom (s.coreCount 0) 0).find? (fun c => !s.fenced.contains (s.physOf 0 c) &&
      ((s.ctxAt 0).coreAt c).fits launch1.r.nthr (8 * launch1.r.regn) launch1.r.spq) = some 0) ∧
    (∃ m ∈ [1, 2, 4, 8], 0 + 1 ≤ m ∧ m ≤ 0 + 1 + (8 - (512 / 64 + 0))) ∧ ¬(∃ m ∈ [1, 2, 4, 8], 2 + 1 ≤ m ∧ m ≤ 2 + 1 + (8 - (64 / 64 + 7))) ∧
    (let b : Block := { spawned := true, bidx := 0x80000000 }
     b.spawned = true ∧ b.groups = []) := by
  refine ⟨by decide, by decide, by decide, by decide, by decide⟩

/-- Obligations.ScratchpadPages: a page that has migrated and stays held; a page written out to HBM, for a fault and for none. -/
theorem test_witness_more_pages :
    (let s := swapping [(0, 0)] [{ bs := 0, vpn := 0, out := false, frame := 2 }] [((0, 0), { zero := false, held := some (3, 5) })]
     let u := ((s.ctxAt 0).coreAt 0).page 0 0
     u.zero = false ∧ u.held = some (3, 5)) ∧
    (let s := swapping [] [{ bs := 0, vpn := 0, out := true, frame := 2 }] [((0, 0), { zero := false, fix := true, baddr := 4 })]
     (match s.xFixer 0 0 4 true with
      | (.ok t pa _ _, _) => t.coh.reps.isEmpty && t.coh.msgs.isEmpty && t.hst.held.isEmpty && decide (pa % 2048 = 0) && decide (pa < 0x00C000000000)
      | _ => false) = true ∧ ((0, 0) ∉ ((s.ctxAt 0).coreAt 0).want)) ∧
    (let s := swapping [(0, 1)] [{ bs := 0, vpn := 0, out := true, frame := 2, want := some (0, 0, 1) }] []
     let k := (s.ctxAt 0).coreAt 0
     (0, 1) ∈ k.want ∧ (k.page 0 1).fix = false ∧ s.runs 0 = true) := by decide

/-- A tensor of `n` elements in each of `m` rows. -/
def grid (fmt base n m : BitVec 512) : BitVec 512 :=
  (1 <<< 499) ||| (1 <<< 498) ||| (2 <<< 495) ||| (fmt <<< 491) ||| (base <<< 434) ||| (n <<< 160) ||| (m <<< 192) ||| (64 : BitVec 512)

/-- `cpu` with the command `m` at its matrix engine and page 0 in a frame whose first byte is `b`. -/
def atWork (b : Byte) (m : Cmd) : State :=
  { commands (fun k => { k with stt := [((0, 0), { res := true, zero := false })] }) [m] with cores := [(0, { frames := [(0, b)] })] }

/-- What the first step of a command computes there. -/
def firstEffect (b : Byte) (m : Cmd) : Option Bool :=
  let s := atWork b m
  m.nextStep.map fun t => (t.clear || decide (t.n0 < t.n1)) &&
    (({ s := s, x := 0, c := 0, blk := 0 } : Env).effect ((s.ctxAt 0).coreAt 0) m t).isSome

/-- A command on some descriptors. -/
def cmdOn (i : Instr) (l : List (BitVec 512)) : Cmd := { clears with op := i, descs := l }

/-- Obligations.EngineSteps: a first step of every kind of command computes something; a chain with an operation code that is none
does not; a step finds its pages resident. -/
theorem test_witness_StepResult_copies :
    ([cmdOn (.cp 7 1 2) [row 6 0 8, row 6 64 8], cmdOn (.cpc 7 1 2) [row 8 0 8, row 6 64 8], cmdOn (.cpz 7 1) [row 6 0 8],
      cmdOn (.accst 7 1 1) [grid 6 0 2 2], cmdOn (.accld 7 1 1) [grid 6 0 2 2], clears, cmdOn (.chset 7 1) [row 3 64 2],
      cmdOn (.chain 7 1 2) [row 6 0 8, row 6 64 8], cmdOn (.chain2 7 1 2) [row 6 0 8, row 6 64 8, row 6 128 8],
      cmdOn (.dodge 7 1 2 3) [row 6 0 8]].all fun m => firstEffect 0 m == some true) = true ∧
    firstEffect 99 (cmdOn (.chset 7 1) [row 3 0 2]) = some false ∧
    (let s := atWork 0 (cmdOn (.cp 7 1 2) [row 6 0 8, row 6 64 8])
     let k := (s.ctxAt 0).coreAt 0
     (match (cmdOn (.cp 7 1 2) [row 6 0 8, row 6 64 8]).nextStep with
      | some f => f.pages == [0] && f.gpages.isEmpty && !k.pageWaits .matrix 0 f
      | none => false) = true ∧ (k.page 0 0).res = true ∧ (k.page 0 0).pin = 0 ∧ s.olderStores 0 0 clears = false) := by decide

/-- Obligations.EngineSteps: the products and the scores. -/
theorem test_witness_StepResult_products :
    ([cmdOn (.mma 7 1 2 0) [grid 5 0 4 2, grid 5 128 4 2], cmdOn (.mmaz 7 1 2 0) [grid 5 0 4 2, grid 5 128 4 2],
      cmdOn (.mmam 7 1 2 0) [grid 5 0 4 2, grid 5 128 4 2], cmdOn (.dmma 7 1 2 0) [grid 7 0 4 2, grid 7 128 4 2],
      cmdOn (.mmab 7 1 2 0) [grid 5 0 4 2, grid 5 128 4 2], cmdOn (.mmas 7 1 2 0) [grid 5 0 4 2, grid 5 128 8 2, grid 1 256 2 2],
      cmdOn (.scout 7 1 2) [row 6 0 1, row 5 64 4, grid 5 128 4 2]].all fun m =>
        firstEffect 0 { m with kmask := 2 ^ 256 - 1 } == some true) = true := by decide

/-- Obligations.HaltsAndThreadItems: an area in HBM; what a unit with a command shows; RESUME of an area that is there. -/
theorem test_witness_more_halts :
    0x100000 % 4096 = 0 ∧ 0x100000 < 0x00C000000000 ∧ ((((commands id [clears]).ctxAt 0).coreAt 0).q .matrix).head? = some clears ∧
    areaThere 0x100000 = true ∧ (stopping true 0x100000 id).areaBase 0 = some 0x100000 := by decide

/-- Obligations.ContextsAndCheckpoints: faults of the active bank; entries with a reserved bit and without; a root that is not
enabled; a unit excluded; what was lost. -/
theorem test_witness_more_contexts :
    (cpu.activeFaults 0 = false ∧ (swapping [(0, 0)] [] []).activeFaults 0 = true) ∧
    (cpu.bindRsv 0x100000 = false ∧ ({ cpu with mem := memWrite 0x100020 (List.replicate 24 0xFF) [] } : State).bindRsv 0x100000 = true) ∧
    (({} : Root).en = false ∧ ({ sid := 2, en := true } : Root).en = true ∧ ({ sid := 2, en := true } : Root).sid ≠ 0) ∧
    (cpu.fencedIn 0 = false ∧ ({ cpu with parts := [(0, { cfg := none, active := some 0 })] } : State).fencedIn 0 = true) ∧
    cpu.boot.stage ≠ .off ∧ kept.roll = false ∧ (∀ r ∈ kept.log, r.line ≠ 5 ∨ r.intv ≠ kept.intv) := by
  refine ⟨by decide, by decide, by decide, by decide, by decide, by decide, by decide⟩

/-- Obligations.BootAndPower: an epoch that is due; a page in HBM; demands above the budget; the dump of a stop. -/
theorem test_witness_more_power :
    (14400 * (State.reset.power.epochs + 1) ≤ ({ State.reset with clock := 14400 } : State).clock ∧ State.reset.power.telemW = [] ∧
      0x4000 < 0x00C000000000 ∧ 0x4000 % 4096 = 0) ∧ (4200 - 600) / 1 < [1200, 1100, 700, 800].sum ∧
    ({ stage := .run, dumped := some 3 } : Boot).dumped ≠ none ∧ 0x1000 < 0x00C000000000 ∧ 0x1000 % 4 = 0 := by decide

/-- Obligations.StepRunsDecoded: a bundle that has fetched nothing; threads that hold no issued word; nothing that goes on alone. -/
theorem test_witness_more_steps :
    (let s := fetching (.cmp 0 0 0)
     let k := (s.ctxAt 0).coreAt 0
     (k.bundleAt 0).op = none ∧ (k.bundleAt 0).did = [] ∧ k.inOrder 0 = [0] ∧ (k.thrAt 0).iss = none ∧
     (match s.fetch (.cmp 0 0 0) with
      | .word s1 _ => s1.late 0 0 0 (.exit 7) [0] == []
      | _ => false) = true) ∧
    ((ctl.ctlAt 0).wb = [] ∧ (ctl.coreAt 0).prefs = [] ∧ thr.par.place ≠ .parked .split) ∧
    ((ctlC fun c => { c with t := { c.t with iss := some (.exit 7) } }).ctlAt 0).t.iss = some (.exit 7) := by decide

/-! ## Waits, and the edges of the clauses about them -/

/-- `mapped` with nothing in its TLBs, a table at address 0 (entry 0 points to the table itself, entry 1 is the leaf of page 0x1000, not
accessed) whose line the host holds, and the bank changed. -/
def heldWalk (f : Ctx → Ctx) : State :=
  { mapped with ctxs := [(0, f (mapped.ctxAt 0))], mem := memWrite 0 (leBytes ((0x223F <<< 64) ||| 1) 16) [], tr := {}, hst := { held := [0] } }

/-- Every form of access whose walk waits for the host's line (R346): a word's, the Fixer's, the distributor's, the Herbor port's, an engine's
page. -/
theorem test_witness_waiting_walks :
    (let s := heldWalk id
     let waits := fun (r : XRes) => match r with
       | .wait u => u.hst.inval == [0]
       | _ => false
     waits (s.xThread s.cur (xreqOf (.st 7 4 1 .offset .w32 0)) 0x1000).1 = true ∧
     waits (s.xThread s.cur (xreqOf (.acq 7 4 3 .blk)) (bindObj (0x1008#192 ||| 1))).1 = true ∧
     waits (s.xFixer 0 0 2 false).1 = true ∧ waits (s.translate { die := 0, root := { sid := 1, en := true }, user := true, rd := true } 0x1000) = true ∧
     (match s.distBytes 0 0x1000 128 with
      | .wait _ => true
      | _ => false) = true ∧ s.ctxRoot 1 = some { sid := 1, en := true } ∧ mapped.ctxRoot 1 = some { sid := 1, en := true } ∧ s.ctxRoot 2 = none) ∧
    (({ s := mapped } : Found).wait = false) := by decide

/-- Obligations.CsrWords and Obligations.OrderingAndCaches: CSRR of LTIME with an access out and without; ACQ that has its value and
that has none. -/
theorem test_witness_time_and_acq :
    loading.timePending = true ∧ mapped.timePending = false ∧ (0x028 : BitVec 12).toNat = 0x028 ∧ ctl.timePending = false ∧
    (cpuT fun t => { t with acq := some 9 }).me.acq = some 9 ∧ bound.me.acq = none := by decide

/-- Obligations.OrderOfChecks and Obligations.InterruptsAndWfi: EXIT with a hint, on a control core, and under a false guard; no power. -/
theorem test_witness_exit_shapes :
    isCtl ctl.cur = true ∧ (cpuT fun t => { t with hints := { hm := some 0x200000 } }).me.hints.sat = true ∧ isCtl cpu.cur = false ∧
    cpu.me.hints = {} ∧ cpu.me.pend = [] ∧ cpu.me.guard 2 = false ∧
    ({ cpu with boot := { stage := .off } } : State).boot.stage = .off := by decide

/-- Obligations.GlobalAccesses: a control core between the halves of 16 bytes. Obligations.SpecialFunctions: a subnormal, a signalling NaN, an infinity. -/
theorem test_witness_halves :
    (ctlC fun c => { c with part := some [1, 2, 3, 4, 5, 6, 7, 8] }).ctlAt 0 ≠ ctl.ctlAt 0 ∧ (ctl.ctlAt 0).part = none ∧ (ctl.ctlAt 0).half = none ∧
    ((ctlC fun c => { c with part := some [] }).ctlAt 0).part = some [] ∧ szBytes .w128 = 16 ∧ szBytes .w64 ≠ 16 ∧
    (fp32.dec 0x80000001 matches .fin true 1 _) ∧ (fp32.dec 0x7F800001 matches .nan true) ∧ (fp32.dec 0xFF800000 matches .inf true) := by
  refine ⟨by decide, by decide, by decide, by decide, by decide, by decide, by decide, by decide, by decide⟩

/-- Two loads of one request to the L1, of lanes 0 and 1. -/
def pair : State :=
  cpuX fun k => { k with infl := [(2, { flight .issued with req := some 2 }), (3, { flight .issued with req := some 2, slot := 1 })] }

/-- Obligations.TimeAndReturns: a load of a request of its own and two of one request, both with their bytes. -/
theorem test_witness_requests :
    (flight .issued).req = none ∧ (flight .issued).got = some [1, 2, 3, 4] ∧
    (pair.ctxAt 0).olderMeets 2 { flight .issued with req := some 2 } InFlight.blocksLoad = false ∧
    (pair.ctxAt 0).olderMeets 3 { flight .issued with req := some 2, slot := 1 } InFlight.blocksLoad = false := by decide

/-- Obligations.LaunchesAndBlocks: a bin that waits for a record, one whose template is denied, absent, and there. -/
theorem test_witness_bin_templates :
    (let v : Bin := { entry := binEntry, recs := [[1]], timer := some 0, tag := some 4 }
     v.tag ≠ none ∧ ({ v with tag := none } : Bin).tag = none) ∧ distOf { mapped with tr := (mappedAs 0xFB).tr } 0x2010 = 2 ∧
    distOf mapped 0x8010 = 1 ∧ distOf mapped 0x2010 = 0 := by decide

/-- Obligations.EngineSteps, Obligations.HaltsAndThreadItems: a partition that has stopped; the bank that a save brings out; an area of which the
host holds a line. -/
theorem test_witness_stopped_banks :
    (∀ y ∈ [2 * 0, 2 * 0 + 1], ∀ h, ((stopping true 0 id).ctxAt y).halt = some h → h.stopped = true) ∧
    (∃ h, ((stopping true 0 id).ctxAt 0).halt = some h ∧ h.stopped = true) ∧ (cpu.ctxAt 0).halt = none ∧
    (let s := { stopping false 0 fun k => { k with st := .spill } with parts := [(0, { cfg := some { first := 0, count := 64, s := 0 } })] }
     (s.ctxAt 0).st = .spill ∧ (s.partAt 0).active = none ∧ (s.ctxAt 1).halt = none ∧ (s.ctxAt 0).halt = some (halted false)) ∧
    (let s := { stopping false 0x100000 id with hst := { held := [0x2000] } }
     s.areaBase 0 = some 0x100000 ∧ 0x2000 ∈ s.hst.held ∧ 0x100000 / 128 ≤ 0x2000 ∧ 0x2000 ≤ (0x100000 + (2 ^ 27 + 2 ^ 15)) / 128) := by
  refine ⟨?_, ⟨halted true, by decide⟩, by decide, by decide, by decide⟩
  intro y hy h
  simp only [List.mem_cons, List.not_mem_nil, or_false] at hy
  rcases hy with rfl | rfl
  · intro e; cases e; rfl
  · intro e; cases e

/-- Obligations.ContextsAndCheckpoints: an atomic on its way, which puts the cut off; a write behind no held one. -/
theorem test_witness_cuts :
    (let a : InFlight := { flight .issued with op := .atom 7 3 1 .add32 5 .die, got := none }
     let k := { bank0 with ckpt := kept, infl := [(2, a)] }
     k.cuttable = false ∧ k.leaving = false ∧ (2 ∉ k.stuck fun f => f.phase == .held)) ∧
    ({ bank0 with ckpt := kept, infl := [] } : Ctx).cuttable = true ∧ bank0.halt = none := by decide

/-- Obligations.BootAndPower: an epoch that is due and one that is not; a dump of which some bytes have been read; a first slot that is read
in. -/
theorem test_witness_dumps :
    (({ State.reset with clock := 14400 } : State).power.last + 14400 ≤ 14400 ∧ ¬({ clock := 14400, power := { last := 1 } } : State).power.last + 14400 ≤ 14400) ∧
    (let b : Boot := { stage := .run, dumped := some 3, taken := [(0, 8)] }
     b.dumped ≠ none ∧ (∀ e ∈ b.taken, ¬(0x028000000000 - 2 ^ 36 + e.1 ≤ 0x028000000000 - 8 ∧ 0x028000000000 - 8 < 0x028000000000 - 2 ^ 36 + e.1 + e.2))) ∧
    (let b : Boot := { stage := .rom, slotA := some image, slotB := some image }
     b.slotA = some image ∧ (image.body ++ image.sig).length < 0x001000000000) := by decide

/-- Obligations.FabricEvents and Obligations.FaultsWindowAndHost: a busy line, room in the directory; a record's slot in a line that the host
holds. Obligations.Messages: a message of four words to a block of one resident page. -/
theorem test_witness_edges :
    ((line64 { busy := true } [] []).l2At 64).busy = true ∧ (line64 {} [] []).dirFull 64 = false ∧
    (let s := { faulted false 0x4000 0 with hst := { held := [0x80] } }
     0x4000 / 128 ∈ s.hst.held ∧ 0x4000 % 4096 = 0) ∧ (msg none).words.length = 4 ∧
    (∀ v, v ≠ 0 → ((((ringed 0 (msg none)).ctxAt 0).coreAt 0).page 0 v).res = false) := by
  refine ⟨by decide, by decide, by decide, by decide, ?_⟩
  intro v hv
  simp [ringed, cpuX, cpu, State.ctxAt, Ctx.coreAt, CtxCore.page, tget, Ne.symm hv]

/-! ## Single steps: expected values from the manual's worked examples and rules -/

/-- The thread after an instruction. -/
def after (s : State) (i : Instr) : Thread :=
  match exec i s with
  | .next t => t.me
  | _ => {}

/-- `cpu`'s thread with g-registers. -/
def withG (l : Tab Nat Word) : State := cpuT fun t => { t with g := l }

/-- R72's example: ADD, ADD under HM.SAT, and ADDC of 0x7FFF_FFF0 and 0x20. -/
theorem test_add_example :
    let s := withG [(1, 0x7FFFFFF0), (2, 0x20)]
    let sat := cpuT fun t => { t with g := [(1, 0x7FFFFFF0), (2, 0x20)], hints := { hm := some 0x200000 } }
    (after s (.add 7 3 1 2)).gr 3 = 0x80000010 ∧ (after sat (.add 7 3 1 2)).gr 3 = 0x7FFFFFFF ∧
    (after s (.addc 7 3 1 2)).gr 3 = 0 := by decide

/-- R87's example: KSET of words 0 and 6, KNEXT from 3 and from 201, KPOP. -/
theorem test_mask_example :
    let s := cpuT fun t => { t with g := [(1, 0x100), (2, 6), (4, 3), (5, 201)], k := [(3, 0x24)] }
    let t := cpuT fun u => { u with g := [(4, 3), (5, 201)], k := (after s (.kset 7 1 3 2)).k }
    (after t (.knext 7 11 3 4)).gr 11 = 5 ∧ (after t (.knext 7 11 3 5)).gr 11 = 0xFFFFFFFF ∧ (after t (.kpop 7 13 3)).gr 13 = 3 := by decide

/-- The narrow pack with saturation and a NaN: g20 = 0x001D_FF79 and FPFLAGS = 0x61. -/
theorem test_narrow_pack_example :
    let s := withG [(16, 0x43960000), (17, 0xC3FA0000), (18, 0x3DCCCCCD), (19, 0x7FC00000)]
    decode 0x73942018 = some (.cvt 7 20 16 0 .e4m3x4OfF32 0) ∧
    (after s (.cvt 7 20 16 0 .e4m3x4OfF32 0)).gr 20 = 0x001DFF79 ∧ (after s (.cvt 7 20 16 0 .e4m3x4OfF32 0)).fpflags = 0x61 := by decide

/-- The BX4 block of R38 and R114: elements and scale, and the values they decode to. -/
theorem test_bx4_example :
    let s := withG [(8, 0x41200000), (9, 0xC0200000), (10, 0x3E99999A), (11, 0), (12, 0x3F800000), (13, 0x40E00000), (14, 0xC08CCCCD),
      (15, 0x3D4CCCCD), (21, 0x3D800000)]
    let t := after s (.cvt 7 20 8 0 .bx4blkOfF32 0)
    let u := after (withG [(20, 0x0D6100B7), (21, 0x3D8000F6)]) (.cvt 7 24 20 0 .f32OfBx4blk 0)
    (t.gr 20 = 0x0D6100B7 ∧ t.gr 21 = 0x3D8000F6 ∧ t.fpflags.getLsbD 0 = true) ∧
    (List.range 8).map (fun i => u.gr (24 + i)) = [0x41220000, 0xC0220000, 0, 0, 0x3F580000, 0x40D80000, 0xC0A20000, 0] := by decide

/-- −0.3 to UINT32: 0 with NX under RNE, 0 with NV under RDN (R112). -/
theorem test_negative_to_unsigned :
    let s := withG [(1, 0xBE99999A)]
    let n := after s (.cvt 7 3 1 0 .u32OfF32 0)
    let d := after s (.cvt 7 3 1 0 .u32OfF32 2)
    (n.gr 3 = 0 ∧ n.fpflags = 1) ∧ (d.gr 3 = 0 ∧ d.fpflags.getLsbD 4 = true) := by decide

/-- The circular buffer: the second STS.64 leaves a3 = 0x108 and OFS 8; LDS.64 at 0x104 is trap 0x03. -/
theorem test_circular_buffer :
    let s := cpuC fun k => { k with threads := [(0, { thr with g := [(2, 7)], a := [(3, 0x100)], m := [(3, 24 <<< 32)] })], stt := [((0, 0), { res := true })] }
    let t := after s (.sts 7 2 3 .modulo .w64 1)
    let o := cpuC fun k => { k with threads := [(0, { thr with a := [(3, 0x104)], m := [(3, 24 <<< 32 ||| 4)] })], stt := [((0, 0), { res := true })] }
    (t.ar 3 = 0x108 ∧ t.mr 3 = (24 <<< 32) ||| 8) ∧
    (match exec (.lds 7 6 3 .modulo .w64 1) o with
     | .next u => ((u.ctxAt 0).halt.map fun h => (h.trap.cause, h.trap.tval)) == some (3, 0x104)
     | _ => false) = true := by decide

/-- The misaligned load of a user program on control core 1: what entry to the kernel leaves, and RTE's PSTAT. -/
theorem test_misaligned_load :
    let u : Thread := { pc := 0x0000004000001000, a := [(0, 0x00007F0000000002)], hints := { hm := some 0x030000 } }
    let c : Ctl := { t := u, pl := .user, kset := { ie := true }, running := true }
    let s : State := { cur := .ctl 1, ctl := [(1, c)], boot := { stage := .run } }
    (match exec (.ld 7 4 0 .offset .w32 0) s with
     | .next t =>
       let k := t.ctlAt 1
       decide (k.kset.epc = 0x0000004000001000 ∧ k.kset.code = 3 ∧ k.kset.val = 0x00007F0000000002 ∧
         k.kset.hm = { v := true, payload := 0x030000 } ∧ k.kset.intrap = true ∧ k.kset.pie = true ∧ k.kset.ie = false ∧
         k.kset.ppl = .user ∧ k.pl = .kernel ∧ k.t.hints = {} ∧ k.t.gr 4 = 0) &&
       (match exec (.rte 7) t with
        | .next u => decide ((u.ctlAt 1).kset.ie = true ∧ (u.ctlAt 1).kset.pie = true ∧ (u.ctlAt 1).pl = .user ∧
            (u.ctlAt 1).kset.intrap = false ∧ (u.ctlAt 1).t.pc = 0x0000004000001000)
        | _ => false)
     | _ => false) = true := by decide

/-- The arbiter's example: 3,600 W among demands of 1,200, 1,100, 700 and 800 W. -/
theorem test_power_example :
    (match exec (.powerEpoch 600 [1200, 1100, 700, 800] [0, 0, 0, 0]) { State.reset with clock := 14400 } with
     | .next t => decide ([0, 1, 2, 3].map (tget 0 t.power.grant) = [1050, 1050, 700, 800])
     | _ => false) = true := by decide

/-- Counts of 32 and more (R76): SHL gives zero, SAR a full sign fill, ROTR takes the count mod 32. -/
theorem test_shift_amount : (after (withG [(1, 1), (2, 32)]) (.shl 7 3 1 2)).gr 3 = 0 ∧
    (after (withG [(1, 0x80000000), (2, 32)]) (.sar 7 3 1 2)).gr 3 = 0xFFFFFFFF ∧ (after (withG [(1, 1), (2, 33)]) (.rotr 7 3 1 2)).gr 3 = 0x80000000 := by
  decide

/-- FADD of 1 and 2^-24 is a tie to even: 1 with NX; under the manual's RNE (R32, R99). -/
theorem test_fadd_tie : (after (withG [(1, 0x3F800000), (2, 0x33800000)]) (.fadd 7 3 1 2)).gr 3 = 0x3F800000 ∧
    (after (withG [(1, 0x3F800000), (2, 0x33800000)]) (.fadd 7 3 1 2)).fpflags = 1 := by decide

/-- A control core's store and load at physical addresses: little-endian bytes (R20, R236). -/
theorem test_store_bytes :
    (match exec (.st 7 1 1 .offset .w32 0) (ctlC fun c => { c with t := { c.t with g := [(1, 0x11223344)], a := [(1, 0x2000)] } }) with
     | .next t => memRead t.mem 0x2000 4 == [0x44, 0x33, 0x22, 0x11]
     | _ => false) = true := by decide

/-- A step after reset runs the word placed where it fetches: MOVI g7, 0xFFFE (R12, R78). -/
theorem test_step_reset :
    (match step (State.reset.withFetchWord 32 0x3787FFFE) with
     | .next t => decide (t.me.gr 7 = 0xFFFFFFFE ∧ t.me.pc = State.reset.me.pc + 4)
     | _ => false) = true := by decide

end Sys2Proof.Tests
end

section
/-! Integer and control words (R72 to R83): what a word of each operand form writes when it runs, when it is the illegal
instruction, and the bits of the results. -/

namespace Sys2Proof.IntegerControl

open Sys2Proof.Machine Sys2Proof.Claims

/-! ### Words by their operand form -/

section Forms

variable {s : State} {i : Instr} {pg q : BitVec 3} {d a b : BitVec 7} {hu : HintUse}

theorem writesG_of_alu3 {f : Hints → Word → Word → Word} {v : Word} (hx : exec i s = alu3 i pg d a b s hu f)
    (hv : f s.me.hints (s.me.gr a.toNat) (s.me.gr b.toNat) = v) (h : s.Runs i pg [d.toNat, a.toNat, b.toNat] [] hu) :
    WritesG s i d v := by
  rw [WritesG, hx, alu3_of_runs h, hv]

theorem writesG_of_alu3d {f : Hints → Word → Word → Word → Word} {v : Word} (hx : exec i s = alu3d i pg d a b s hu f)
    (hv : f s.me.hints (s.me.gr d.toNat) (s.me.gr a.toNat) (s.me.gr b.toNat) = v)
    (h : s.Runs i pg [d.toNat, a.toNat, b.toNat] [] hu) : WritesG s i d v := by
  rw [WritesG, hx, alu3d_of_runs h, hv]

theorem writesG_of_alu2 {f : Hints → Word → Word} {v : Word} (hx : exec i s = alu2 i pg d a s hu f)
    (hv : f s.me.hints (s.me.gr a.toNat) = v) (h : s.Runs i pg [d.toNat, a.toNat] [] hu) : WritesG s i d v := by
  rw [WritesG, hx, alu2_of_runs h, hv]

theorem writesPair_of_alu64 {bs : List Nat} {f : Thread → Dword → Dword} {v : Dword}
    (hx : exec i s = alu64 i pg d a bs s f) (hv : f s.me (s.me.pair a.toNat) = v)
    (h : s.Runs i pg ([d.toNat, d.toNat + 1, a.toNat, a.toNat + 1] ++ bs)) : WritesPair s i d v := by
  rw [WritesPair, hx, alu64_of_runs h, hv]

theorem exec_of_regWord {gs : List Nat} {rs : List PReg} {f : Thread → Thread}
    (hx : exec i s = regWord { i, pg, gs, rs, hu } s f) (h : s.Runs i pg gs rs hu) : exec i s = .next (s.did f) := by
  rw [hx, regWord_of_runs (w := { i, pg, gs, rs, hu }) f h rfl rfl]

theorem writesG_of_regWord {gs : List Nat} {rs : List PReg} {f : Thread → Thread} {v : Word}
    (hx : exec i s = regWord { i, pg, gs, rs, hu } s f) (hf : f s.me = s.me.setG d.toNat v) (h : s.Runs i pg gs rs hu) :
    WritesG s i d v := by
  rw [WritesG, exec_of_regWord hx h]
  exact congrArg _ (State.did_congr hf)

theorem writesP_of_regWord {gs : List Nat} {rs : List PReg} {f : Thread → Thread} {v : Bool}
    (hx : exec i s = regWord { i, pg, gs, rs } s f) (hf : f s.me = s.me.setP q.toNat v) (h : s.Runs i pg gs rs) :
    WritesP s i q v := by
  have hq : q.toNat = 7 ↔ q = 7 := BitVec.toNat_inj (y := 7)
  rw [WritesP, exec_of_regWord hx h]
  refine congrArg _ (State.did_congr ?_)
  simp only [hf, Thread.setP, hq]

/-- A word that breaks an operand rule or meets a hint it does not take is the illegal instruction (R61, R69). -/
theorem illegal_of_regWord {gs : List Nat} {rs : List PReg} {f : Thread → Thread} {w : BitVec 32}
    (hx : exec i s = regWord { i, pg, gs, rs, hu } s f) (he : encode i = some w)
    (h : i.wf = false ∨ hu.ok (pg == 7) s.me.hints = false) : Illegal s i := by
  have hi : W.illegal { i, pg, gs, rs, hu } s.cur s.me = true := by
    rcases h with h | h <;> simp only [W.illegal, h, Bool.not_false, Bool.true_or, Bool.or_true]
  refine ⟨w, he, ?_⟩
  rw [Traps, hx, regWord, runWord_illegal _ rfl hi, he, Option.getD_some]

end Forms

/-- A pending SAT does not apply to a word that takes none (R61). -/
theorem not_ok_of_sat {u : HintUse} {always : Bool} {h : Hints} (hu : u.sat = false) (hs : h.sat = true) :
    u.ok always h = false := by
  simp [HintUse.ok, hu, hs]

/-- A pending HX does not apply to a word that takes none (R61). -/
theorem not_ok_of_hx {u : HintUse} {always : Bool} {h : Hints} (hu : u.hx = false) (hs : h.hx ≠ none) :
    u.ok always h = false := by
  simp [HintUse.ok, hu, hs]

/-! ### Arithmetic (R72) -/

theorem satwrap_of_not_sat {s : State} (h : s.me.hints.sat = false) (v : Int) : satwrap s v = BitVec.ofInt 32 v := by
  simp [satwrap, h]

theorem ofInt_toInt_add {n : Nat} (x y : BitVec n) : BitVec.ofInt n (x.toInt + y.toInt) = x + y := by
  rw [BitVec.ofInt_add, BitVec.ofInt_toInt, BitVec.ofInt_toInt]

theorem ofInt_toInt_sub {n : Nat} (x y : BitVec n) : BitVec.ofInt n (x.toInt - y.toInt) = x - y := by
  rw [Int.sub_eq_add_neg, BitVec.ofInt_add, BitVec.ofInt_neg, BitVec.ofInt_toInt, BitVec.ofInt_toInt,
    BitVec.sub_eq_add_neg]

theorem ofInt_toInt_mul {n : Nat} (x y : BitVec n) : BitVec.ofInt n (x.toInt * y.toInt) = x * y := by
  rw [BitVec.ofInt_mul, BitVec.ofInt_toInt, BitVec.ofInt_toInt]

theorem ofInt_toInt_mulAdd {n : Nat} (z x y : BitVec n) : BitVec.ofInt n (z.toInt + x.toInt * y.toInt) = z + x * y := by
  rw [BitVec.ofInt_add, ofInt_toInt_mul, BitVec.ofInt_toInt]

/-- Settles O1: each word is its operand form with the exact result, which SATWRAP bounds or truncates. -/
theorem integerArithmetic : Obligations.IntegerArithmetic := by
  intro s pg d a b
  refine ⟨writesG_of_alu3 (exec_add ..) rfl, writesG_of_alu3 (exec_sub ..) rfl, writesG_of_alu3 (exec_addc ..) rfl,
    writesG_of_alu3 (exec_subb ..) rfl, writesG_of_alu3 (exec_mul ..) rfl, writesG_of_alu3 (exec_mulhu ..) ?mulhu,
    writesG_of_alu3 (exec_mulhs ..) ?mulhs, writesG_of_alu3d (exec_mad ..) rfl, writesG_of_alu3 (exec_min ..) rfl,
    writesG_of_alu3 (exec_max ..) rfl, writesG_of_alu3 (exec_minu ..) rfl, writesG_of_alu3 (exec_maxu ..) rfl,
    fun hs => ?exact⟩
  case mulhu => rw [Nat.shiftRight_eq_div_pow]
  case mulhs =>
    exact congrArg _ (((Int.shiftRight_natCast_right _ 32).trans (Int.shiftRight_eq_div_pow _ 32)).symm)
  case exact =>
    simp only [satwrap_of_not_sat hs]
    exact ⟨ofInt_toInt_add _ _, ofInt_toInt_sub _ _, ofInt_toInt_mul _ _, ofInt_toInt_mulAdd _ _ _⟩

/-! ### Bits counted and reversed, absolute values (R73) -/

/-- The count is the place, from the top, of the first one bit; 32 where there is none. -/
theorem clzW_cases (x : Word) :
    (clzW x = 32 ∧ ∀ j < 32, x.getLsbD (31 - j) = false) ∨
    (clzW x < 32 ∧ x.getLsbD (31 - clzW x) = true ∧ ∀ j < clzW x, x.getLsbD (31 - j) = false) := by
  cases h : (List.range 32).find? fun i => x.getLsbD (31 - i) with
  | none =>
    refine .inl ⟨by simp [clzW, h], fun j hj => ?_⟩
    simpa using List.find?_range_eq_none.1 h j hj
  | some n =>
    have hn : clzW x = n := by simp [clzW, h]
    obtain ⟨hbit, hlt, hlow⟩ := List.find?_range_eq_some.1 h
    rw [hn]
    exact .inr ⟨List.mem_range.1 hlt, hbit, fun j hj => by simpa using hlow j hj⟩

theorem clzW_le (x : Word) : clzW x ≤ 32 := by
  rcases clzW_cases x with ⟨h, -⟩ | ⟨h, -⟩ <;> omega

/-- A word with its `n` leading bits zero is below 2^(32 - n). -/
theorem toNat_lt_of_leading_zeros {x : Word} {n : Nat} (h : ∀ j < n, x.getLsbD (31 - j) = false) :
    x.toNat < 2 ^ (32 - n) := by
  refine Nat.lt_pow_two_of_testBit _ fun i hi => ?_
  rcases Nat.lt_or_ge i 32 with h32 | h32
  · have := h (31 - i) (by omega)
    rwa [show 31 - (31 - i) = i by omega] at this
  · exact BitVec.getLsbD_of_ge x i h32

theorem toNat_lt_clzW (x : Word) : x.toNat < 2 ^ (32 - clzW x) := by
  rcases clzW_cases x with ⟨h, hz⟩ | ⟨-, -, hz⟩
  · exact toNat_lt_of_leading_zeros (by rwa [h])
  · exact toNat_lt_of_leading_zeros hz

theorem clzW_le_toNat {x : Word} (h : clzW x < 32) : 2 ^ (31 - clzW x) ≤ x.toNat := by
  rcases clzW_cases x with ⟨h', -⟩ | ⟨-, hbit, -⟩
  · omega
  · exact Nat.ge_two_pow_of_testBit hbit

/-- Setting the bits below `n` that `p` names, one after another. -/
theorem getLsbD_foldl_setBit (p : Nat → Bool) (n j : Nat) (hj : j < 32) :
    ((List.range n).foldl (fun (r : Word) i => if p i then r ||| (1 <<< i) else r) 0).getLsbD j =
      (decide (j < n) && p j) := by
  induction n with
  | zero => simp
  | succ n ih =>
    rw [List.range_succ, List.foldl_append, List.foldl_cons, List.foldl_nil]
    have hone : BitVec.getLsbD ((1 <<< n : Nat) : Word) j = decide (n = j) := by
      rw [BitVec.natCast_eq_ofNat, BitVec.getLsbD_ofNat, Nat.one_shiftLeft, Nat.testBit_two_pow, decide_eq_true hj,
        Bool.true_and]
    have hsplit : (decide (j < n + 1) && p j) = ((decide (j < n) && p j) || (decide (n = j) && p n)) := by
      by_cases hjn : n = j
      · subst hjn; simp
      · simp [hjn, show j < n + 1 ↔ j < n by omega]
    rw [hsplit, ← hone, ← ih]
    cases p n with
    | false => simp only [Bool.false_eq_true, if_false, Bool.and_false, Bool.or_false]
    | true => simp only [if_true, BitVec.getLsbD_or, Bool.and_true]

theorem getLsbD_brevW (x : Word) {i : Nat} (h : i < 32) : (brevW x).getLsbD i = x.getLsbD (31 - i) := by
  rw [brevW, getLsbD_foldl_setBit (fun i => x.getLsbD (31 - i)) 32 i h, decide_eq_true h, Bool.true_and]

theorem absW_eq (x : Word) : absW x = if x.toInt < 0 then -x else x := by
  rw [absW, ← BitVec.ofInt_natCast]
  split
  · rw [Int.ofNat_natAbs_of_nonpos (by omega), BitVec.ofInt_neg, BitVec.ofInt_toInt]
  · rw [Int.natAbs_of_nonneg (by omega), BitVec.ofInt_toInt]

/-- Settles O2: the count of CLZ by its place, BREV bit by bit, ABS by its sign; ABS takes no SAT. -/
theorem bitCounts : Obligations.BitCounts := by
  intro s pg d a
  refine ⟨fun h => ?clz, ?popc, fun h => ?brev, ?abs, ?sat⟩
  case clz =>
    exact ⟨clzW (s.me.gr a.toNat), writesG_of_alu2 (exec_clz ..) rfl h, clzW_le _, toNat_lt_clzW _, clzW_le_toNat⟩
  case popc => exact writesG_of_alu2 (exec_popc ..) rfl
  case brev =>
    exact ⟨brevW (s.me.gr a.toNat), writesG_of_alu2 (exec_brev ..) rfl h, fun _ hi => getLsbD_brevW _ hi⟩
  case abs => exact writesG_of_alu2 (exec_abs ..) (absW_eq _)
  case sat => intro hs; exact illegal_of_regWord (exec_abs ..) rfl (.inr (not_ok_of_sat rfl hs))

/-! ### Pairs (R74) -/

theorem even_eq_false {r : BitVec 7} (h : r.toNat % 2 = 1) : even r = false := by
  simp [even, h]

/-- Settles O3: the operand form reads its sources from the thread the word finds; an odd field breaks the operand
rules. -/
theorem pairArithmetic : Obligations.PairArithmetic := by
  intro s pg d a b
  refine ⟨writesPair_of_alu64 (exec_add64 ..) rfl, writesPair_of_alu64 (exec_sub64 ..) rfl,
    writesPair_of_alu64 (exec_shl64 ..) rfl, writesPair_of_alu64 (exec_shr64 ..) rfl,
    fun h => ?destOrSource, fun h => ?second⟩
  case destOrSource =>
    have hda : (even d && even a) = false := by
      rcases h with h | h <;> simp only [even_eq_false h, Bool.false_and, Bool.and_false]
    have hdab : (even d && even a && even b) = false := by rw [hda, Bool.false_and]
    exact ⟨illegal_of_regWord (exec_add64 ..) rfl (.inl hdab), illegal_of_regWord (exec_sub64 ..) rfl (.inl hdab),
      illegal_of_regWord (exec_shl64 ..) rfl (.inl hda), illegal_of_regWord (exec_shr64 ..) rfl (.inl hda)⟩
  case second =>
    have hdab : (even d && even a && even b) = false := by rw [even_eq_false h, Bool.and_false]
    exact ⟨illegal_of_regWord (exec_add64 ..) rfl (.inl hdab), illegal_of_regWord (exec_sub64 ..) rfl (.inl hdab)⟩

/-! ### Shifts (R76) -/

theorem shlW_eq (x : Word) (c : Nat) : shlW x c = .ofNat 32 (if c ≥ 32 then 0 else x.toNat * 2 ^ c) := by
  unfold shlW
  split
  · rfl
  · apply BitVec.eq_of_toNat_eq
    rw [BitVec.toNat_shiftLeft, BitVec.toNat_ofNat, Nat.shiftLeft_eq]

theorem shrW_eq (x : Word) (c : Nat) : shrW x c = .ofNat 32 (if c ≥ 32 then 0 else x.toNat / 2 ^ c) := by
  unfold shrW
  split
  · rfl
  · rw [← Nat.shiftRight_eq_div_pow, ← BitVec.toNat_ushiftRight, BitVec.ofNat_toNat, BitVec.setWidth_eq]

theorem sarW_eq (x : Word) (c : Nat) : sarW x c = .ofInt 32 (x.toInt / 2 ^ min c 31) := by
  rw [sarW, BitVec.sshiftRight, Int.shiftRight_eq_div_pow]
  norm_cast

/-- Settles O4: the shifts as products and quotients by powers of two; a five-bit count stays below the width. -/
theorem logicAndShifts : Obligations.LogicAndShifts := by
  intro s pg d a b n
  have hn : n.toNat < 32 := n.isLt
  refine ⟨writesG_of_alu3 (exec_and ..) rfl, writesG_of_alu3 (exec_or ..) rfl, writesG_of_alu3 (exec_xor ..) rfl,
    writesG_of_alu3 (exec_andn ..) rfl, writesG_of_alu3 (exec_shl ..) (shlW_eq _ _),
    writesG_of_alu3 (exec_shr ..) (shrW_eq _ _), writesG_of_alu3 (exec_sar ..) (sarW_eq _ _),
    writesG_of_alu3 (exec_rotr ..) rfl, writesG_of_alu2 (exec_shli ..) ?shli, writesG_of_alu2 (exec_shri ..) ?shri,
    writesG_of_alu2 (exec_sari ..) ?sari, writesG_of_alu2 (exec_rotri ..) ?rotri, fun h => ?hx⟩
  case shli => rw [shlW_eq, if_neg (by omega)]
  case shri => rw [shrW_eq, if_neg (by omega)]
  case sari => rw [sarW_eq, min_eq_left (by omega)]
  case rotri => rw [rotrW, Nat.mod_eq_of_lt hn]
  case hx =>
    have hok := not_ok_of_hx (u := {}) (always := pg == 7) rfl h
    exact ⟨illegal_of_regWord (exec_shli ..) rfl (.inr hok), illegal_of_regWord (exec_shri ..) rfl (.inr hok),
      illegal_of_regWord (exec_sari ..) rfl (.inr hok), illegal_of_regWord (exec_rotri ..) rfl (.inr hok)⟩

/-! ### Immediates (R77, R78) -/

/-- A field that an HX extends to 32 bits or more gives the low 32 bits of its extension (R62). -/
theorem ofInt_imm (s : State) {n : Nat} (hn : 9 ≤ n) (f : BitVec n) :
    BitVec.ofInt 32 (s.me.hints.imm f) = immediate s f := by
  unfold Hints.imm immediate
  cases s.me.hints.hx with
  | none => rfl
  | some e => exact BitVec.signExtend_eq_setWidth_of_le (e ++ f) (by omega)

/-- Settles O5, by the immediate operand with and without a pending HX. -/
theorem immediates : Obligations.Immediates := by
  intro s pg d a i j
  have hi := ofInt_imm s (Nat.le_refl 9) i
  refine ⟨writesG_of_alu2 (exec_addi ..) ?_, writesG_of_alu2 (exec_andi ..) ?_, writesG_of_alu2 (exec_ori ..) ?_,
    writesG_of_alu2 (exec_xori ..) ?_, writesG_of_regWord (exec_movi ..) (congrArg _ (ofInt_imm s (by omega) j))⟩
  · rw [hi]; rfl
  all_goals rw [hi]

/-! ### Bit fields (R79) -/

/-- The field of BFEU, as bits of its source. -/
theorem bfeuW_eq (a b : Word) : bfeuW a b = (a.extractLsb' (fieldOf b).1 (fieldOf b).2).setWidth 32 := by
  apply BitVec.eq_of_toNat_eq
  simp [bfeuW]

/-- A field below half of its range is not negative. -/
theorem lt_half_iff {f n : Nat} (hn : n ≠ 0) : f < 2 ^ (n - 1) ↔ 2 * f < 2 ^ n := by
  obtain ⟨m, rfl⟩ := Nat.exists_eq_succ_of_ne_zero hn
  rw [Nat.succ_sub_one, Nat.pow_succ]
  omega

theorem bfeW_eq (a b : Word) : bfeW a b = (a.extractLsb' (fieldOf b).1 (fieldOf b).2).signExtend 32 := by
  unfold bfeW
  generalize fieldOf b = p
  obtain ⟨pos, n⟩ := p
  dsimp only
  split
  · next h => subst h; simp
  · next h =>
    rw [BitVec.signExtend, BitVec.toInt_eq_toNat_cond, BitVec.extractLsb'_toNat]
    simp only [lt_half_iff h]
    norm_cast

theorem getLsbD_bfeuW (a b : Word) {i : Nat} (h : i < 32) :
    (bfeuW a b).getLsbD i = (decide (i < (fieldOf b).2) && a.getLsbD ((fieldOf b).1 + i)) := by
  rw [bfeuW_eq, BitVec.getLsbD_setWidth, BitVec.getLsbD_extractLsb', decide_eq_true h, Bool.true_and]

theorem getLsbD_bfeW (a b : Word) {i : Nat} (h : i < 32) :
    (bfeW a b).getLsbD i =
      (decide (0 < (fieldOf b).2) && a.getLsbD ((fieldOf b).1 + min i ((fieldOf b).2 - 1))) := by
  rw [bfeW_eq, BitVec.getLsbD_signExtend, decide_eq_true h, Bool.true_and, BitVec.msb_eq_getLsbD_last]
  generalize (fieldOf b).2 = n
  split
  · next hi => simp [hi, show 0 < n by omega, show min i (n - 1) = i by omega]
  · next hi =>
    rw [BitVec.getLsbD_extractLsb', show min i (n - 1) = n - 1 by omega,
      decide_eq_decide.2 (show n - 1 < n ↔ 0 < n by omega)]

theorem getLsbD_bfiW (d a b : Word) {i : Nat} (h : i < 32) :
    (bfiW d a b).getLsbD i =
      if (fieldOf b).1 ≤ i ∧ i < (fieldOf b).1 + (fieldOf b).2 then a.getLsbD (i - (fieldOf b).1) else d.getLsbD i := by
  unfold bfiW
  generalize fieldOf b = p
  obtain ⟨pos, n⟩ := p
  have hmask : (BitVec.ofNat 32 ((2 ^ n - 1) * 2 ^ pos)).getLsbD i = decide (pos ≤ i ∧ i < pos + n) := by
    rw [BitVec.getLsbD_ofNat, Nat.testBit_mul_two_pow, Nat.testBit_two_pow_sub_one, decide_eq_true h, Bool.true_and,
      ← Bool.decide_and]
    exact decide_eq_decide.2 (by omega)
  simp only [BitVec.getLsbD_or, BitVec.getLsbD_and, BitVec.getLsbD_not, BitVec.getLsbD_shiftLeft, hmask]
  by_cases hin : pos ≤ i ∧ i < pos + n <;> simp [hin, h]

/-! ### Bytes (R80) -/

/-- The byte that selector nibble `i` of `d` picks from the eight bytes of `src` (R80). -/
def permutedByte (d : Word) (src : BitVec 64) (i : Nat) : BitVec 8 :=
  let x : BitVec 8 := src.extractLsb' (8 * (d.extractLsb' (4 * i) 3).toNat) 8
  if d.getLsbD (4 * i + 3) then (if x.getLsbD 7 then 0xFF else 0x00) else x

theorem prmtW_eq (d a b : Word) : prmtW d a b = permutedByte d (b ++ a) 3 ++ permutedByte d (b ++ a) 2 ++
    permutedByte d (b ++ a) 1 ++ permutedByte d (b ++ a) 0 := rfl

/-- Four bytes put together read back. -/
theorem extractLsb'_bytes (f : Nat → BitVec 8) {i : Nat} (h : i < 4) :
    (f 3 ++ f 2 ++ f 1 ++ f 0).extractLsb' (8 * i) 8 = f i := by
  match i, h with
  | 0, _ => exact BitVec.extractLsb'_append_eq_right
  | 1, _ =>
    rw [BitVec.extractLsb'_append_eq_of_le (by decide)]
    exact BitVec.extractLsb'_append_eq_right
  | 2, _ =>
    rw [BitVec.extractLsb'_append_eq_of_le (by decide), BitVec.extractLsb'_append_eq_of_le (by decide)]
    exact BitVec.extractLsb'_append_eq_right
  | 3, _ =>
    rw [BitVec.extractLsb'_append_eq_of_le (by decide), BitVec.extractLsb'_append_eq_of_le (by decide)]
    exact BitVec.extractLsb'_append_eq_left

theorem extractLsb'_prmtW (d a b : Word) {i : Nat} (h : i < 4) :
    (prmtW d a b).extractLsb' (8 * i) 8 = permutedByte d (b ++ a) i := by
  rw [prmtW_eq, extractLsb'_bytes _ h]

/-- The byte by the selector nibble as R80 reads it: its low three bits number the byte, bit 3 asks for its sign. -/
theorem permutedByte_eq (d : Word) (src : BitVec 64) (i : Nat) :
    permutedByte d src i =
      let q := d.extractLsb' (4 * i) 4
      let x := src.extractLsb' (8 * (q.extractLsb' 0 3).toNat) 8
      if q.getLsbD 3 then (if x.getLsbD 7 then 0xFF#8 else 0x00#8) else x := by
  have hnum : (d.extractLsb' (4 * i) 4).extractLsb' 0 3 = d.extractLsb' (4 * i) 3 := by
    ext j hj
    simp [show j < 4 by omega]
  simp [permutedByte, hnum]

/-- Settles O6: BFEU and BFE are a slice of the source extended, BFI is a mask, PRMT four bytes put together. -/
theorem bitFieldsAndBytes : Obligations.BitFieldsAndBytes := by
  intro s pg d a b
  refine ⟨fun h => ⟨_, writesG_of_alu3 (exec_bfeu ..) rfl h, fun i hi => getLsbD_bfeuW _ _ hi⟩,
    fun h => ⟨_, writesG_of_alu3 (exec_bfe ..) rfl h, fun i hi => getLsbD_bfeW _ _ hi⟩,
    fun h => ⟨_, writesG_of_alu3d (exec_bfi ..) rfl h, fun i hi => getLsbD_bfiW _ _ _ hi⟩,
    fun h => ⟨_, writesG_of_alu3d (exec_prmt ..) rfl h, fun i hi => ?_⟩⟩
  rw [extractLsb'_prmtW _ _ _ hi, permutedByte_eq]

/-! ### Predicates (R81) -/

theorem icond_eq_compares (c : ICond) {n : Nat} (x y : BitVec n) :
    icond c x.toInt y.toInt x.toNat y.toNat = compares c x y := by
  have heq : (x.toNat == y.toNat) = (x == y) := by
    rw [Bool.eq_iff_iff, beq_iff_eq, beq_iff_eq, BitVec.toNat_inj]
  cases c with
  | eq => exact heq
  | ne => exact congrArg not heq
  | lt | gt => exact BitVec.slt_eq_decide.symm
  | le | ge => exact BitVec.sle_eq_decide.symm
  | ltu | gtu => exact BitVec.ult_eq_decide.symm
  | leu | geu => exact BitVec.ule_eq_decide.symm

/-- Settles O7: a condition compares the numbers that the operands stand for. -/
theorem predicatesAndSelect : Obligations.PredicatesAndSelect := by
  intro s pg q p1 p2 d a b i t n c
  exact ⟨writesP_of_regWord (exec_setp ..) (congrArg (s.me.setP _) (icond_eq_compares c _ _)),
    writesP_of_regWord (exec_setp64 ..) (congrArg (s.me.setP _) (icond_eq_compares c _ _)),
    writesP_of_regWord (exec_setpImm ..) (congrArg (s.me.setP _) (icond_eq_compares c _ _)),
    writesP_of_regWord (exec_plop ..) rfl, writesG_of_regWord (exec_sel ..) rfl⟩

end Sys2Proof.IntegerControl
end
